-- ==== Sys2Proof/Word.lean ====
section
/-! DEFINITION. The word types of the Sholan S8 and the unit numbers of its register space (R9 and the
identifier table of spec/00_scope.md). -/

namespace Sys2Proof

/-- One byte. -/
abbrev Byte := BitVec 8
/-- One 16-bit half word. -/
abbrev Half := BitVec 16
/-- A 32-bit register word (spec/00_scope.md, Notation). -/
abbrev Word := BitVec 32
/-- A 64-bit word. -/
abbrev DWord := BitVec 64

/-- Compute die D0 to D7. -/
abbrev Die := Fin 8
/-- Physical core `272 * d + n` of die `d` (R63, R89). -/
abbrev CoreId := Fin 2176
/-- Memory stack M0 to M15. -/
abbrev StackId := Fin 16
/-- Link port L0 to L35. -/
abbrev PortId := Fin 36
/-- Host function F0 to F64. -/
abbrev Fn := Fin 65
/-- Hardware context slot 0 to 63 (R392). -/
abbrev Slot := Fin 64
/-- Node ID, 14 bits. -/
abbrev NodeId := BitVec 14
/-- Scalar register number X0 to X31 (R63). -/
abbrev XReg := BitVec 5
/-- Vector register number V0 to V31 (R63). -/
abbrev VReg := BitVec 5
/-- Arrival slot number AS0 to AS31 (R63). -/
abbrev ArrSlot := BitVec 5
/-- The 16-bit immediate of the control slot (R71). -/
abbrev Imm16 := BitVec 16
/-- The signed 21-bit bundle offset of the branch layout (R71). -/
abbrev Off21 := BitVec 21

end Sys2Proof
end

