-- ==== Sys2Proof/Syntax.lean ====
section
/-! DEFINITION. The commands of the S8: one constructor per row of spec/opcode_table.json, and the operand types
they carry. -/

namespace Sys2Proof

/-- Who reads or writes a register, or sends a change (the origins of R431). -/
inductive Origin where
  | host (f : Fn)
  | firmware (core : Fin 8)
  | dieAgent (d : Die)
  | mctp (eid : Byte)
  | testPort
  | rule (num : Byte)
  deriving DecidableEq, Repr

/-- The path a command of R421 came by, and so where its reply goes (R409, R413, R434). -/
inductive CmdSrc where
  | mailbox (f : Fn)
  | ring (f : Fn) (r : Fin 4)
  | mctp (eid : Byte)
  deriving DecidableEq, Repr

/-- A command packet without its opcode, which the row gives (R416). `ps` are P0 to P10. -/
structure Packet where
  opcode : BitVec 16
  flags : BitVec 16
  ctx : BitVec 16
  tag : BitVec 16
  extAddr : DWord
  extLen : BitVec 16
  reserved : BitVec 16
  ps : List Word
  deriving DecidableEq, Repr

/-- The lane group and mask fields of the vector slot (R73). -/
structure LaneSel where
  grp : BitVec 3
  mask : BitVec 3
  deriving DecidableEq, Repr

/-- The key of a flow (R311). -/
structure FlowKey where
  src : NodeId
  dst : NodeId
  vc : Fin 8
  flow : BitVec 16
  deriving DecidableEq, Repr

/-- A unit that spare management names: kind code of R387, die, stack or port, and unit number. -/
structure UnitRef where
  kind : Fin 9
  place : Fin 36
  unit : Nat
  deriving DecidableEq, Repr

/-- What one training attempt found (R286): the lanes that locked in each direction, the far end's identity, and the
measured round trip in mt. -/
structure TrainResult where
  rxLock : BitVec 9
  txLock : BitVec 9
  farNode : NodeId
  farPort : BitVec 6
  farRole : BitVec 2
  roundTrip : DWord
  deriving DecidableEq, Repr

/-- The clock sources that are monitored (R439). -/
inductive ClkSrc where
  | refA
  | refB
  | sosc
  deriving DecidableEq, Repr

/-- The rails of R463. -/
inductive Rail where
  | core (d : Die)
  | uncore (d : Die)
  | base
  | vddqMem
  | vppMem
  | ser
  | serA
  | pcie
  | attic
  deriving DecidableEq, Repr

/-- What the board, the flash, the manufacturing record and the wear record give start-up (R304, R361, R389, R432, R456):
the disabled cores, the update engines disabled by stack, the spare pseudo-channels in use with the pseudo-channel each
replaces, the stacks out of service, the reduction-buffer banks disabled, whether the standby set is unusable and the attic
single, the node ID, the store-room granule entries and the log mirror base. -/
structure BootInfo where
  disabled : List Nat
  engines : List Nat
  pcSpared : List (Nat × Nat)
  stacksLost : BitVec 16
  banks : Nat
  standbyBad : Bool
  atticSingle : Bool
  nodeId : NodeId
  storeGranules : List (Nat × Word)
  logBase : BitVec 14
  deriving DecidableEq, Repr

/-- The result of authenticating the flash images (R457). -/
structure AuthResult where
  primaryOk : Bool
  secondaryOk : Bool
  standbyOk : Bool
  version : Word
  build : Word
  edition : BitVec 16
  deriving DecidableEq, Repr

/-- The commands, one constructor per row of spec/opcode_table.json. -/
inductive Instr where
  /-- REG_WRITE (R5): A write to a register field that has no row of its own, acting under its access code. -/
  | regWrite (o : Origin) (off : Word) (v : Word)
  /-- RC_READ (R7): A read of an RC field returns the value and clears the field; an event in the same cycle stays set for
  the next read. -/
  | rcRead (o : Origin) (off : Word)
  /-- MT_NOW_LO_READ (R250): A read of MT_NOW_LO returns machine time bits [31:0] and latches bits [63:32] into MT_NOW_HI
  for the same function. -/
  | mtNowLoRead (f : Fn)
  /-- BUNDLE_ISSUE (R68): The core issues one 128-bit bundle in a schedule cycle, issuing all four slots together. -/
  | bundleIssue (c : CoreId)
  /-- ADD (R71): XD receives XA + XB, wrapping mod 2^64. -/
  | add (c : CoreId) (xd xa xb : XReg)
  /-- SUB (R71): XD receives XA - XB, wrapping. -/
  | sub (c : CoreId) (xd xa xb : XReg)
  /-- AND (R71): XD receives the bitwise AND of XA and XB. -/
  | andOp (c : CoreId) (xd xa xb : XReg)
  /-- OR (R71): XD receives the bitwise OR of XA and XB. -/
  | orOp (c : CoreId) (xd xa xb : XReg)
  /-- XOR (R71): XD receives the bitwise XOR of XA and XB. -/
  | xorOp (c : CoreId) (xd xa xb : XReg)
  /-- SHL (R71): XD receives XA shifted left by XB mod 64. -/
  | shl (c : CoreId) (xd xa xb : XReg)
  /-- SHR (R71): XD receives XA shifted right logically by XB mod 64. -/
  | shr (c : CoreId) (xd xa xb : XReg)
  /-- SRA (R71): XD receives XA shifted right arithmetically by XB mod 64. -/
  | sra (c : CoreId) (xd xa xb : XReg)
  /-- MUL (R71): XD receives the low 64 bits of XA x XB after 3 cycles. -/
  | mul (c : CoreId) (xd xa xb : XReg)
  /-- CMPLT (R71): XD receives 1 if XA < XB signed, else 0. -/
  | cmplt (c : CoreId) (xd xa xb : XReg)
  /-- CMPLTU (R71): XD receives 1 if XA < XB unsigned, else 0. -/
  | cmpltu (c : CoreId) (xd xa xb : XReg)
  /-- CMPEQ (R71): XD receives 1 if XA = XB, else 0. -/
  | cmpeq (c : CoreId) (xd xa xb : XReg)
  /-- ADDI (R71): XD receives XA plus the sign-extended IMM16, wrapping. -/
  | addi (c : CoreId) (xd xa : XReg) (imm : Imm16)
  /-- LI (R71): XD receives the sign-extended IMM16. -/
  | li (c : CoreId) (xd : XReg) (imm : Imm16)
  /-- SHLI (R71): XD receives XA shifted left by IMM16[5:0]. -/
  | shli (c : CoreId) (xd xa : XReg) (imm : Imm16)
  /-- LIH (R71): XD receives (XA << 16) OR IMM16. -/
  | lih (c : CoreId) (xd xa : XReg) (imm : Imm16)
  /-- BR (R72): Unconditional branch; the two following bundles issue before the target. -/
  | br (c : CoreId) (off : Off21)
  /-- BZ (R72): Branch taken when XA is zero. -/
  | bz (c : CoreId) (xa : XReg) (off : Off21)
  /-- BNZ (R72): Branch taken when XA is nonzero. -/
  | bnz (c : CoreId) (xa : XReg) (off : Off21)
  /-- LOOP (R71): Runs the following body max(XA,1) times with a zero-cost back edge, nesting up to four deep. -/
  | loopOp (c : CoreId) (xa : XReg) (off : Off21)
  /-- WAIT (R80): Arrival point on the named arrival slots; freezes the core until they are complete. -/
  | waitOp (c : CoreId) (half : Bool) (mask : Imm16)
  /-- FENCE (R476): Arrival point that completes when all earlier writes of the task are visible at the named scope. -/
  | fence (c : CoreId) (imm : Imm16)
  /-- MARK (R83): Sets the repeat point and saves X1-X31 and the loop stack for anchor-raise repeats. -/
  | markOp (c : CoreId)
  /-- END (R158): Arrival point that ends the task once every arrival slot is complete. -/
  | endTask (c : CoreId)
  /-- SPAWN (R160): Copies the task descriptor at X[XA] and enqueues it on the selected queue or gate pool. -/
  | spawn (c : CoreId) (xa : XReg) (imm : Imm16)
  /-- LIDX (R71): XD receives the task base logical index plus IMM16, wrapping as u40. -/
  | lidx (c : CoreId) (xd : XReg) (imm : Imm16)
  /-- RDCNT (R176): XD receives the bound core count fixed at load. -/
  | rdcnt (c : CoreId) (xd : XReg)
  /-- RDOBS (R171): XD receives the observation value selected by IMM16. -/
  | rdobs (c : CoreId) (xd : XReg) (imm : Imm16)
  /-- RDPAR (R155): XD receives parameter word IMM16[4:0] of the task descriptor. -/
  | rdpar (c : CoreId) (xd : XReg) (imm : Imm16)
  /-- VMOV (R73): VD receives VA in enabled lanes. -/
  | vmov (c : CoreId) (g : LaneSel) (vd va : VReg)
  /-- VAND (R73): Bitwise AND of vector registers in enabled lanes. -/
  | vand (c : CoreId) (g : LaneSel) (vd va vb : VReg)
  /-- VOR (R73): Bitwise OR of vector registers in enabled lanes. -/
  | vor (c : CoreId) (g : LaneSel) (vd va vb : VReg)
  /-- VXOR (R73): Bitwise XOR of vector registers in enabled lanes. -/
  | vxor (c : CoreId) (g : LaneSel) (vd va vb : VReg)
  /-- VIADD (R73): u32 wrapping add in enabled lanes. -/
  | viadd (c : CoreId) (g : LaneSel) (vd va vb : VReg)
  /-- VISUB (R73): u32 wrapping subtract in enabled lanes. -/
  | visub (c : CoreId) (g : LaneSel) (vd va vb : VReg)
  /-- VSHL (R73): Shift left by VB mod 32 in enabled lanes. -/
  | vshl (c : CoreId) (g : LaneSel) (vd va vb : VReg)
  /-- VSHR (R73): Shift right by VB mod 32 in enabled lanes. -/
  | vshr (c : CoreId) (g : LaneSel) (vd va vb : VReg)
  /-- VSEL (R73): VD receives VA where the named mask is set, else VB. -/
  | vsel (c : CoreId) (g : LaneSel) (vd va vb : VReg) (k : BitVec 3)
  /-- VSPLAT (R73): VD receives bits [31:0] of scalar X[VA] in every enabled lane. -/
  | vsplat (c : CoreId) (g : LaneSel) (vd : VReg) (xa : XReg)
  /-- VLIDX (R73): VD and VD+1 receive each lane's logical index. -/
  | vlidx (c : CoreId) (g : LaneSel) (vd : VReg)
  /-- VPERM (R73): Permutes lanes of VA within the group by VB. -/
  | vperm (c : CoreId) (g : LaneSel) (vd va vb : VReg)
  /-- FADD (R122): FP32 add rounded once. -/
  | fadd (c : CoreId) (g : LaneSel) (vd va vb : VReg)
  /-- FSUB (R122): FP32 subtract rounded once. -/
  | fsub (c : CoreId) (g : LaneSel) (vd va vb : VReg)
  /-- FMUL (R122): FP32 multiply rounded once. -/
  | fmul (c : CoreId) (g : LaneSel) (vd va vb : VReg)
  /-- FFMA (R124): FP32 fused multiply-add with a single rounding. -/
  | ffma (c : CoreId) (g : LaneSel) (vd va vb vc : VReg)
  /-- FMIN (R124): FP32 minimum with -0 below +0 and canonical NaN. -/
  | fmin (c : CoreId) (g : LaneSel) (vd va vb : VReg)
  /-- FMAX (R124): FP32 maximum with -0 below +0 and canonical NaN. -/
  | fmax (c : CoreId) (g : LaneSel) (vd va vb : VReg)
  /-- FSGN (R125): Negates or clears bit 31 only. -/
  | fsgn (c : CoreId) (g : LaneSel) (vd va : VReg) (abs : Bool)
  /-- FDIV (R124): FP32 division rounded once. -/
  | fdiv (c : CoreId) (g : LaneSel) (vd va vb : VReg)
  /-- FCMP (R125): Writes a mask from an FP32 comparison condition. -/
  | fcmp (c : CoreId) (g : LaneSel) (k : BitVec 3) (va vb : VReg) (cond : BitVec 4)
  /-- FEXP (R126): Correctly rounded e^x. -/
  | fexp (c : CoreId) (g : LaneSel) (vd va : VReg)
  /-- FEXP2 (R126): Correctly rounded 2^x. -/
  | fexp2 (c : CoreId) (g : LaneSel) (vd va : VReg)
  /-- FLOG (R126): Correctly rounded ln x. -/
  | flog (c : CoreId) (g : LaneSel) (vd va : VReg)
  /-- FLOG2 (R126): Correctly rounded log2 x. -/
  | flog2 (c : CoreId) (g : LaneSel) (vd va : VReg)
  /-- FRCP (R126): Correctly rounded 1/x. -/
  | frcp (c : CoreId) (g : LaneSel) (vd va : VReg)
  /-- FRSQ (R126): Correctly rounded 1/sqrt x. -/
  | frsq (c : CoreId) (g : LaneSel) (vd va : VReg)
  /-- FSQRT (R126): Correctly rounded sqrt x. -/
  | fsqrt (c : CoreId) (g : LaneSel) (vd va : VReg)
  /-- FTANH (R126): Correctly rounded tanh x. -/
  | ftanh (c : CoreId) (g : LaneSel) (vd va : VReg)
  /-- FSIG (R126): Correctly rounded logistic sigmoid. -/
  | fsig (c : CoreId) (g : LaneSel) (vd va : VReg)
  /-- FERF (R126): Correctly rounded erf x. -/
  | ferf (c : CoreId) (g : LaneSel) (vd va : VReg)
  /-- FSIN (R126): Correctly rounded sin x for |x| <= 65,536. -/
  | fsin (c : CoreId) (g : LaneSel) (vd va : VReg)
  /-- FCOS (R126): Correctly rounded cos x for |x| <= 65,536. -/
  | fcos (c : CoreId) (g : LaneSel) (vd va : VReg)
  /-- CVTIN (R53): Converts VA read in a storage format to FP32. -/
  | cvtin (c : CoreId) (g : LaneSel) (vd va : VReg) (fmt : BitVec 5)
  /-- CVTOUT (R53): Encodes VA into a storage format with RNE. -/
  | cvtout (c : CoreId) (g : LaneSel) (vd va : VReg) (fmt : BitVec 5)
  /-- RSUMA (R131): Anchored exact sum over the group's enabled lanes in one of three forms. -/
  | rsuma (c : CoreId) (g : LaneSel) (vd va vb vc : VReg) (mod : BitVec 7)
  /-- RSUMT (R135): FP32 pairwise tree sum over enabled lanes in logical-index order. -/
  | rsumt (c : CoreId) (g : LaneSel) (vd va : VReg)
  /-- RMAXI (R117): Reduces enabled lanes to a maximum value with its lowest logical index. -/
  | rmaxi (c : CoreId) (g : LaneSel) (vd va vb vc : VReg) (cont : Bool)
  /-- RMINI (R117): Reduces enabled lanes to a minimum value with its lowest logical index. -/
  | rmini (c : CoreId) (g : LaneSel) (vd va vb vc : VReg) (cont : Bool)
  /-- RNGI (R215): Index-keyed generator draw written in the selected shape. -/
  | rngi (c : CoreId) (g : LaneSel) (vd : VReg) (xa xb : XReg) (vc : VReg) (mod : BitVec 7)
  /-- RNGL (R221): Lane-state generator draw that advances each thread's draw and stream. -/
  | rngl (c : CoreId) (g : LaneSel) (vd : VReg) (xb : XReg) (mod : BitVec 7)
  /-- LDV (R74): Loads 64 shelf bytes into vector lanes. -/
  | ldv (c : CoreId) (grp : BitVec 3) (vr : VReg) (lfmt : BitVec 3) (xb : XReg) (off : Byte)
  /-- STV (R74): Stores vector lanes to 64 shelf bytes. -/
  | stv (c : CoreId) (grp : BitVec 3) (vr : VReg) (lfmt : BitVec 3) (xb : XReg) (off : Byte)
  /-- LDX (R74): Loads 8 shelf bytes into a scalar register. -/
  | ldx (c : CoreId) (xr : XReg) (xb : XReg) (off : Byte)
  /-- STX (R74): Stores a scalar register to 8 shelf bytes. -/
  | stx (c : CoreId) (xr : XReg) (xb : XReg) (off : Byte)
  /-- MDL (R77): Loads a 64-byte matrix descriptor into MD0-MD15. -/
  | mdl (c : CoreId) (md : BitVec 5) (xb : XReg) (off : Byte)
  /-- TMV (R141): Queues a tile-mover descriptor on an arrival slot. -/
  | tmv (c : CoreId) (as : ArrSlot) (xb : XReg) (off : Byte)
  /-- FILL (R139): Queues an at-shelf fill of a line range with a pattern. -/
  | fill (c : CoreId) (as : ArrSlot) (xb : XReg) (off : Byte)
  /-- SCOPY (R140): Queues an at-shelf copy of a line range. -/
  | scopy (c : CoreId) (as : ArrSlot) (xb : XReg) (off : Byte)
  /-- MSG (R169): Sends a 64-byte message to a box of a destination logical core. -/
  | msg (c : CoreId) (as : ArrSlot) (xb : XReg) (off : Byte)
  /-- COLL (R321): Contributes to and launches the collective named by the descriptor. -/
  | coll (c : CoreId) (as : ArrSlot) (xb : XReg) (off : Byte)
  /-- RECV (R170): Arms a box so the next message for it lands in the inbox line. -/
  | recv (c : CoreId) (as : ArrSlot) (xb : XReg) (off : Byte)
  /-- MMA (R93): Accumulates K reduction steps of exact products aligned to the block anchor. -/
  | mma (c : CoreId) (md : BitVec 4) (ct : BitVec 2) (k16 : Byte) (clr : Bool)
  /-- MPRE (R109): Preloads the accumulators with an aligned S16 bias or residual tile. -/
  | mpre (c : CoreId) (md : BitVec 4) (ct : BitVec 2)
  /-- MOUT (R111): Converts a crate tile through scale, bias, clip and one rounding and writes it to the shelf. -/
  | mout (c : CoreId) (md : BitVec 4) (ct : BitVec 2)
  /-- MSPILL (R98): Adds the accumulators exactly into the crate tile and clears them. -/
  | mspill (c : CoreId) (ct : BitVec 2)
  /-- MANCH (R99): Binds a block to a crate tile and sets its anchor explicitly or by AUTO pre-pass. -/
  | manch (c : CoreId) (md : BitVec 4) (ct : BitVec 2) (auto : Bool) (as : ArrSlot)
  /-- CSAVE (R97): Writes a crate tile's 12 KiB image to the shelf. -/
  | csave (c : CoreId) (md : BitVec 4) (ct : BitVec 2)
  /-- CLOAD (R91): Reads a crate tile's entries from the shelf. -/
  | cload (c : CoreId) (md : BitVec 4) (ct : BitVec 2)
  /-- TOKEN_WINDOW_START (R87): A new 256-cycle window refills each context's token pool and releases token-frozen cores. -/
  | tokenWindowStart (d : Die)
  /-- ARRIVAL_RELEASE (R80): A core frozen at an arrival point issues its bundle once every item is complete. -/
  | arrivalRelease (c : CoreId)
  /-- SLOW_PATH_DUE (R82): A transcendental needing the slow path freezes the core at its due cycle. -/
  | slowPathDue (c : CoreId)
  /-- SLOW_PATH_DONE (R129): The slow-path engine writes the last lane result and the freeze ends. -/
  | slowPathDone (c : CoreId)
  /-- WHOLE_BLOCK_REPEAT (R83): After in-flight work and arrival slots complete, the core restores the MARK state and
  repeats from the repeat point. -/
  | wholeBlockRepeat (c : CoreId)
  /-- MOVER_ITEM_START (R145): A free engine starts the next mover-queue item and validates its descriptor. -/
  | moverItemStart (c : CoreId)
  /-- MOVER_ITEM_COMPLETE (R141): A tile-mover item completes and completes its arrival slot. -/
  | moverItemComplete (c : CoreId) (eng : Fin 4)
  /-- AT_SHELF_COMPLETE (R140): A FILL or SCOPY writes its last line and completes its arrival slot. -/
  | atShelfComplete (c : CoreId) (eng : Fin 4)
  /-- SHELF_CLEAR (R151): Once started mover items complete, the shelf is zeroed and its marks and resident entries cleared. -/
  | shelfClear (c : CoreId)
  /-- TASK_START (R156): A core takes a ready task and starts it in the defined start state. -/
  | taskStart (c : CoreId)
  /-- TASK_END (R158): With all slots complete, the task's writes become visible, tallies are added, SIGNAL increments and
  the core is freed. -/
  | taskEnd (c : CoreId)
  /-- OVERFLOW_RING_REFILL (R159): A task moves from the overflow ring onto the die as queue entries free. -/
  | overflowRingRefill (k : Slot) (lcore : Fin 2048)
  /-- STEAL_PROBE_ROUND (R163): An idle core probes local and then remote victims for a task. -/
  | stealProbeRound (c : CoreId)
  /-- PROBE_WAIT_EXPIRY (R163): The 256-cycle wait after an empty probe round ends. -/
  | probeWaitExpiry (c : CoreId)
  /-- REMOTE_STEAL_QUERY (R164): A remote query reaches the victim die, which judges it and removes the task it gives. -/
  | remoteStealQuery (c : CoreId)
  /-- STEAL_REPLY (R164): The reply with the stolen descriptor reaches the thief. -/
  | stealReply (c : CoreId)
  /-- MESSAGE_DELIVERY (R170): A message lands in an armed box or the core's buffer. -/
  | messageDelivery
  /-- MSG_LANDED (R169): The sender's arrival slot completes when its message has landed. -/
  | msgLanded (id : Nat)
  /-- MSG_REFUSAL (R169): A destination's refusal returns and fails the sending task with MSG_DEST. -/
  | msgRefusal (id : Nat)
  /-- GRID_CHECK_DONE (R174): A mode-2 anchor-table check completes and fails the task on a difference. -/
  | gridCheckDone (c : CoreId)
  /-- PREPASS_LOCAL_DONE (R101): The AUTO pre-pass finishes its reads with a local code. -/
  | prepassLocalDone (c : CoreId)
  /-- CELLAR_READ (R189): A stack reads a line, correcting or poisoning it under ECC. -/
  | cellarRead (m : StackId) (line : BitVec 30) (errs : Nat)
  /-- ROW_RETIREMENT_DONE (R192): A row copy completes and waiting accesses proceed. -/
  | rowRetirementDone (m : StackId)
  /-- PC_MIGRATION_DONE (R193): The copy of a pseudo-channel to the spare completes. -/
  | pcMigrationDone (m : StackId)
  /-- CELLAR_WRITE (R190): A stack writes a line and sets its poison bit by the write rules. -/
  | cellarWrite (m : StackId) (line : BitVec 30) (first : Fin 64) (data : List Byte) (poison : Bool)
  /-- COW_WAIT_RESUME (R344): A waiting copy-on-write write proceeds once a page is released. -/
  | cowWaitResume (m : StackId)
  /-- SCRUB_LINE (R191): The scrub reads a line and rewrites it if corrected. -/
  | scrubLine (m : StackId) (line : BitVec 30) (errs : Nat)
  /-- GRANULE_ZERO_FILL_DONE (R186): Zero fill of a granule whose owner changes completes. -/
  | granuleZeroFillDone (g : Fin 1024)
  /-- STORE_ROOM_LOCK (R185): Writing STR_CFG.LOCK fixes the store room and locks its granule entries. -/
  | storeRoomLock (o : Origin)
  /-- UPDATE_START (R206): A queued update reaches the head of its stack queue and starts. -/
  | updateStart (m : StackId)
  /-- UPDATE_COMPLETE (R207): An update's writes and tallies complete and its fences are released. -/
  | updateComplete (m : StackId)
  /-- CU_LD (R199): Loads element e of a slot decoded to FP32. -/
  | cuLd (m : StackId) (e : BitVec 40) (d : BitVec 4) (sl : BitVec 3)
  /-- CU_LDW (R199): Loads the split weight high || low. -/
  | cuLdw (m : StackId) (e : BitVec 40) (d : BitVec 4) (sl : BitVec 3)
  /-- CU_ST (R199): Stores source A to a slot encoded with RNE. -/
  | cuSt (m : StackId) (e : BitVec 40) (a : BitVec 5) (sl : BitVec 3)
  /-- CU_STW (R199): Stores source A as a split master weight. -/
  | cuStw (m : StackId) (e : BitVec 40) (a : BitVec 5) (sl : BitVec 3)
  /-- CU_MOV (R199): Copies A unchanged. -/
  | cuMov (m : StackId) (e : BitVec 40) (d : BitVec 4) (a : BitVec 5)
  /-- CU_ADD (R199): fadd(A, B). -/
  | cuAdd (m : StackId) (e : BitVec 40) (d : BitVec 4) (a b : BitVec 5)
  /-- CU_SUB (R199): fadd(A, -B). -/
  | cuSub (m : StackId) (e : BitVec 40) (d : BitVec 4) (a b : BitVec 5)
  /-- CU_MUL (R199): fmul(A, B). -/
  | cuMul (m : StackId) (e : BitVec 40) (d : BitVec 4) (a b : BitVec 5)
  /-- CU_FMA (R199): ffma(A, B, C) with one rounding. -/
  | cuFma (m : StackId) (e : BitVec 40) (d : BitVec 4) (a b c : BitVec 5)
  /-- CU_DIV (R199): fdiv(A, B). -/
  | cuDiv (m : StackId) (e : BitVec 40) (d : BitVec 4) (a b : BitVec 5)
  /-- CU_SQRT (R199): fsqrt(A). -/
  | cuSqrt (m : StackId) (e : BitVec 40) (d : BitVec 4) (a : BitVec 5)
  /-- CU_MIN (R199): FMIN of A and B. -/
  | cuMin (m : StackId) (e : BitVec 40) (d : BitVec 4) (a b : BitVec 5)
  /-- CU_MAX (R199): FMAX of A and B. -/
  | cuMax (m : StackId) (e : BitVec 40) (d : BitVec 4) (a b : BitVec 5)
  /-- CU_NEG (R199): Inverts bit 31 of A. -/
  | cuNeg (m : StackId) (e : BitVec 40) (d : BitVec 4) (a : BitVec 5)
  /-- CU_ABS (R199): Clears bit 31 of A. -/
  | cuAbs (m : StackId) (e : BitVec 40) (d : BitVec 4) (a : BitVec 5)
  /-- CU_SGN (R199): Sign of A as +1, -1, +0 or NaN. -/
  | cuSgn (m : StackId) (e : BitVec 40) (d : BitVec 4) (a : BitVec 5)
  /-- CU_CLT (R199): 1.0 if A < B, else +0. -/
  | cuClt (m : StackId) (e : BitVec 40) (d : BitVec 4) (a b : BitVec 5)
  /-- CU_SEL (R199): A if C is not zero, else B. -/
  | cuSel (m : StackId) (e : BitVec 40) (d : BitVec 4) (a b c : BitVec 5)
  /-- CU_AXPBY (R199): ffma(B, H[k+1], fmul(A, H[k])). -/
  | cuAxpby (m : StackId) (e : BitVec 40) (d : BitVec 4) (a b c : BitVec 5)
  /-- CU_EMASQ (R199): ffma(fmul(B,B), H[k+1], fmul(A, H[k])). -/
  | cuEmasq (m : StackId) (e : BitVec 40) (d : BitVec 4) (a b c : BitVec 5)
  /-- CU_ADIR (R199): Adam direction fdiv(fmul(A,H[k]), fadd(fsqrt(fmul(B,H[k+1])), H[k+2])). -/
  | cuAdir (m : StackId) (e : BitVec 40) (d : BitVec 4) (a b c : BitVec 5)
  /-- CU_END (R199): Ends the element's program. -/
  | cuEnd (m : StackId) (e : BitVec 40)
  /-- FRONT_STAGE_START (R236): The solver front stage of a statistics step starts when its join counter is satisfied. -/
  | frontStageStart (d : Die)
  /-- FACTORISATION_START (R238): Factorisation of a statistics step starts after that step commits. -/
  | factorisationStart (d : Die)
  /-- SOLVER_MATRIX_DONE (R245): The solver finishes one matrix of a batch and writes its output. -/
  | solverMatrixDone (d : Die)
  /-- STEP_BEGIN (R161): A step begins once its conditions hold, clearing its join bank and applying pending settings. -/
  | stepBegin (k : Slot)
  /-- STEP_COMMIT (R20): A step commits once its tasks, updates and tally close and ring space allow. -/
  | stepCommit (k : Slot)
  /-- TLY_RING_TAIL_WRITE (R41): Software advances RPR_TLY_RING.TAIL, freeing room for a waiting commit. -/
  | tlyRingTailWrite (o : Origin) (k : Slot) (tail : Imm16)
  /-- STEP_CLOSE_CONTRIBUTE (R372): The integrity unit contributes its step-close code once the step's tasks and collectives
  are done. -/
  | stepCloseContribute (k : Slot)
  /-- STEP_CLOSE_AGREED (R374): The step-close agreement completes and decides close, replay or termination. -/
  | stepCloseAgreed (k : Slot)
  /-- REPLAY_START_AGREED (R374): The replay-start agreement completes and the step's posted tasks run again. -/
  | replayStartAgreed (k : Slot)
  /-- AUDIT_COMPARE (R382): Once original and audit have ended, their task tallies are compared. -/
  | auditCompare (c : CoreId)
  /-- MARGIN_RUN_START (R384): A margin run of an unbound unit starts when due. -/
  | marginRunStart (u : UnitRef) (row : Fin 6)
  /-- MARGIN_RUN_DONE (R384): A margin run finishes and compares its result tallies. -/
  | marginRunDone (u : UnitRef) (passed : List Bool)
  /-- MT_COPY_CORRECTION (R249): Every 1 us the keeper slews each die's machine time copy. -/
  | mtCopyCorrection (d : Die)
  /-- EXCHANGE_REQUEST_SEND (R251): Every 125 us an enabled port sends a time exchange request. -/
  | exchangeRequestSend (p : PortId)
  /-- EXCHANGE_REQUEST_RECEIVE (R251): A neighbour's exchange request arrives and a reply is sent. -/
  | exchangeRequestReceive (p : PortId) (body : List Byte) (resent : Bool)
  /-- EXCHANGE_REPLY_RECEIVE (R252): A reply arrives and the port computes delay and offset. -/
  | exchangeReplyReceive (p : PortId) (body : List Byte) (resent : Bool)
  /-- OFF_SCHEDULE_REJOIN (R261): After 1 ms within one guard the device rejoins at a frame boundary. -/
  | offScheduleRejoin
  /-- PPS_EDGE (R256): A TIME_PPS rising edge aligns the whole second or is ignored. -/
  | ppsEdge
  /-- PPS_MISS_TIMEOUT (R256): No valid PPS edge for 1.1 s sets PPS_MISS and drops the candidate. -/
  | ppsMissTimeout
  /-- SLOT_ENTRY_WRITE (R258): A slot schedule entry write is checked and takes effect at the next frame boundary. -/
  | slotEntryWrite (o : Origin) (p : PortId) (e : Fin 64) (second : Bool) (v : Word)
  /-- FRAME_BOUNDARY (R258): A frame period boundary applies pending slot entries. -/
  | frameBoundary
  /-- SLOT_FRAME_SEND (R259): A transmitter starts a VC1 frame inside its slot and guards. -/
  | slotFrameSend (p : PortId) (e : Fin 64)
  /-- SLOT_FRAME_RECEIVE (R260): A receiver judges a slot frame and accepts or holds it. -/
  | slotFrameReceive (p : PortId) (e : Fin 64) (first last : DWord) (frame : List Byte)
  /-- SLOT_OCCURRENCE_START (R260): The next occurrence of an entry delivers held frames first. -/
  | slotOccurrenceStart (p : PortId) (e : Fin 64)
  /-- FRAME_RECEIVE (R270): A 144-byte frame is decoded and CRC-checked, and bad frames are discarded. -/
  | frameReceive (p : PortId) (frame : List Byte)
  /-- MARKER_SEND (R271): After 4,096 frame slots a marker slot is sent carrying the lane map. -/
  | markerSend (p : PortId)
  /-- MARKER_RECEIVE (R271): A marker is received, lanes deskewed and an announced map applied. -/
  | markerReceive (p : PortId) (width8 : Bool) (subst : BitVec 4)
  /-- FRAME_SLOT_ARBITRATION (R283): Each frame slot the transmitter sends the first eligible control flit or VC flit. -/
  | frameSlotArbitration (p : PortId)
  /-- RETRY_TIMEOUT (R280): No ACK advance for RTO causes a go-back. -/
  | retryTimeout (p : PortId) (vc : Fin 8)
  /-- LANE_LOSS (R288): A receive lane is declared lost and sparing or narrowing starts. -/
  | laneLoss (p : PortId) (lane : Fin 9)
  /-- TRAINING_ATTEMPT_END (R286): A training attempt completes to UP or fails. -/
  | trainingAttemptEnd (p : PortId) (r : TrainResult)
  /-- TRAINING_RETRY_TIMER (R286): 1 s after a failed attempt training starts again. -/
  | trainingRetryTimer (p : PortId)
  /-- PRESENCE_CHANGE (R295): PRSNT_N holds a new level for 100 ms and the port's presence changes. -/
  | presenceChange (p : PortId) (present : Bool)
  /-- SERVICE_BUTTON_PRESS (R295): A recognised press drains every marked UP port. -/
  | serviceButtonPress
  /-- DRAIN_TIMEOUT (R296): A drain not SAFE within 10 s is abandoned. -/
  | drainTimeout (p : PortId)
  /-- ATTN_TRAINED_EXPIRY (R297): 60 s after reaching UP the Trained attention state ends. -/
  | attnTrainedExpiry (p : PortId)
  /-- SVC_MARK_WRITE (R296): Setting or clearing SVC_MARK marks a port or returns a SAFE port through training. -/
  | svcMarkWrite (o : Origin) (p : PortId) (mark : Bool)
  /-- FI_ARM (R299): Writing FI_CTRL with ARM arms the injector if the debug lock is open. -/
  | fiArm (o : Origin) (p : PortId) (v : Word)
  /-- PACKET_FORWARD (R305): A packet is routed to an output port or discarded for lack of route. -/
  | packetForward (p : PortId)
  /-- PACKET_DELIVER (R312): A packet is delivered in E2E_SEQ order, held in the window or discarded. -/
  | packetDeliver
  /-- E2E_ACK_SEND (R313): After 64 deliveries or ACK_US an E2E_ACK is sent. -/
  | e2eAckSend (k : FlowKey)
  /-- E2E_NAK_SEND (R313): A gap standing for a quarter of TO_US sends E2E_NAK. -/
  | e2eNakSend (k : FlowKey)
  /-- E2E_ACK_RECEIVE (R313): An acknowledgement frees tags and closes fully acknowledged flows. -/
  | e2eAckReceive (body : List Byte)
  /-- E2E_NAK_RECEIVE (R313): The source resends the flow from the named sequence. -/
  | e2eNakReceive (body : List Byte)
  /-- E2E_RESEND_TIMEOUT (R313): No ACK advance for TO_US resends unacknowledged packets. -/
  | e2eResendTimeout (k : FlowKey)
  /-- DEST_UNREACHABLE (R314): After DEAD_MS without progress a destination is unreachable and collectives abort. -/
  | destUnreachable (node : NodeId)
  /-- COLLECTIVE_START (R328): A waiting collective gets a slot and banks and starts. -/
  | collectiveStart
  /-- COLLECTIVE_COMPLETE (R330): A member completes a collective and writes completion records. -/
  | collectiveComplete (cctx : BitVec 10) (seq : Word) (step : DWord)
  /-- COLL_ABORT_RECEIVE (R332): COLL_ABORT ends the collective with TERMINATED and is forwarded. -/
  | collAbortReceive (body : List Byte)
  /-- AGREEMENT_COMPLETE (R326): An agreement sequence's maximum code is known and its slots complete. -/
  | agreementComplete (cctx : BitVec 10) (seq : Word) (step : DWord)
  /-- STREAM_PAGE_SEND (R352): The engine sends a cut page to the buddy on a stream port. -/
  | streamPageSend (k : Slot)
  /-- BUDDY_STREAM_RECEIVE (R353): The buddy writes a stream packet into its slot. -/
  | buddyStreamReceive (src : NodeId) (off : DWord) (data : List Byte) (poison : List Bool) (last : Bool)
  /-- FS_STREAM_CHUNK (R355): A 4 MiB chunk is compressed into a frame in the host ring. -/
  | fsStreamChunk (k : Slot)
  /-- RESTORE_COMPLETE (R357): A restore finishes loading selected sections. -/
  | restoreComplete (k : Slot)
  /-- MOVE_COMPLETE (R394): A core-group move finishes its six phases. -/
  | moveComplete
  /-- SAVED_TASK_RESUME (R397): A core takes a saved task and resumes at the saved bundle. -/
  | savedTaskResume (c : CoreId)
  /-- CONTEXT_IDLE (R398): A context without activity for 10 ms becomes idle. -/
  | contextIdle (k : Slot)
  /-- STOW_COMPLETE (R399): A stow completes and the waiting bind or unstow proceeds. -/
  | stowComplete (k : Slot)
  /-- UNSTOW_COMPLETE (R401): The unstow restores state and re-enters port weights. -/
  | unstowComplete (k : Slot)
  /-- FLR (R408): A Function Level Reset disables rings, empties mailboxes and unbinds the function's contexts. -/
  | flr (f : Fn)
  /-- PCIE_HOT_RESET (R408): A hot reset or link down disables every ring without unbinding. -/
  | pcieHotReset
  /-- MB_IN_WRITE (R410): A write to an inbound mailbox register, refused while FULL. -/
  | mbInWrite (f : Fn) (n : Fin 16) (v : Word)
  /-- MB_GO (R409): Writing MB_CTRL with GO submits the message and sets FULL. -/
  | mbGo (f : Fn) (v : Word)
  /-- MAILBOX_TAKE (R411): Firmware takes an inbound message and raises vector 0. -/
  | mailboxTake (f : Fn)
  /-- MB_OSTAT_ACK (R411): Writing ACK releases the outbound reply. -/
  | mbOstatAck (f : Fn) (v : Word)
  /-- RING_SQ_DOORBELL (R413): Software writes the submission tail. -/
  | ringSqDoorbell (f : Fn) (r : Fin 4) (v : Word)
  /-- RING_CQ_DOORBELL (R413): Software returns completion entries by writing the head. -/
  | ringCqDoorbell (f : Fn) (r : Fin 4) (v : Word)
  /-- RING_ENABLE (R415): Setting or clearing RING_CFG.EN enables or stops a ring pair. -/
  | ringEnable (f : Fn) (r : Fin 4) (v : Word)
  /-- COMMAND_TAKE (R425): Poesh takes the next command in its service order. -/
  | commandTake
  /-- COMMAND_COMPLETE (R419): A long command completes and writes its final reply. -/
  | commandComplete (src : CmdSrc) (tag : Imm16)
  /-- NOP (R421): Does nothing and replies OK. -/
  | nopCmd (src : CmdSrc) (pk : Packet)
  /-- GET_INFO (R421): Returns identity, units, node ID and management status. -/
  | getInfo (src : CmdSrc) (pk : Packet)
  /-- READ_EVENTS (R421): Copies event records to host memory or MCTP. -/
  | readEvents (src : CmdSrc) (pk : Packet)
  /-- READ_LOG (R421): Copies inventory log mirror entries to host memory. -/
  | readLog (src : CmdSrc) (pk : Packet)
  /-- REG_ACCESS (R421): Reads or writes a BAR0 register on behalf of F0 or MCTP. -/
  | regAccess (src : CmdSrc) (pk : Packet)
  /-- TELEMETRY (R421): Returns die temperatures and package power. -/
  | telemetry (src : CmdSrc) (pk : Packet)
  /-- FN_QUOTA (R421): Sets a virtual function's resource quota. -/
  | fnQuota (src : CmdSrc) (pk : Packet)
  /-- BIND (R422): Binds a tenant context to a slot with its resources and mode. -/
  | bind (src : CmdSrc) (pk : Packet)
  /-- UNBIND (R422): Halts a context, releases its resources and zero-fills its granules. -/
  | unbind (src : CmdSrc) (pk : Packet)
  /-- MOVE_GROUP (R394): Moves a core group to another context or none. -/
  | moveGroup (src : CmdSrc) (pk : Packet)
  /-- HALT (R180): Halts the named context. -/
  | halt (src : CmdSrc) (pk : Packet)
  /-- HOLD_REGISTER (R345): Registers the context's hold list for the next step. -/
  | holdRegister (src : CmdSrc) (pk : Packet)
  /-- MEM_MAP (R185): Defines, undefines, grants or revokes a granule map entry. -/
  | memMap (src : CmdSrc) (pk : Packet)
  /-- MEM_READ (R422): Copies device memory to the host, replying POISONED for poisoned lines. -/
  | memRead (src : CmdSrc) (pk : Packet)
  /-- MEM_WRITE (R422): Copies host memory to the device. -/
  | memWrite (src : CmdSrc) (pk : Packet)
  /-- LOAD_IMAGE (R176): Checks a load image and binds the core count and constants. -/
  | loadImage (src : CmdSrc) (pk : Packet)
  /-- POST_STEP (R422): Posts a step's task list and cursor on a launch ring. -/
  | postStep (src : CmdSrc) (pk : Packet)
  /-- REPLAY (R422): Sets tally level and stop tag for the next execution of a step. -/
  | replay (src : CmdSrc) (pk : Packet)
  /-- RESUME (R422): Continues a context halted by a stop tag. -/
  | resume (src : CmdSrc) (pk : Packet)
  /-- REALIGN (R458): Repeats the crossing-alignment reset when every die is Idle. -/
  | realign (src : CmdSrc) (pk : Packet)
  /-- UCODE_LOAD (R200): Loads a microprogram slot in all stacks. -/
  | ucodeLoad (src : CmdSrc) (pk : Packet)
  /-- UPD_REGISTER (R204): Registers an update descriptor in its stack. -/
  | updRegister (src : CmdSrc) (pk : Packet)
  /-- UPD_DEREGISTER (R205): Deregisters an update descriptor. -/
  | updDeregister (src : CmdSrc) (pk : Packet)
  /-- UPD_FIRE (R422): Fires a TRIG_KIND 2 descriptor for a step. -/
  | updFire (src : CmdSrc) (pk : Packet)
  /-- SOLV_REGISTER (R235): Registers a solver descriptor on a die. -/
  | solvRegister (src : CmdSrc) (pk : Packet)
  /-- SOLV_DEREGISTER (R246): Deregisters a solver descriptor. -/
  | solvDeregister (src : CmdSrc) (pk : Packet)
  /-- CCTX_CREATE (R315): Creates a collective context or step context. -/
  | cctxCreate (src : CmdSrc) (pk : Packet)
  /-- CCTX_DESTROY (R422): Destroys a collective context. -/
  | cctxDestroy (src : CmdSrc) (pk : Packet)
  /-- TIME_SET (R256): Sets the whole-second count before the first lock. -/
  | timeSet (src : CmdSrc) (pk : Packet)
  /-- PORT_RETRAIN (R285): Starts training of a port. -/
  | portRetrain (src : CmdSrc) (pk : Packet)
  /-- PORT_UNLOCK (R428): Unlocks a port's lock class. -/
  | portUnlock (src : CmdSrc) (pk : Packet)
  /-- FS_RING (R355): Names the host ring for file-store streams. -/
  | fsRing (src : CmdSrc) (pk : Packet)
  /-- CHECKPOINT (R421): Takes a checkpoint to the buddy or file store. -/
  | checkpoint (src : CmdSrc) (pk : Packet)
  /-- RESTORE (R357): Restores a context from a buddy slot or host ring. -/
  | restore (src : CmdSrc) (pk : Packet)
  /-- LOCK_SET (R428): Sets the platform lock and port locks. -/
  | lockSet (src : CmdSrc) (pk : Packet)
  /-- DEBUG_CHALLENGE (R421): Returns a nonce for debug unlock. -/
  | debugChallenge (src : CmdSrc) (pk : Packet)
  /-- DEBUG_UNLOCK (R422): Opens the debug lock on a valid signature. -/
  | debugUnlock (src : CmdSrc) (pk : Packet)
  /-- DEBUG_LOCK (R428): Closes the debug lock and disarms injectors. -/
  | debugLock (src : CmdSrc) (pk : Packet)
  /-- RETIRE_UNIT (R388): Retires a unit by firmware command. -/
  | retireUnit (src : CmdSrc) (pk : Packet)
  /-- SET_POWER (R455): Enters Active, Parked or Attic-only. -/
  | setPower (src : CmdSrc) (pk : Packet)
  /-- FAILOVER (R427): Forces failover to the standby management set with the debug lock open. -/
  | failover (src : CmdSrc) (pk : Packet)
  /-- HEARTBEAT_TICK (R427): Poesh increments MGMT_HB every 10 ms. -/
  | heartbeatTick
  /-- MGMT_WATCHDOG_FAILOVER (R427): A heartbeat unchanged for 100 ms starts the standby set. -/
  | mgmtWatchdogFailover
  /-- STANDBY_DEAD (R427): The standby heartbeat stops for 100 ms; DEAD and ALERT_N are set. -/
  | standbyDead
  /-- SHED_LEVEL_EVAL (R426): Every 10 ms the busy share is measured and the shed level changed. -/
  | shedLevelEval (busy : BitVec 7)
  /-- LOG_MIRROR_COPY (R432): Buffered log entries are copied to the mirror in sequence order. -/
  | logMirrorCopy
  /-- MCTP_REQUEST (R434): An MCTP vendor-defined request carries one command packet. -/
  | mctpRequest (eid : Byte) (pk : Packet)
  /-- MCTP_CONTROL_MESSAGE (R434): An MCTP control message is answered. -/
  | mctpControlMessage (eid cmd : Byte) (data : List Byte)
  /-- JTAG_IDCODE (R435): Selects the IDCODE register. -/
  | jtagIdcode
  /-- JTAG_SAMPLE_PRELOAD (R435): Selects boundary scan for sample and preload. -/
  | jtagSamplePreload (scan : List Bool)
  /-- JTAG_EXTEST (R435): Drives pins from boundary scan. -/
  | jtagExtest (scan : List Bool)
  /-- JTAG_CLAMP (R435): Clamps outputs with bypass selected. -/
  | jtagClamp
  /-- JTAG_HIGHZ (R435): Floats outputs with bypass selected. -/
  | jtagHighz
  /-- JTAG_REGACC (R435): Performs a register access at Update-DR. -/
  | jtagRegacc (dr : BitVec 66)
  /-- JTAG_BYPASS (R435): Selects the bypass register. -/
  | jtagBypass
  /-- MONITOR_WINDOW (R439): A 10 us judging window of a clock source ends and is judged. -/
  | monitorWindow (src : ClkSrc) (count : Nat)
  /-- HOLDOVER_TIMEOUT (R448): A domain held for 5 ms resets its die and asserts ALERT_N. -/
  | holdoverTimeout (n : Fin 79)
  /-- PLL_RELOCK (R447): A PLL relocks to its new reference. -/
  | pllRelock (n : Fin 79)
  /-- SOSC_TRIM (R442): The attic trims SOSC against a READY REFCLK. -/
  | soscTrim (ppm : Imm16)
  /-- CLK_DOM_WRITE (R445): A write to CLK_DOM is judged and switches or slews the domain. -/
  | clkDomWrite (o : Origin) (n : Fin 79) (v : Word)
  /-- ATTIC_MISCOMPARE (R449): The lockstep attic copies disagree and self-check. -/
  | atticMiscompare
  /-- ATTIC_SELF_CHECK_DONE (R449): The failing attic copy is retired and the survivor serves alone. -/
  | atticSelfCheckDone (failed : Bool)
  /-- THROTTLE_TICK (R453): Every 1 ms die agents lower or raise RATIO_CAP by the limits. -/
  | throttleTick (tj vcore : List Nat) (watts : Nat)
  /-- DIE_OVERTEMP (R453): A die at 115 C is held in reset. -/
  | dieOvertemp (d : Die) (tj : BitVec 12)
  /-- DIE_RESET_RELEASE (R448): A die leaves reset, re-acquires time and clears its shelves. -/
  | dieResetRelease (d : Die)
  /-- SUPPLY_LOST (R463): A rail below 85 % for 1 us holds its die in reset. -/
  | supplyLost (r : Rail)
  /-- RAIL_PRESENT (R463): A rail reaches 90 % of nominal. -/
  | railPresent (r : Rail)
  /-- DIE_IDLE_ENTRY (R454): A die with no task or mover for 10 us becomes Idle. -/
  | dieIdleEntry (d : Die)
  /-- COLD_START (R456): VDD_ATTIC power-up starts the start-up sequence. -/
  | coldStart (straps : BitVec 2)
  /-- STARTUP_PHASE_COMPLETE (R456): A start-up phase's condition is met and the next phase begins. -/
  | startupPhaseComplete (b : BootInfo)
  /-- PERST_RELEASE (R456): PERST# release starts reset release. -/
  | perstRelease
  /-- PERST_ASSERT (R459): PERST# asserted while Active causes a cold start from phase 4. -/
  | perstAssert
  /-- FIRMWARE_AUTH_DONE (R457): Firmware authentication completes or both images fail. -/
  | firmwareAuthDone (a : AuthResult)
  /-- ALERT_STUCK_DETECT (R466): ALERT_N low over 1 s with the driver off is stuck. -/
  | alertStuckDetect
  /-- ALERT_RELEASE_HIGH (R466): ALERT_N high for 10 ms clears ALERT_IGNORED. -/
  | alertReleaseHigh
  /-- TRAY_ALERT (R467): A foreign low of 1 ms to 1 s is counted as a tray alert. -/
  | trayAlert
  /-- SMB_BUS_CLEAR (R466): A bus held low for 35 ms is cleared or the port disabled after three attempts. -/
  | smbBusClear (freed : Bool)
  /-- SMB_RETRY (R470): Writing SMB_RETRY re-enables the SMBus port. -/
  | smbRetry (o : Origin)
  /-- ALERT_MCTP (R470): Setting ALERT_MCTP sends every alert by MCTP as well. -/
  | alertMctp (o : Origin) (on : Bool)
  /-- SVC_BUTTON_STUCK (R466): SVC_BTN_N low over 10 s sets SVC_STUCK. -/
  | svcButtonStuck
  /-- PRESENCE_FLAP (R466): A presence input flapping for 10 s sets PRSNT_FLAP. -/
  | presenceFlap (p : PortId)
  /-- FLOW_ENTRY_RECLAIM (R311): A flow-table entry that has stayed closed for 1 ms becomes reclaimable, and a packet of a
  new flow waiting on a full table proceeds. -/
  | flowEntryReclaim (k : FlowKey)
  /-- HOLDOVER_ERROR_CROSSES_FOUR_GUARDS (R263): In holdover, MT_ERR grows past four times the smallest guard, and the
  device leaves the slot schedule under R261 at that moment. -/
  | holdoverErrorCrossesFourGuards
  /-- FLOW_HELD_OVER_1_MS (R403): A flow held by a path change or end-to-end resend reaches 1 ms, and the P4 breach record
  of cause 0x05 begins. -/
  | flowHeldOver1Ms (k : FlowKey)
  /-- MOVE_BEYOND_3_MS (R394): A core-group move passes 3 ms without completing; it counts in TEN_MOVE_LATE and the cause
  0x07 breach begins. -/
  | moveBeyond3Ms
  /-- FRAME_SLOT_SHARE_WINDOW_END (R403): A 1 ms window of a port ends, and the share of frame slots that VC0-VC2 took is
  judged for the cause 0x08 breach. -/
  | frameSlotShareWindowEnd (p : PortId)
  /-- SOSC_READY_TIMEOUT (R456): Phase 1 of start-up has not reached READY_S within 5 ms, so ALERT_N is asserted with CAUSE
  1 and the phase holds. -/
  | soscReadyTimeout
  /-- TIME_10M_LOST (R466): TIME_10M stops giving edges, and MT_ERR widens as in holdover. -/
  | time10mLost
  /-- TIME_10M_RETURN (R466): TIME_10M edges resume and steer the frequency again. -/
  | time10mReturn
  /-- PRESENCE_FLAP_END (R466): A flapping PRSNT_N input shows no change for 10 s, and presence tracking of that port resumes. -/
  | presenceFlapEnd (p : PortId)
  /-- JTAG_TEST_LOGIC_RESET (R435): The test port enters test-logic reset through TRST_N or TMS, and IDCODE is selected. -/
  | jtagTestLogicReset
  /-- COMMAND_QUEUED_REPLY (R419): A command still running after 1 ms writes its QUEUED reply. -/
  | commandQueuedReply (src : CmdSrc) (tag : Imm16)
  /-- PARKED_EXIT_COMPLETE (R454): A device leaving Parked reaches Active within 20 ms, its shelves are cleared and the
  context constants are placed. -/
  | parkedExitComplete
  deriving DecidableEq, Repr

end Sys2Proof
end

