-- ==== Sys2Proof/Machine/Bits.lean ====
section
/-! DEFINITION. Bit fields, little-endian byte lists, two's complement and saturation (spec/00_scope.md, Notation), and
the mixing function mix64 (R120). -/

namespace Sys2Proof.Machine

/-- Bits `hi` down to `lo` of `v`. -/
def bitsOf (v hi lo : Nat) : Nat := v / 2 ^ lo % 2 ^ (hi + 1 - lo)

/-- `v` with bits `hi` down to `lo` replaced by the low bits of `x`. -/
def setBits (v hi lo x : Nat) : Nat :=
  v - bitsOf v hi lo * 2 ^ lo + x % 2 ^ (hi + 1 - lo) * 2 ^ lo

/-- Bit `i` of `v`. -/
def bitAt (v i : Nat) : Bool := v / 2 ^ i % 2 == 1

/-- 1 for true, 0 for false. -/
def b2n (b : Bool) : Nat := if b then 1 else 0

/-- The `n` low bytes of `v`, least significant first. -/
def leBytes : Nat → Nat → List Byte
  | 0, _ => []
  | n + 1, v => BitVec.ofNat 8 v :: leBytes n (v / 256)

/-- The number that bytes spell, least significant first. -/
def ofLE : List Byte → Nat
  | [] => 0
  | b :: t => b.toNat + 256 * ofLE t

/-- The `n`-byte little-endian number at byte `off`. -/
def getLE (bs : List Byte) (off n : Nat) : Nat := ofLE ((bs.drop off).take n)

/-- Byte `i`, 0 beyond the end. -/
def byteAt (bs : List Byte) (i : Nat) : Nat := (bs.getD i 0).toNat

/-- Exactly `n` bytes: cut, or padded with zeros. -/
def padTo (n : Nat) (bs : List Byte) : List Byte := (bs.take n) ++ List.replicate (n - bs.length) 0

/-- `bs` with `src` written over it from byte `off`. -/
def putBytes (bs : List Byte) (off : Nat) (src : List Byte) : List Byte :=
  bs.take off ++ src.take (bs.length - off) ++ bs.drop (off + src.length)

/-- Consecutive pieces of `n` items. `fuel` bounds the number of pieces. -/
def chunksOf {α : Type} (n : Nat) : Nat → List α → List (List α)
  | 0, _ => []
  | fuel + 1, l => match l with
    | [] => []
    | x :: t => ((x :: t).take n) :: chunksOf n fuel ((x :: t).drop n)

/-- The value of the `w`-bit pattern `v` in two's complement. -/
def sInt (w v : Nat) : Int := if v % 2 ^ w < 2 ^ (w - 1) then (v % 2 ^ w : Nat) else (v % 2 ^ w : Nat) - (2 ^ w : Nat)

/-- The `w`-bit two's complement pattern of `i`. -/
def uInt (w : Nat) (i : Int) : Nat := (i % (2 ^ w : Nat)).toNat

/-- A count kept at most `m`. -/
def satTo (m v : Nat) : Nat := if m < v then m else v

/-- Number of bits of `v` (0 for 0). -/
def bitLen (v : Nat) : Nat := if v = 0 then 0 else Nat.log2 v + 1

/-- The set bits among the low `n` bits. -/
def popCount : Nat → Nat → Nat
  | 0, _ => 0
  | n + 1, v => v % 2 + popCount n (v / 2)

/-- The indices below `n` at which `p` holds, ascending. -/
def idxWhere (n : Nat) (p : Nat → Bool) : List Nat := (List.range n).filter p

/-- The least of a list by a key, the first one on a tie. -/
def minBy? {α : Type} (f : α → Nat) : List α → Option α
  | [] => none
  | x :: t => match minBy? f t with
    | none => some x
    | some y => if f y < f x then some y else some x

/-- The list with its last element taken off, and that element. -/
def unsnoc? {α : Type} : List α → Option (List α × α)
  | [] => none
  | [x] => some ([], x)
  | x :: t => match unsnoc? t with
    | none => none
    | some (l, y) => some (x :: l, y)

/-- The first element that satisfies `p`, and the list without it. -/
def takeFirst? {α : Type} (p : α → Bool) : List α → Option (α × List α)
  | [] => none
  | x :: t => if p x then some (x, t) else match takeFirst? p t with
    | none => none
    | some (y, l) => some (y, x :: l)

/-- `x` put into a list that rises by a key, behind entries with the same key. -/
def insertKey {α : Type} (key : α → Nat) (x : α) : List α → List α
  | [] => [x]
  | y :: t => if key x < key y then x :: y :: t else y :: insertKey key x t

/-- A list in ascending order of a key, entries with the same key in their order. -/
def sortKey {α : Type} (key : α → Nat) (l : List α) : List α := l.foldl (fun a x => insertKey key x a) []

/-- The bijection mix64 (R120). -/
def mix64 (x0 : DWord) : DWord :=
  let x1 := x0 ^^^ (x0 >>> 32)
  let x2 := x1 * 0xC3A59D1B7E462F8D#64
  let x3 := x2 ^^^ (x2 >>> 29)
  let x4 := x3 * 0x8B71E6C25D09A4F3#64
  x4 ^^^ (x4 >>> 32)

/-- A 64-bit word from a number. -/
abbrev dw (n : Nat) : DWord := BitVec.ofNat 64 n
/-- A 32-bit word from a number. -/
abbrev wd (n : Nat) : Word := BitVec.ofNat 32 n
/-- A byte from a number. -/
abbrev by8 (n : Nat) : Byte := BitVec.ofNat 8 n

/-- The digest that folds u64 words (R431). -/
def digest (bs : List Byte) : DWord :=
  (chunksOf 8 (bs.length + 1) bs).foldl (fun d c => mix64 (d ^^^ dw (ofLE c))) 0

end Sys2Proof.Machine
end

