-- ==== Sys2Proof/Machine/Fp.lean ====
section
/-! DEFINITION. Numbers and formats: exact values, FP32 arithmetic rounded once (R122 to R125), decoding and encoding of
every storage format (R47 to R60). -/

namespace Sys2Proof.Machine

/-- An exact value: NaN, an infinity, a zero with its sign, or ± `m` × 2^`e` with `m` not 0. -/
inductive Num where
  | nan
  | inf (neg : Bool)
  | zero (neg : Bool)
  | fin (neg : Bool) (m : Nat) (e : Int)
  deriving DecidableEq, Repr

/-- `m` × 2^`e` as a number in units of 2^`g`, for `g` at most `e`. -/
def alignTo (m : Nat) (e g : Int) : Nat := m <<< (e - g).toNat

/-- The signed integer of a sign and a magnitude. -/
def signed (neg : Bool) (m : Nat) : Int := if neg then -(m : Int) else (m : Int)

/-- A dyadic value from a signed integer; an exact zero is +0. -/
def ofSigned (z e : Int) : Num := if z = 0 then .zero false else .fin (decide (z < 0)) z.natAbs e

/-- `⌊log2⌋` of `m` × 2^`e`. -/
def expOf (m : Nat) (e : Int) : Int := (bitLen m : Int) - 1 + e

/-- Whether `m` × 2^`e` is below `n` × 2^`f`. -/
def ltDy (m : Nat) (e : Int) (n : Nat) (f : Int) : Bool :=
  let g := min e f
  decide (alignTo m e g < alignTo n f g)

/-- The value negated. -/
def Num.neg : Num → Num
  | .nan => .nan
  | .inf a => .inf (!a)
  | .zero a => .zero (!a)
  | .fin a m e => .fin (!a) m e

/-- The value times 2^`k`. -/
def Num.scale (k : Int) : Num → Num
  | .fin a m e => .fin a m (e + k)
  | v => v

/-- Whether a value is NaN or an infinity. -/
def Num.special : Num → Bool
  | .nan => true
  | .inf _ => true
  | _ => false

/-- The exact sum with the zero signs of R123 and the specials of R124. -/
def numAdd (a b : Num) : Num :=
  match a, b with
  | .nan, _ => .nan
  | _, .nan => .nan
  | .inf x, .inf y => if x == y then .inf x else .nan
  | .inf x, _ => .inf x
  | _, .inf y => .inf y
  | .zero x, .zero y => .zero (x && y)
  | .zero _, y => y
  | x, .zero _ => x
  | .fin x m e, .fin y n f =>
    let g := min e f
    ofSigned (signed x (alignTo m e g) + signed y (alignTo n f g)) g

/-- The exact product (R123, R124). -/
def numMul (a b : Num) : Num :=
  match a, b with
  | .nan, _ => .nan
  | _, .nan => .nan
  | .inf x, .inf y => .inf (x != y)
  | .inf _, .zero _ => .nan
  | .zero _, .inf _ => .nan
  | .inf x, .fin y _ _ => .inf (x != y)
  | .fin x _ _, .inf y => .inf (x != y)
  | .zero x, .zero y => .zero (x != y)
  | .zero x, .fin y _ _ => .zero (x != y)
  | .fin x _ _, .zero y => .zero (x != y)
  | .fin x m e, .fin y n f => .fin (x != y) (m * n) (e + f)

/-- A quotient carried to 64 bits with every lower bit of the exact quotient folded into the last one, which rounds as the
exact quotient does (R124). -/
def numDiv (a b : Num) : Num :=
  match a, b with
  | .nan, _ => .nan
  | _, .nan => .nan
  | .inf _, .inf _ => .nan
  | .inf x, .zero y => .inf (x != y)
  | .inf x, .fin y _ _ => .inf (x != y)
  | .zero x, .inf y => .zero (x != y)
  | .fin x _ _, .inf y => .zero (x != y)
  | .zero _, .zero _ => .nan
  | .zero x, .fin y _ _ => .zero (x != y)
  | .fin x _ _, .zero y => .inf (x != y)
  | .fin x m e, .fin y n f =>
    let k := 64 + bitLen n
    let q := (m <<< k) / n
    let r := (m <<< k) % n
    .fin (x != y) (2 * q + b2n (r != 0)) (e - f - (k : Int) - 1)

/-- Steps of an integer square root from above. -/
def isqrtGo : Nat → Nat → Nat → Nat
  | 0, _, x => x
  | fuel + 1, n, x =>
    let y := (x + n / x) / 2
    if y < x then isqrtGo fuel n y else x

/-- `⌊√n⌋`. -/
def isqrt (n : Nat) : Nat := if n = 0 then 0 else isqrtGo (bitLen n + 8) n (2 ^ ((bitLen n + 1) / 2))

/-- A square root carried to 64 bits with a sticky last bit (R123, R127). -/
def numSqrt (a : Num) : Num :=
  match a with
  | .nan => .nan
  | .inf x => if x then .nan else .inf false
  | .zero x => .zero x
  | .fin x m e =>
    if x then .nan else
    let m1 := if e % 2 = 0 then m else 2 * m
    let e1 := if e % 2 = 0 then e else e - 1
    let n := m1 <<< 130
    let r := isqrt n
    .fin false (2 * r + b2n (r * r != n)) (e1 / 2 - 65 - 1)

/-- `m` divided by 2^`d`, rounded to nearest, ties to even. -/
def rneShift (m d : Nat) : Nat :=
  let n := m >>> d
  let r := m % 2 ^ d
  if 2 ^ d < 2 * r || (2 * r == 2 ^ d && n % 2 == 1) then n + 1 else n

/-- fp32_round (R122), with the canonical NaN of R49. -/
def round32 : Num → Word
  | .nan => 0x7FC00000
  | .inf a => if a then 0xFF800000 else 0x7F800000
  | .zero a => if a then 0x80000000 else 0
  | .fin a m e =>
    let q := expOf m e - 23
    let n := if q ≤ e then m <<< (e - q).toNat else rneShift m (q - e).toNat
    let s := if a then 2 ^ 31 else 0
    let x := if n = 2 ^ 24 then q + 24 else q + 23
    let f := if n = 2 ^ 24 then 0 else n - 2 ^ 23
    if 127 < x then wd (s + 0x7F800000)
    else if x < -126 then wd s
    else wd (s + (x + 127).toNat * 2 ^ 23 + f)

/-- An FP32 code as read by arithmetic (R47, R48). -/
def decode32 (w : Word) : Num :=
  let v := w.toNat
  let s := bitAt v 31
  let e := bitsOf v 30 23
  let f := bitsOf v 22 0
  if e = 255 then (if f = 0 then .inf s else .nan)
  else if e = 0 then .zero s
  else .fin s (2 ^ 23 + f) ((e : Int) - 150)

/-- FADD (R122). -/
def fAdd (a b : Word) : Word := round32 (numAdd (decode32 a) (decode32 b))
/-- FSUB: the sum with the second operand negated. -/
def fSub (a b : Word) : Word := round32 (numAdd (decode32 a) (decode32 b).neg)
/-- FMUL. -/
def fMul (a b : Word) : Word := round32 (numMul (decode32 a) (decode32 b))
/-- FFMA: one rounding of the exact product plus the addend (R124). -/
def fFma (a b c : Word) : Word := round32 (numAdd (numMul (decode32 a) (decode32 b)) (decode32 c))
/-- FDIV. -/
def fDiv (a b : Word) : Word := round32 (numDiv (decode32 a) (decode32 b))
/-- FSQRT. -/
def fSqrt (a : Word) : Word := round32 (numSqrt (decode32 a))

/-- Whether `a` is below `b`, neither being NaN; `zeros` says whether −0 is below +0 (R118, R124, R125). -/
def numLt (zeros : Bool) (a b : Num) : Bool :=
  match a, b with
  | .nan, _ => false
  | _, .nan => false
  | .inf x, .inf y => x && !y
  | .inf x, _ => x
  | _, .inf y => !y
  | .zero x, .zero y => zeros && x && !y
  | .zero _, .fin y _ _ => !y
  | .fin x _ _, .zero _ => x
  | .fin x m e, .fin y n f =>
    let g := min e f
    decide (signed x (alignTo m e g) < signed y (alignTo n f g))

/-- FMIN (R124). -/
def fMin (a b : Word) : Word :=
  let x := decode32 a
  let y := decode32 b
  if x = .nan || y = .nan then round32 .nan else if numLt true y x then round32 y else round32 x

/-- FMAX (R124). -/
def fMax (a b : Word) : Word :=
  let x := decode32 a
  let y := decode32 b
  if x = .nan || y = .nan then round32 .nan else if numLt true x y then round32 y else round32 x

/-- FCMP conditions 0 EQ, 1 NE, 2 LT, 3 LE, 4 GT, 5 GE, 6 unordered (R73, R125). -/
def fCmp (cond : Nat) (a b : Word) : Bool :=
  let x := decode32 a
  let y := decode32 b
  let u := x = .nan || y = .nan
  let lt := numLt false x y
  let gt := numLt false y x
  match cond with
  | 0 => !u && !lt && !gt
  | 1 => u || lt || gt
  | 2 => lt
  | 3 => !u && !gt
  | 4 => gt
  | 5 => !u && !lt
  | 6 => u
  | _ => false

/-! ## Element formats (R47) -/

/-- The element formats; INT8 plain and the block-scaled integers differ in their unit (R51). -/
inductive Elem where
  | fp32 | s16 | h16 | u16 | e4m3 | e5m2 | e3m2 | e2m3 | e2m1 | int8 | bint8 | bint4
  deriving DecidableEq, Repr

/-- Stored bits of an element. -/
def Elem.bits : Elem → Nat
  | .fp32 => 32
  | .s16 => 16
  | .h16 => 16
  | .u16 => 16
  | .e4m3 => 8
  | .e5m2 => 8
  | .e3m2 => 6
  | .e2m3 => 6
  | .e2m1 => 4
  | .int8 => 8
  | .bint8 => 8
  | .bint4 => 4

/-- Mantissa bits. -/
def Elem.mbits : Elem → Nat
  | .fp32 => 23
  | .s16 => 7
  | .h16 => 10
  | .u16 => 8
  | .e4m3 => 3
  | .e5m2 => 2
  | .e3m2 => 2
  | .e2m3 => 3
  | .e2m1 => 1
  | _ => 0

/-- Exponent bits. -/
def Elem.ebits : Elem → Nat
  | .fp32 => 8
  | .s16 => 8
  | .h16 => 5
  | .u16 => 8
  | .e4m3 => 4
  | .e5m2 => 5
  | .e3m2 => 3
  | .e2m3 => 2
  | .e2m1 => 2
  | _ => 0

/-- Exponent bias. -/
def Elem.bias : Elem → Int
  | .fp32 => 127
  | .s16 => 127
  | .h16 => 15
  | .u16 => 127
  | .e4m3 => 7
  | .e5m2 => 15
  | .e3m2 => 3
  | .e2m3 => 1
  | .e2m1 => 1
  | _ => 0

/-- Whether subnormals are values (the short float formats). -/
def Elem.sub : Elem → Bool
  | .e4m3 => true
  | .e5m2 => true
  | .e3m2 => true
  | .e2m3 => true
  | .e2m1 => true
  | _ => false

/-- Whether the format is an integer. -/
def Elem.isInt : Elem → Bool
  | .int8 => true
  | .bint8 => true
  | .bint4 => true
  | _ => false

/-- Exponent of an integer code's unit (R51). -/
def Elem.qfix : Elem → Int
  | .bint8 => -6
  | .bint4 => -2
  | _ => 0

/-- Exponent of the smallest normal. -/
def Elem.emin (t : Elem) : Int := 1 - t.bias

/-- The largest finite code for positive (`false`) and negative results (R47). -/
def Elem.maxCode (t : Elem) (neg : Bool) : Nat :=
  match t with
  | .fp32 => if neg then 0xFF7FFFFF else 0x7F7FFFFF
  | .s16 => if neg then 0xFF7F else 0x7F7F
  | .h16 => if neg then 0xFBFF else 0x7BFF
  | .u16 => 0xFEFF
  | .e4m3 => if neg then 0xFE else 0x7E
  | .e5m2 => if neg then 0xFB else 0x7B
  | .e3m2 => if neg then 0x3F else 0x1F
  | .e2m3 => if neg then 0x3F else 0x1F
  | .e2m1 => if neg then 0xF else 0x7
  | .int8 => if neg then 0x80 else 0x7F
  | .bint8 => if neg then 0x80 else 0x7F
  | .bint4 => if neg then 0x8 else 0x7

/-- Whether the format has NaN codes. -/
def Elem.hasNan : Elem → Bool
  | .fp32 => true
  | .s16 => true
  | .h16 => true
  | .u16 => true
  | .e4m3 => true
  | .e5m2 => true
  | _ => false

/-- Exponent of the element format's largest normal, for scale selection (R59). -/
def Elem.emax : Elem → Int
  | .e4m3 => 8
  | .e5m2 => 15
  | .e3m2 => 4
  | .e2m3 => 2
  | .e2m1 => 2
  | _ => 0

/-- The value of an element code (R47, R48), before any block scale. -/
def decodeElem (t : Elem) (c : Nat) : Num :=
  if t.isInt then
    let z := sInt t.bits c
    if z = 0 then .zero false else .fin (decide (z < 0)) z.natAbs t.qfix
  else
    let sg := t != .u16 && bitAt c (t.bits - 1)
    let e := bitsOf c (t.mbits + t.ebits - 1) t.mbits
    let f := bitsOf c (t.mbits - 1) 0
    let top := 2 ^ t.ebits - 1
    let special := match t with
      | .e4m3 => e == top && f == 7
      | .e3m2 => false
      | .e2m3 => false
      | .e2m1 => false
      | _ => e == top
    if special then (if t != .e4m3 && f == 0 then .inf sg else .nan)
    else if e = 0 then
      (if f = 0 || !t.sub then .zero sg else .fin sg f (t.emin - (t.mbits : Int)))
    else .fin sg (2 ^ t.mbits + f) ((e : Int) - t.bias - (t.mbits : Int))

/-- The rounding modes (R54); stochastic rounding carries its draw (R229). -/
inductive Rnd where
  | rne
  | rtz
  | sr (o : DWord)
  deriving DecidableEq, Repr

/-- sr_carry (R230). -/
def srCarry (o : DWord) (r d : Nat) : Nat :=
  let r24 := if 24 ≤ d then r / 2 ^ (d - 24) else r * 2 ^ (24 - d)
  b2n (decide (o.toNat / 2 ^ 40 < r24))

/-- The rounding of `m` × 2^`e` to a multiple of 2^`q` under a mode (R53). -/
def roundAt (rm : Rnd) (m : Nat) (e q : Int) : Nat :=
  if q ≤ e then m <<< (e - q).toNat
  else
    let d := (q - e).toNat
    match rm with
    | .rne => rneShift m d
    | .rtz => m >>> d
    | .sr o => (m >>> d) + srCarry o (m % 2 ^ d) d

/-- encode (R53) of a finite nonzero value. -/
def encodeFin (t : Elem) (rm : Rnd) (neg : Bool) (m : Nat) (e : Int) : Nat :=
  let x := expOf m e
  let q := if t.isInt then t.qfix else (if t.sub then max x t.emin else x) - (t.mbits : Int)
  let n := roundAt rm m e q
  let sbit := if neg && t != .u16 && !t.isInt then 2 ^ (t.bits - 1) else 0
  if n = 0 then sbit
  else if !t.sub && !t.isInt && ltDy n q 1 t.emin then sbit
  else if t.isInt then
    let lim := 2 ^ (t.bits - 1)
    if !neg && lim - 1 < n then t.maxCode false
    else if neg && lim < n then t.maxCode true
    else uInt t.bits (signed neg n)
  else
    match decodeElem t (t.maxCode false) with
    | .fin _ mm me =>
      if ltDy mm me n q then t.maxCode neg
      else
        let y := expOf n q
        if y < t.emin then sbit + n
        else
          let k := bitLen n - 1
          let f := if t.mbits ≤ k then (n - 2 ^ k) >>> (k - t.mbits) else (n - 2 ^ k) <<< (t.mbits - k)
          sbit + (y + t.bias).toNat * 2 ^ t.mbits + f
    | _ => 0

/-- The code a value has in a format (R53, R55). Where the format answers with a block scale NaN, the code is 0. -/
def encodeElem (t : Elem) (rm : Rnd) (v : Num) : Nat :=
  match v with
  | .nan =>
    match t with
    | .fp32 => 0x7FC00000
    | .s16 => 0x7FC0
    | .h16 => 0x7E00
    | .u16 => 0xFF80
    | .e4m3 => 0x7F
    | .e5m2 => 0x7E
    | _ => 0
  | .inf s =>
    match t with
    | .fp32 => if s then 0xFF800000 else 0x7F800000
    | .s16 => if s then 0xFF80 else 0x7F80
    | .h16 => if s then 0xFC00 else 0x7C00
    | .u16 => if s then 0xFF80 else 0xFF00
    | .e4m3 => 0x7F
    | .e5m2 => if s then 0xFC else 0x7C
    | .int8 => if s then 0x80 else 0x7F
    | _ => 0
  | .zero s => if s && t != .u16 && !t.isInt then 2 ^ (t.bits - 1) else 0
  | .fin s m e => if s && t == .u16 then 0xFF80 else encodeFin t rm s m e

/-- Whether an output counts as non-finite at its position (R55, R116). -/
def encodeNonfinite (t : Elem) (v : Num) : Bool :=
  match v with
  | .fin s _ _ => s && t == .u16
  | .zero _ => false
  | _ => true

/-! ## Storage formats (R51, R56 to R60) -/

/-- A storage format: element format, block size (0: not block-scaled), split master weight. -/
structure Fmt where
  elem : Elem
  block : Nat
  split : Bool
  deriving DecidableEq, Repr

/-- The format of a code (R51). -/
def fmtOf (code : Nat) : Option Fmt :=
  match code with
  | 0x00 => some ⟨.fp32, 0, false⟩
  | 0x01 => some ⟨.s16, 0, false⟩
  | 0x02 => some ⟨.h16, 0, false⟩
  | 0x03 => some ⟨.u16, 0, false⟩
  | 0x04 => some ⟨.int8, 0, false⟩
  | 0x05 => some ⟨.e4m3, 0, false⟩
  | 0x06 => some ⟨.e5m2, 0, false⟩
  | 0x07 => some ⟨.s16, 0, true⟩
  | 0x08 => some ⟨.e4m3, 32, false⟩
  | 0x09 => some ⟨.e5m2, 32, false⟩
  | 0x0A => some ⟨.e3m2, 32, false⟩
  | 0x0B => some ⟨.e2m3, 32, false⟩
  | 0x0C => some ⟨.e2m1, 32, false⟩
  | 0x0D => some ⟨.bint8, 32, false⟩
  | 0x10 => some ⟨.e4m3, 16, false⟩
  | 0x11 => some ⟨.e5m2, 16, false⟩
  | 0x12 => some ⟨.e3m2, 16, false⟩
  | 0x13 => some ⟨.e2m3, 16, false⟩
  | 0x14 => some ⟨.e2m1, 16, false⟩
  | 0x15 => some ⟨.bint8, 16, false⟩
  | 0x16 => some ⟨.bint4, 16, false⟩
  | _ => none

/-- Array class of a format: 0 not an operand, 1 S16, 2 8-bit, 3 4-bit (R51). -/
def fmtClass (code : Nat) : Nat :=
  match code with
  | 0x01 => 1
  | 0x07 => 1
  | 0x0C => 3
  | 0x14 => 3
  | 0x16 => 3
  | _ => if 0x04 ≤ code && code ≤ 0x0D || 0x10 ≤ code && code ≤ 0x15 then 2 else 0

/-- An element of a block with its scale code applied: 2^(scale − 127) × element, every element NaN under 0xFF (R56). -/
def decodeScaled (t : Elem) (scale c : Nat) : Num :=
  if scale = 0xFF then .nan else (decodeElem t c).scale ((scale : Int) - 127)

/-- Whether a block of values is written with scale NaN (R55, R59). -/
def blockNan (t : Elem) (vs : List Num) : Bool := !t.hasNan && vs.any Num.special

/-- choose_scale (R59). -/
def chooseScale (t : Elem) (vs : List Num) : Nat :=
  if blockNan t vs then 0xFF else
  let xs := vs.filterMap (fun v => match v with
    | .fin _ m e => some (expOf m e)
    | _ => none)
  match xs with
  | [] => 0
  | x :: r =>
    let x := r.foldl max x
    (min (max (x - t.emax) (-127)) 127 + 127).toNat

/-- The scale code and the element codes of a block (R59); `rm` gives each element's rounding mode. -/
def encodeBlock (t : Elem) (rm : Nat → Rnd) (vs : List Num) : Nat × List Nat :=
  let sc := chooseScale t vs
  if sc = 0xFF then (sc, vs.map (fun _ => 0))
  else (sc, vs.zipIdx.map (fun (v, i) => encodeElem t (rm i) (v.scale (127 - (sc : Int)))))

/-- Element `i` of packed codes that start at byte 0 of `bs` (R60). -/
def unpackAt (bits i : Nat) (bs : List Byte) : Nat :=
  match bits with
  | 32 => getLE bs (4 * i) 4
  | 16 => getLE bs (2 * i) 2
  | 8 => byteAt bs i
  | 6 => getLE bs (3 * (i / 4)) 3 / 2 ^ (6 * (i % 4)) % 64
  | _ => byteAt bs (i / 2) / 2 ^ (4 * (i % 2)) % 16

/-- Codes packed by their width (R60). -/
def packCodes (bits : Nat) (cs : List Nat) : List Byte :=
  match bits with
  | 32 => (cs.map (leBytes 4)).flatten
  | 16 => (cs.map (leBytes 2)).flatten
  | 8 => cs.map by8
  | 6 => ((chunksOf 4 (cs.length + 1) cs).map (fun g =>
      leBytes 3 (g.getD 0 0 + 64 * g.getD 1 0 + 4096 * g.getD 2 0 + 262144 * g.getD 3 0))).flatten
  | _ => (chunksOf 2 (cs.length + 1) cs).map (fun g => by8 (g.getD 0 0 + 16 * g.getD 1 0))

/-- Bytes of `n` consecutive codes of a width (R60). -/
def packedLen (bits n : Nat) : Nat := if bits = 6 then (n + 3) / 4 * 3 else (n * bits + 7) / 8

end Sys2Proof.Machine
end

