-- ==== Sys2Proof/Config.lean ====
section
/-! DEFINITION. The values the spec leaves open. Each is a constant with no body: nothing can be proved of its value,
so a statement about it holds for every value. -/

namespace Sys2Proof

/-- A fresh open value, drawn with the counter `State.free` (log entry 3). -/
opaque Config.freeWord : Nat → BitVec 64

/-- The blocks of the Zstandard frame the engine writes for a chunk: RFC 8878 allows many and the spec fixes none (R355, R356; log
entry 4). -/
opaque Config.zstdBlocks : List Byte → List Byte

/-- The content of a Compressed block after the Compressed blocks and the content of its frame before it, `none` where it is
refused (R356; log entry 4). -/
opaque Config.zstdCompressed : List (List Byte) → List Byte → List Byte → Option (List Byte)

/-- Whether an ECDSA P-384 signature verifies over a nonce and `GBL_ID` against the debug key of the authenticated
image (R422; log entry 5). -/
opaque Config.debugSignatureOk : List Byte → List Byte → Word → Bool

/-- Nominal endpoint UUID byte of the part: the spec gives the control message and no value (R434; log entry 6). -/
opaque Config.endpointUuid : Nat → Byte

/-- The command-set type of the vendor-defined messages: the spec gives the control message and no value (R434; log entry
6). -/
opaque Config.vendorCommandSet : BitVec 16

/-- The sync word of a marker: the spec gives its width and no value (R271; log entry 76). -/
opaque Config.markerSync : BitVec 64

/-- The package's boundary-scan chain as sampled: the spec gives the instructions and no chain order (R435; log entry
6). -/
opaque Config.boundarySample : Nat → List Bool

end Sys2Proof
end

