-- ==== Sys2Proof/Machine/Map.lean ====
section
/-! DEFINITION. Sparse maps in one canonical form: lists of (key, value) with keys strictly rising and, where the map
has a default, no entry equal to it. Every addressed store of the model is one of these. -/

namespace Sys2Proof.Machine

/-- A sparse map from numbers. -/
abbrev SMap (α : Type) := List (Nat × α)

/-- The value at key `n`, `d` where nothing is listed. -/
def mapGet {α : Type} (d : α) : SMap α → Nat → α
  | [], _ => d
  | (k, v) :: t, n => if n = k then v else mapGet d t n

/-- The entry at key `n`, if one is listed. -/
def mapFind {α : Type} : SMap α → Nat → Option α
  | [], _ => none
  | (k, v) :: t, n => if n = k then some v else mapFind t n

/-- The map with the entry `v` at key `n`. -/
def mapPut {α : Type} : SMap α → Nat → α → SMap α
  | [], n, v => [(n, v)]
  | (k, w) :: t, n, v =>
    if n < k then (n, v) :: (k, w) :: t
    else if n = k then (n, v) :: t
    else (k, w) :: mapPut t n v

/-- The map without key `n`. -/
def mapDel {α : Type} (m : SMap α) (n : Nat) : SMap α := m.filter (fun e => e.1 != n)

/-- The map with `v` at key `n`; writing the default removes the entry. -/
def mapSet {α : Type} [DecidableEq α] (d : α) (m : SMap α) (n : Nat) (v : α) : SMap α :=
  if v = d then mapDel m n else mapPut m n v

/-- Every key of `m` is above `b`, the keys rise strictly. -/
def mapRisesFrom {α : Type} (b : Nat) : SMap α → Bool
  | [] => true
  | (k, _) :: t => decide (b < k) && mapRisesFrom k t

/-- The keys of `m` rise strictly. -/
def mapRises {α : Type} : SMap α → Bool
  | [] => true
  | (k, _) :: t => mapRisesFrom k t

/-- The canonical form: keys strictly rising, no entry equal to the default. -/
def mapWf {α : Type} [DecidableEq α] (d : α) (m : SMap α) : Bool :=
  mapRises m && m.all (fun e => decide (e.2 ≠ d))

/-- The canonical form of a memory: addresses strictly rising, no byte equal to the 0 that an unlisted address reads. -/
def Memory.wf (m : SMap Byte) : Bool := mapWf 0 m

/-- The keys listed from `lo` up to but not including `hi`. -/
def mapKeysIn {α : Type} (m : SMap α) (lo hi : Nat) : List Nat :=
  (m.filter (fun e => decide (lo ≤ e.1) && decide (e.1 < hi))).map (·.1)

/-- The map without the keys from `lo` up to but not including `hi`. -/
def mapClear {α : Type} (m : SMap α) (lo hi : Nat) : SMap α :=
  m.filter (fun e => !(decide (lo ≤ e.1) && decide (e.1 < hi)))

end Sys2Proof.Machine
end

