-- ==== Sys2Proof/Machine/RegDefs.lean ====
section
/-! DEFINITION. The register space of the S8: every register of the register tables of spec/00 to spec/20 with its
BAR0 offset (R9 and the offset tables), its array dimensions, and the bits, access code (R5) and reset value of every
field. Transcribed from the spec's tables. -/

namespace Sys2Proof.Machine

/-- The access codes of R5. -/
inductive Access where
  | rw | ro | w1c | wo | rwl | wonce | rc
  deriving DecidableEq, Repr

/-- One field of a register: bits `hi` down to `lo`, its access code and its reset value. -/
structure Field where
  hi : Nat
  lo : Nat
  acc : Access
  reset : Nat
  deriving DecidableEq, Repr

/-- Where a register lies: its BAR0 offset and the count and stride of its two array dimensions. -/
structure Shape where
  base : Nat
  n1 : Nat
  s1 : Nat
  n2 : Nat
  s2 : Nat
  deriving DecidableEq, Repr

/-- The registers of the spec, by the spec's names. -/
inductive Reg where
  | GBL_ID
  | GBL_FWVER
  | GBL_FWBUILD
  | GBL_EDITION
  | GBL_UNITS
  | MEM_AFAULT_LO
  | MEM_AFAULT_HI
  | MGMT_STAT
  | MGMT_LOAD
  | MGMT_HB
  | LOCK_STAT
  | LOCK_PORT_LO
  | LOCK_PORT_HI
  | MEM_GMAP
  | RNG_SRKEY_LO
  | RNG_SRKEY_HI
  | RNG_LSKEY_LO
  | RNG_LSKEY_HI
  | RNG_LS_BASE
  | RNG_LS_CNT
  | RNG_STAT
  | CTX_STAT
  | CTX_LAST_LO
  | CTX_LAST_HI
  | TEN_STAT
  | TEN_STOW_BASE
  | TEN_STOW_CFG
  | TEN_REBIND_BASE
  | TEN_STOWS
  | TEN_STOW_WAIT
  | TEN_MOVE_LATE
  | MEM_GSTOW
  | TOK_EXCESS
  | TOK_WINDOWS
  | VEC_SLOW
  | SHELF_PERR
  | SHELF_PADDR
  | TMV_SUBST
  | TASK_FAIL
  | TASK_FAIL_ID
  | STEAL_LOCAL
  | STEAL_REMOTE
  | TASK_HAZ
  | TASK_MIXRECV
  | SOLV_STAT
  | SOLV_PIVOT
  | SOLV_REUSE
  | SOLV_STALL
  | SOLV_WAIT
  | CORE_STAT
  | CORE_FRZ_ARR
  | CORE_FRZ_SLOW
  | CORE_FRZ_TOK
  | CORE_REPEATS
  | CORE_FAULT
  | LNK_CFG
  | LNK_STAT
  | LNK_LANES
  | LNK_NEIGH
  | LNK_WRR0
  | LNK_WRR1
  | LNK_HP
  | LNK_LR_BASE
  | LNK_LR_CFG
  | LNK_LR_STAT
  | LNK_FEC_CORR
  | LNK_FEC_BAD
  | LNK_RETRY
  | LNK_TAGWAIT
  | LNK_LANE_EVT
  | FI_CTRL
  | FI_PAT_LO
  | FI_PAT_HI
  | FI_OFF
  | CEL_STAT
  | CEL_CORR
  | CEL_UNCORR
  | CEL_SPARES
  | CEL_ERRLINE
  | CEL_SCRUB
  | UPD_STAT
  | UPD_DONE
  | UPD_FENCE
  | UPD_BUSY
  | COL_NODE
  | COL_STAT
  | COL_E2E
  | COL_RETX
  | COL_REORDER
  | COL_DROP
  | COL_ABORTS
  | COL_WAIT
  | RT_PWT
  | COL_SLOW
  | COL_SLOW_OUT
  | RT_DIRECT
  | RT_RAIL
  | MT_NOW_LO
  | MT_NOW_HI
  | MT_CTRL
  | MT_STAT
  | MT_ERR
  | MT_FRAME
  | MT_ASYM
  | SLOT_EDGE
  | SLOT_ENT_A
  | SLOT_ENT_B
  | LOG_CFG
  | LOG_STAT
  | LOG_HEAD
  | LOG_TAIL
  | LOG_SEQ
  | LOG_REFUSED
  | LOG_LOST
  | RPR_CYC
  | RPR_CFG
  | RPR_TLY_BASE
  | RPR_TLY_RING
  | RPR_STAT
  | RPR_OBS_COUNT
  | CKP_CFG
  | CKP_PERIOD_LO
  | CKP_PERIOD_HI
  | CKP_PORTS_LO
  | CKP_PORTS_HI
  | CKP_BUDDY
  | CKP_STAT
  | CKP_STEP_LO
  | CKP_STEP_HI
  | CKP_SENT
  | STR_CFG
  | STR_BUDDY_BASE
  | STR_BUDDY_CFG
  | STR_BUDDY_STAT
  | STR_COW_WAIT
  | STR_COW
  | FLT_CFG
  | AUD_SALT
  | EVT_RING
  | EVT_LOST
  | FLT_REPLAYS
  | FLT_TERMS
  | AUD_RUNS
  | AUD_MISMATCH
  | AUD_SKIPS
  | MRG_RUNS
  | MRG_FAILS
  | DUM_CORE
  | DUM_STACK
  | DUM_DEV
  | WEAR_STAT
  | SPR_DIE
  | CLK_SRC_STAT
  | CLK_JUDGE
  | CLK_SOSC
  | PWR_STAT
  | BOOT_STAT
  | ATTIC_STAT
  | ATTIC_WAKE
  | SB_STAT
  | SB_CTRL
  | CLK_DOM
  | CLK_DSTAT
  | DIE_SENS
  | DIE_PWR
  | MB_IN
  | MB_CTRL
  | MB_STAT
  | MB_OUT
  | MB_OSTAT
  | FN_STAT
  | RING_SQ_LO
  | RING_SQ_HI
  | RING_CQ_LO
  | RING_CQ_HI
  | RING_CFG
  | RING_SQ_DB
  | RING_CQ_DB
  | RING_STAT
  deriving DecidableEq, Repr

/-- Registers, in ascending offset, part 0. -/
def regsPart0 : List Reg :=
  [.GBL_ID, .GBL_FWVER, .GBL_FWBUILD, .GBL_EDITION, .GBL_UNITS, .MEM_AFAULT_LO, .MEM_AFAULT_HI, .MGMT_STAT, .MGMT_LOAD, .MGMT_HB, .LOCK_STAT, .LOCK_PORT_LO, .LOCK_PORT_HI, .MEM_GMAP, .RNG_SRKEY_LO, .RNG_SRKEY_HI, .RNG_LSKEY_LO, .RNG_LSKEY_HI, .RNG_LS_BASE, .RNG_LS_CNT, .RNG_STAT, .CTX_STAT, .CTX_LAST_LO, .CTX_LAST_HI, .TEN_STAT, .TEN_STOW_BASE, .TEN_STOW_CFG, .TEN_REBIND_BASE, .TEN_STOWS, .TEN_STOW_WAIT]
/-- Registers, in ascending offset, part 1. -/
def regsPart1 : List Reg :=
  [.TEN_MOVE_LATE, .MEM_GSTOW, .TOK_EXCESS, .TOK_WINDOWS, .VEC_SLOW, .SHELF_PERR, .SHELF_PADDR, .TMV_SUBST, .TASK_FAIL, .TASK_FAIL_ID, .STEAL_LOCAL, .STEAL_REMOTE, .TASK_HAZ, .TASK_MIXRECV, .SOLV_STAT, .SOLV_PIVOT, .SOLV_REUSE, .SOLV_STALL, .SOLV_WAIT, .CORE_STAT, .CORE_FRZ_ARR, .CORE_FRZ_SLOW, .CORE_FRZ_TOK, .CORE_REPEATS, .CORE_FAULT, .LNK_CFG, .LNK_STAT, .LNK_LANES, .LNK_NEIGH, .LNK_WRR0]
/-- Registers, in ascending offset, part 2. -/
def regsPart2 : List Reg :=
  [.LNK_WRR1, .LNK_HP, .LNK_LR_BASE, .LNK_LR_CFG, .LNK_LR_STAT, .LNK_FEC_CORR, .LNK_FEC_BAD, .LNK_RETRY, .LNK_TAGWAIT, .LNK_LANE_EVT, .FI_CTRL, .FI_PAT_LO, .FI_PAT_HI, .FI_OFF, .CEL_STAT, .CEL_CORR, .CEL_UNCORR, .CEL_SPARES, .CEL_ERRLINE, .CEL_SCRUB, .UPD_STAT, .UPD_DONE, .UPD_FENCE, .UPD_BUSY, .COL_NODE, .COL_STAT, .COL_E2E, .COL_RETX, .COL_REORDER, .COL_DROP]
/-- Registers, in ascending offset, part 3. -/
def regsPart3 : List Reg :=
  [.COL_ABORTS, .COL_WAIT, .RT_PWT, .COL_SLOW, .COL_SLOW_OUT, .RT_DIRECT, .RT_RAIL, .MT_NOW_LO, .MT_NOW_HI, .MT_CTRL, .MT_STAT, .MT_ERR, .MT_FRAME, .MT_ASYM, .SLOT_EDGE, .SLOT_ENT_A, .SLOT_ENT_B, .LOG_CFG, .LOG_STAT, .LOG_HEAD, .LOG_TAIL, .LOG_SEQ, .LOG_REFUSED, .LOG_LOST, .RPR_CYC, .RPR_CFG, .RPR_TLY_BASE, .RPR_TLY_RING, .RPR_STAT, .RPR_OBS_COUNT]
/-- Registers, in ascending offset, part 4. -/
def regsPart4 : List Reg :=
  [.CKP_CFG, .CKP_PERIOD_LO, .CKP_PERIOD_HI, .CKP_PORTS_LO, .CKP_PORTS_HI, .CKP_BUDDY, .CKP_STAT, .CKP_STEP_LO, .CKP_STEP_HI, .CKP_SENT, .STR_CFG, .STR_BUDDY_BASE, .STR_BUDDY_CFG, .STR_BUDDY_STAT, .STR_COW_WAIT, .STR_COW, .FLT_CFG, .AUD_SALT, .EVT_RING, .EVT_LOST, .FLT_REPLAYS, .FLT_TERMS, .AUD_RUNS, .AUD_MISMATCH, .AUD_SKIPS, .MRG_RUNS, .MRG_FAILS, .DUM_CORE, .DUM_STACK, .DUM_DEV]
/-- Registers, in ascending offset, part 5. -/
def regsPart5 : List Reg :=
  [.WEAR_STAT, .SPR_DIE, .CLK_SRC_STAT, .CLK_JUDGE, .CLK_SOSC, .PWR_STAT, .BOOT_STAT, .ATTIC_STAT, .ATTIC_WAKE, .SB_STAT, .SB_CTRL, .CLK_DOM, .CLK_DSTAT, .DIE_SENS, .DIE_PWR, .MB_IN, .MB_CTRL, .MB_STAT, .MB_OUT, .MB_OSTAT, .FN_STAT, .RING_SQ_LO, .RING_SQ_HI, .RING_CQ_LO, .RING_CQ_HI, .RING_CFG, .RING_SQ_DB, .RING_CQ_DB, .RING_STAT]
/-- Every register, in ascending offset. -/
def allRegs : List Reg :=
  List.flatten [regsPart0, regsPart1, regsPart2, regsPart3, regsPart4, regsPart5]

/-- The place of each register (R9 and the offset tables). -/
def shapeOf : Reg → Shape
  | .GBL_ID => ⟨0x00000000, 1, 0x0, 1, 0x0⟩
  | .GBL_FWVER => ⟨0x00000004, 1, 0x0, 1, 0x0⟩
  | .GBL_FWBUILD => ⟨0x00000008, 1, 0x0, 1, 0x0⟩
  | .GBL_EDITION => ⟨0x0000000C, 1, 0x0, 1, 0x0⟩
  | .GBL_UNITS => ⟨0x00000010, 1, 0x0, 1, 0x0⟩
  | .MEM_AFAULT_LO => ⟨0x00000020, 1, 0x0, 1, 0x0⟩
  | .MEM_AFAULT_HI => ⟨0x00000024, 1, 0x0, 1, 0x0⟩
  | .MGMT_STAT => ⟨0x00000100, 1, 0x0, 1, 0x0⟩
  | .MGMT_LOAD => ⟨0x00000104, 1, 0x0, 1, 0x0⟩
  | .MGMT_HB => ⟨0x00000108, 1, 0x0, 1, 0x0⟩
  | .LOCK_STAT => ⟨0x0000010C, 1, 0x0, 1, 0x0⟩
  | .LOCK_PORT_LO => ⟨0x00000110, 1, 0x0, 1, 0x0⟩
  | .LOCK_PORT_HI => ⟨0x00000114, 1, 0x0, 1, 0x0⟩
  | .MEM_GMAP => ⟨0x00004000, 1024, 0x4, 1, 0x0⟩
  | .RNG_SRKEY_LO => ⟨0x00006000, 64, 0x20, 1, 0x0⟩
  | .RNG_SRKEY_HI => ⟨0x00006004, 64, 0x20, 1, 0x0⟩
  | .RNG_LSKEY_LO => ⟨0x00006008, 64, 0x20, 1, 0x0⟩
  | .RNG_LSKEY_HI => ⟨0x0000600C, 64, 0x20, 1, 0x0⟩
  | .RNG_LS_BASE => ⟨0x00006010, 64, 0x20, 1, 0x0⟩
  | .RNG_LS_CNT => ⟨0x00006014, 64, 0x20, 1, 0x0⟩
  | .RNG_STAT => ⟨0x00006018, 64, 0x20, 1, 0x0⟩
  | .CTX_STAT => ⟨0x00007000, 64, 0x10, 1, 0x0⟩
  | .CTX_LAST_LO => ⟨0x00007004, 64, 0x10, 1, 0x0⟩
  | .CTX_LAST_HI => ⟨0x00007008, 64, 0x10, 1, 0x0⟩
  | .TEN_STAT => ⟨0x00007400, 1, 0x0, 1, 0x0⟩
  | .TEN_STOW_BASE => ⟨0x00007404, 1, 0x0, 1, 0x0⟩
  | .TEN_STOW_CFG => ⟨0x00007408, 1, 0x0, 1, 0x0⟩
  | .TEN_REBIND_BASE => ⟨0x0000740C, 1, 0x0, 1, 0x0⟩
  | .TEN_STOWS => ⟨0x00007410, 1, 0x0, 1, 0x0⟩
  | .TEN_STOW_WAIT => ⟨0x00007414, 1, 0x0, 1, 0x0⟩
  | .TEN_MOVE_LATE => ⟨0x00007418, 1, 0x0, 1, 0x0⟩
  | .MEM_GSTOW => ⟨0x00008000, 1024, 0x4, 1, 0x0⟩
  | .TOK_EXCESS => ⟨0x01001000, 8, 0x200000, 1, 0x0⟩
  | .TOK_WINDOWS => ⟨0x01001004, 8, 0x200000, 1, 0x0⟩
  | .VEC_SLOW => ⟨0x01001008, 8, 0x200000, 1, 0x0⟩
  | .SHELF_PERR => ⟨0x0100100C, 8, 0x200000, 1, 0x0⟩
  | .SHELF_PADDR => ⟨0x01001010, 8, 0x200000, 1, 0x0⟩
  | .TMV_SUBST => ⟨0x01001014, 8, 0x200000, 1, 0x0⟩
  | .TASK_FAIL => ⟨0x01001018, 8, 0x200000, 1, 0x0⟩
  | .TASK_FAIL_ID => ⟨0x0100101C, 8, 0x200000, 1, 0x0⟩
  | .STEAL_LOCAL => ⟨0x01001020, 8, 0x200000, 1, 0x0⟩
  | .STEAL_REMOTE => ⟨0x01001024, 8, 0x200000, 1, 0x0⟩
  | .TASK_HAZ => ⟨0x01001028, 8, 0x200000, 1, 0x0⟩
  | .TASK_MIXRECV => ⟨0x0100102C, 8, 0x200000, 1, 0x0⟩
  | .SOLV_STAT => ⟨0x01001030, 8, 0x200000, 1, 0x0⟩
  | .SOLV_PIVOT => ⟨0x01001034, 8, 0x200000, 1, 0x0⟩
  | .SOLV_REUSE => ⟨0x01001038, 8, 0x200000, 1, 0x0⟩
  | .SOLV_STALL => ⟨0x0100103C, 8, 0x200000, 1, 0x0⟩
  | .SOLV_WAIT => ⟨0x01001040, 8, 0x200000, 1, 0x0⟩
  | .CORE_STAT => ⟨0x01100000, 8, 0x200000, 272, 0x40⟩
  | .CORE_FRZ_ARR => ⟨0x01100004, 8, 0x200000, 272, 0x40⟩
  | .CORE_FRZ_SLOW => ⟨0x01100008, 8, 0x200000, 272, 0x40⟩
  | .CORE_FRZ_TOK => ⟨0x0110000C, 8, 0x200000, 272, 0x40⟩
  | .CORE_REPEATS => ⟨0x01100010, 8, 0x200000, 272, 0x40⟩
  | .CORE_FAULT => ⟨0x01100014, 8, 0x200000, 272, 0x40⟩
  | .LNK_CFG => ⟨0x04000000, 36, 0x10000, 1, 0x0⟩
  | .LNK_STAT => ⟨0x04000004, 36, 0x10000, 1, 0x0⟩
  | .LNK_LANES => ⟨0x04000008, 36, 0x10000, 1, 0x0⟩
  | .LNK_NEIGH => ⟨0x0400000C, 36, 0x10000, 1, 0x0⟩
  | .LNK_WRR0 => ⟨0x04000010, 36, 0x10000, 1, 0x0⟩
  | .LNK_WRR1 => ⟨0x04000014, 36, 0x10000, 1, 0x0⟩
  | .LNK_HP => ⟨0x04000018, 36, 0x10000, 1, 0x0⟩
  | .LNK_LR_BASE => ⟨0x0400001C, 36, 0x10000, 1, 0x0⟩
  | .LNK_LR_CFG => ⟨0x04000020, 36, 0x10000, 1, 0x0⟩
  | .LNK_LR_STAT => ⟨0x04000024, 36, 0x10000, 1, 0x0⟩
  | .LNK_FEC_CORR => ⟨0x04000028, 36, 0x10000, 1, 0x0⟩
  | .LNK_FEC_BAD => ⟨0x0400002C, 36, 0x10000, 1, 0x0⟩
  | .LNK_RETRY => ⟨0x04000030, 36, 0x10000, 1, 0x0⟩
  | .LNK_TAGWAIT => ⟨0x04000034, 36, 0x10000, 1, 0x0⟩
  | .LNK_LANE_EVT => ⟨0x04000038, 36, 0x10000, 1, 0x0⟩
  | .FI_CTRL => ⟨0x04000040, 36, 0x10000, 1, 0x0⟩
  | .FI_PAT_LO => ⟨0x04000044, 36, 0x10000, 1, 0x0⟩
  | .FI_PAT_HI => ⟨0x04000048, 36, 0x10000, 1, 0x0⟩
  | .FI_OFF => ⟨0x0400004C, 36, 0x10000, 1, 0x0⟩
  | .CEL_STAT => ⟨0x06000000, 16, 0x40000, 1, 0x0⟩
  | .CEL_CORR => ⟨0x06000004, 16, 0x40000, 1, 0x0⟩
  | .CEL_UNCORR => ⟨0x06000008, 16, 0x40000, 1, 0x0⟩
  | .CEL_SPARES => ⟨0x0600000C, 16, 0x40000, 1, 0x0⟩
  | .CEL_ERRLINE => ⟨0x06000010, 16, 0x40000, 1, 0x0⟩
  | .CEL_SCRUB => ⟨0x06000014, 16, 0x40000, 1, 0x0⟩
  | .UPD_STAT => ⟨0x06000020, 16, 0x40000, 1, 0x0⟩
  | .UPD_DONE => ⟨0x06000024, 16, 0x40000, 1, 0x0⟩
  | .UPD_FENCE => ⟨0x06000028, 16, 0x40000, 1, 0x0⟩
  | .UPD_BUSY => ⟨0x0600002C, 16, 0x40000, 1, 0x0⟩
  | .COL_NODE => ⟨0x08000000, 1, 0x0, 1, 0x0⟩
  | .COL_STAT => ⟨0x08000004, 1, 0x0, 1, 0x0⟩
  | .COL_E2E => ⟨0x08000008, 1, 0x0, 1, 0x0⟩
  | .COL_RETX => ⟨0x08000010, 1, 0x0, 1, 0x0⟩
  | .COL_REORDER => ⟨0x08000014, 1, 0x0, 1, 0x0⟩
  | .COL_DROP => ⟨0x08000018, 1, 0x0, 1, 0x0⟩
  | .COL_ABORTS => ⟨0x0800001C, 1, 0x0, 1, 0x0⟩
  | .COL_WAIT => ⟨0x08000020, 1, 0x0, 1, 0x0⟩
  | .RT_PWT => ⟨0x08000100, 36, 0x4, 1, 0x0⟩
  | .COL_SLOW => ⟨0x08000200, 32, 0x4, 1, 0x0⟩
  | .COL_SLOW_OUT => ⟨0x08000280, 1, 0x0, 1, 0x0⟩
  | .RT_DIRECT => ⟨0x08001000, 32, 0x4, 1, 0x0⟩
  | .RT_RAIL => ⟨0x08002000, 512, 0x4, 1, 0x0⟩
  | .MT_NOW_LO => ⟨0x08100000, 1, 0x0, 1, 0x0⟩
  | .MT_NOW_HI => ⟨0x08100004, 1, 0x0, 1, 0x0⟩
  | .MT_CTRL => ⟨0x08100008, 1, 0x0, 1, 0x0⟩
  | .MT_STAT => ⟨0x0810000C, 1, 0x0, 1, 0x0⟩
  | .MT_ERR => ⟨0x08100010, 1, 0x0, 1, 0x0⟩
  | .MT_FRAME => ⟨0x08100014, 1, 0x0, 1, 0x0⟩
  | .MT_ASYM => ⟨0x08100100, 36, 0x4, 1, 0x0⟩
  | .SLOT_EDGE => ⟨0x08100200, 36, 0x4, 1, 0x0⟩
  | .SLOT_ENT_A => ⟨0x08108000, 36, 0x200, 64, 0x8⟩
  | .SLOT_ENT_B => ⟨0x08108004, 36, 0x200, 64, 0x8⟩
  | .LOG_CFG => ⟨0x08200000, 1, 0x0, 1, 0x0⟩
  | .LOG_STAT => ⟨0x08200004, 1, 0x0, 1, 0x0⟩
  | .LOG_HEAD => ⟨0x08200008, 1, 0x0, 1, 0x0⟩
  | .LOG_TAIL => ⟨0x0820000C, 1, 0x0, 1, 0x0⟩
  | .LOG_SEQ => ⟨0x08200010, 1, 0x0, 1, 0x0⟩
  | .LOG_REFUSED => ⟨0x08200014, 1, 0x0, 1, 0x0⟩
  | .LOG_LOST => ⟨0x08200018, 1, 0x0, 1, 0x0⟩
  | .RPR_CYC => ⟨0x08300100, 8, 0x4, 1, 0x0⟩
  | .RPR_CFG => ⟨0x08301000, 64, 0x40, 1, 0x0⟩
  | .RPR_TLY_BASE => ⟨0x08301004, 64, 0x40, 1, 0x0⟩
  | .RPR_TLY_RING => ⟨0x08301008, 64, 0x40, 1, 0x0⟩
  | .RPR_STAT => ⟨0x0830100C, 64, 0x40, 1, 0x0⟩
  | .RPR_OBS_COUNT => ⟨0x08301010, 64, 0x40, 1, 0x0⟩
  | .CKP_CFG => ⟨0x08302000, 64, 0x40, 1, 0x0⟩
  | .CKP_PERIOD_LO => ⟨0x08302004, 64, 0x40, 1, 0x0⟩
  | .CKP_PERIOD_HI => ⟨0x08302008, 64, 0x40, 1, 0x0⟩
  | .CKP_PORTS_LO => ⟨0x0830200C, 64, 0x40, 1, 0x0⟩
  | .CKP_PORTS_HI => ⟨0x08302010, 64, 0x40, 1, 0x0⟩
  | .CKP_BUDDY => ⟨0x08302014, 64, 0x40, 1, 0x0⟩
  | .CKP_STAT => ⟨0x08302018, 64, 0x40, 1, 0x0⟩
  | .CKP_STEP_LO => ⟨0x0830201C, 64, 0x40, 1, 0x0⟩
  | .CKP_STEP_HI => ⟨0x08302020, 64, 0x40, 1, 0x0⟩
  | .CKP_SENT => ⟨0x08302024, 64, 0x40, 1, 0x0⟩
  | .STR_CFG => ⟨0x08303000, 1, 0x0, 1, 0x0⟩
  | .STR_BUDDY_BASE => ⟨0x08303004, 1, 0x0, 1, 0x0⟩
  | .STR_BUDDY_CFG => ⟨0x08303008, 1, 0x0, 1, 0x0⟩
  | .STR_BUDDY_STAT => ⟨0x0830300C, 1, 0x0, 1, 0x0⟩
  | .STR_COW_WAIT => ⟨0x08303010, 1, 0x0, 1, 0x0⟩
  | .STR_COW => ⟨0x08303040, 16, 0x4, 1, 0x0⟩
  | .FLT_CFG => ⟨0x08304000, 1, 0x0, 1, 0x0⟩
  | .AUD_SALT => ⟨0x08304004, 1, 0x0, 1, 0x0⟩
  | .EVT_RING => ⟨0x08304008, 1, 0x0, 1, 0x0⟩
  | .EVT_LOST => ⟨0x08304010, 1, 0x0, 1, 0x0⟩
  | .FLT_REPLAYS => ⟨0x08304014, 1, 0x0, 1, 0x0⟩
  | .FLT_TERMS => ⟨0x08304018, 1, 0x0, 1, 0x0⟩
  | .AUD_RUNS => ⟨0x0830401C, 1, 0x0, 1, 0x0⟩
  | .AUD_MISMATCH => ⟨0x08304020, 1, 0x0, 1, 0x0⟩
  | .AUD_SKIPS => ⟨0x08304024, 1, 0x0, 1, 0x0⟩
  | .MRG_RUNS => ⟨0x08304028, 1, 0x0, 1, 0x0⟩
  | .MRG_FAILS => ⟨0x0830402C, 1, 0x0, 1, 0x0⟩
  | .DUM_CORE => ⟨0x08304100, 8, 0x40, 9, 0x4⟩
  | .DUM_STACK => ⟨0x08304400, 16, 0x4, 1, 0x0⟩
  | .DUM_DEV => ⟨0x08304440, 1, 0x0, 1, 0x0⟩
  | .WEAR_STAT => ⟨0x08304450, 1, 0x0, 1, 0x0⟩
  | .SPR_DIE => ⟨0x08304460, 8, 0x4, 1, 0x0⟩
  | .CLK_SRC_STAT => ⟨0x08400000, 1, 0x0, 1, 0x0⟩
  | .CLK_JUDGE => ⟨0x08400004, 1, 0x0, 1, 0x0⟩
  | .CLK_SOSC => ⟨0x08400008, 1, 0x0, 1, 0x0⟩
  | .PWR_STAT => ⟨0x0840000C, 1, 0x0, 1, 0x0⟩
  | .BOOT_STAT => ⟨0x08400010, 1, 0x0, 1, 0x0⟩
  | .ATTIC_STAT => ⟨0x08400014, 1, 0x0, 1, 0x0⟩
  | .ATTIC_WAKE => ⟨0x08400018, 1, 0x0, 1, 0x0⟩
  | .SB_STAT => ⟨0x08400020, 1, 0x0, 1, 0x0⟩
  | .SB_CTRL => ⟨0x08400024, 1, 0x0, 1, 0x0⟩
  | .CLK_DOM => ⟨0x08400100, 79, 0x4, 1, 0x0⟩
  | .CLK_DSTAT => ⟨0x08400280, 79, 0x4, 1, 0x0⟩
  | .DIE_SENS => ⟨0x08400400, 8, 0x8, 1, 0x0⟩
  | .DIE_PWR => ⟨0x08400404, 8, 0x8, 1, 0x0⟩
  | .MB_IN => ⟨0x09000000, 65, 0x1000, 16, 0x4⟩
  | .MB_CTRL => ⟨0x09000040, 65, 0x1000, 1, 0x0⟩
  | .MB_STAT => ⟨0x09000044, 65, 0x1000, 1, 0x0⟩
  | .MB_OUT => ⟨0x09000080, 65, 0x1000, 16, 0x4⟩
  | .MB_OSTAT => ⟨0x090000C0, 65, 0x1000, 1, 0x0⟩
  | .FN_STAT => ⟨0x090000C4, 65, 0x1000, 1, 0x0⟩
  | .RING_SQ_LO => ⟨0x09000100, 65, 0x1000, 4, 0x20⟩
  | .RING_SQ_HI => ⟨0x09000104, 65, 0x1000, 4, 0x20⟩
  | .RING_CQ_LO => ⟨0x09000108, 65, 0x1000, 4, 0x20⟩
  | .RING_CQ_HI => ⟨0x0900010C, 65, 0x1000, 4, 0x20⟩
  | .RING_CFG => ⟨0x09000110, 65, 0x1000, 4, 0x20⟩
  | .RING_SQ_DB => ⟨0x09000114, 65, 0x1000, 4, 0x20⟩
  | .RING_CQ_DB => ⟨0x09000118, 65, 0x1000, 4, 0x20⟩
  | .RING_STAT => ⟨0x0900011C, 65, 0x1000, 4, 0x20⟩

/-- The fields of each register, from the high bits down; bits of no field are reserved and read 0 (R6). -/
def fieldsOf : Reg → List Field
  | .GBL_ID => [⟨31, 16, .ro, 0xB5A⟩, ⟨15, 8, .ro, 0x58⟩, ⟨7, 4, .ro, 0x2⟩, ⟨3, 0, .ro, 0x1⟩]
  | .GBL_FWVER => [⟨31, 24, .ro, 0x0⟩, ⟨23, 16, .ro, 0x0⟩, ⟨15, 0, .ro, 0x0⟩]
  | .GBL_FWBUILD => [⟨31, 0, .ro, 0x0⟩]
  | .GBL_EDITION => [⟨31, 31, .ro, 0x0⟩, ⟨15, 0, .ro, 0x0⟩]
  | .GBL_UNITS => [⟨31, 20, .ro, 0x0⟩, ⟨15, 0, .ro, 0x0⟩]
  | .MEM_AFAULT_LO => [⟨31, 0, .ro, 0x0⟩]
  | .MEM_AFAULT_HI => [⟨31, 31, .w1c, 0x0⟩, ⟨30, 25, .ro, 0x0⟩, ⟨24, 23, .ro, 0x0⟩, ⟨22, 20, .ro, 0x0⟩, ⟨7, 0, .ro, 0x0⟩]
  | .MGMT_STAT => [⟨31, 31, .ro, 0x0⟩, ⟨30, 30, .ro, 0x0⟩, ⟨29, 29, .ro, 0x0⟩, ⟨23, 16, .ro, 0x0⟩, ⟨7, 0, .ro, 0x0⟩]
  | .MGMT_LOAD => [⟨31, 24, .ro, 0x0⟩, ⟨23, 22, .ro, 0x0⟩, ⟨21, 12, .ro, 0x0⟩]
  | .MGMT_HB => [⟨31, 0, .ro, 0x0⟩]
  | .LOCK_STAT => [⟨31, 31, .ro, 0x0⟩, ⟨30, 30, .ro, 0x0⟩, ⟨29, 29, .ro, 0x0⟩]
  | .LOCK_PORT_LO => [⟨31, 0, .ro, 0x0⟩]
  | .LOCK_PORT_HI => [⟨31, 0, .ro, 0x0⟩]
  | .MEM_GMAP => [⟨31, 31, .ro, 0x0⟩, ⟨30, 29, .ro, 0x0⟩, ⟨28, 28, .ro, 0x0⟩, ⟨27, 27, .ro, 0x0⟩, ⟨26, 26, .ro, 0x0⟩, ⟨25, 20, .ro, 0x0⟩, ⟨19, 16, .ro, 0x0⟩, ⟨15, 6, .ro, 0x0⟩]
  | .RNG_SRKEY_LO => [⟨31, 0, .rw, 0x0⟩]
  | .RNG_SRKEY_HI => [⟨31, 0, .rw, 0x0⟩]
  | .RNG_LSKEY_LO => [⟨31, 0, .rw, 0x0⟩]
  | .RNG_LSKEY_HI => [⟨31, 0, .rw, 0x0⟩]
  | .RNG_LS_BASE => [⟨27, 0, .rw, 0x0⟩]
  | .RNG_LS_CNT => [⟨23, 0, .rw, 0x0⟩]
  | .RNG_STAT => [⟨2, 2, .w1c, 0x0⟩, ⟨1, 1, .w1c, 0x0⟩, ⟨0, 0, .w1c, 0x0⟩]
  | .CTX_STAT => [⟨31, 29, .ro, 0x0⟩, ⟨28, 28, .ro, 0x0⟩, ⟨27, 27, .ro, 0x0⟩, ⟨26, 16, .ro, 0x0⟩, ⟨6, 0, .ro, 0x0⟩]
  | .CTX_LAST_LO => [⟨31, 0, .ro, 0x0⟩]
  | .CTX_LAST_HI => [⟨31, 0, .ro, 0x0⟩]
  | .TEN_STAT => [⟨31, 25, .ro, 0x0⟩, ⟨24, 14, .ro, 0x0⟩]
  | .TEN_STOW_BASE => [⟨27, 0, .rwl, 0x0⟩]
  | .TEN_STOW_CFG => [⟨9, 0, .rwl, 0x0⟩]
  | .TEN_REBIND_BASE => [⟨27, 0, .rwl, 0x0⟩]
  | .TEN_STOWS => [⟨31, 0, .rc, 0x0⟩]
  | .TEN_STOW_WAIT => [⟨31, 0, .rc, 0x0⟩]
  | .TEN_MOVE_LATE => [⟨31, 0, .rc, 0x0⟩]
  | .MEM_GSTOW => [⟨31, 31, .ro, 0x0⟩, ⟨9, 0, .ro, 0x0⟩]
  | .TOK_EXCESS => [⟨31, 0, .rc, 0x0⟩]
  | .TOK_WINDOWS => [⟨31, 0, .rc, 0x0⟩]
  | .VEC_SLOW => [⟨31, 0, .rc, 0x0⟩]
  | .SHELF_PERR => [⟨31, 0, .rc, 0x0⟩]
  | .SHELF_PADDR => [⟨31, 23, .ro, 0x0⟩, ⟨22, 21, .ro, 0x0⟩, ⟨20, 20, .ro, 0x0⟩, ⟨16, 4, .ro, 0x0⟩, ⟨3, 0, .ro, 0x0⟩]
  | .TMV_SUBST => [⟨31, 0, .rc, 0x0⟩]
  | .TASK_FAIL => [⟨31, 28, .ro, 0x0⟩, ⟨27, 22, .ro, 0x0⟩, ⟨21, 11, .ro, 0x0⟩, ⟨7, 0, .ro, 0x0⟩]
  | .TASK_FAIL_ID => [⟨31, 0, .ro, 0x0⟩]
  | .STEAL_LOCAL => [⟨31, 0, .rc, 0x0⟩]
  | .STEAL_REMOTE => [⟨31, 0, .rc, 0x0⟩]
  | .TASK_HAZ => [⟨31, 0, .rc, 0x0⟩]
  | .TASK_MIXRECV => [⟨31, 0, .rc, 0x0⟩]
  | .SOLV_STAT => [⟨31, 31, .ro, 0x0⟩, ⟨30, 24, .ro, 0x0⟩, ⟨23, 18, .ro, 0x0⟩, ⟨17, 17, .ro, 0x0⟩, ⟨16, 13, .ro, 0x0⟩, ⟨7, 0, .ro, 0x0⟩]
  | .SOLV_PIVOT => [⟨31, 0, .rc, 0x0⟩]
  | .SOLV_REUSE => [⟨31, 0, .rc, 0x0⟩]
  | .SOLV_STALL => [⟨31, 0, .rc, 0x0⟩]
  | .SOLV_WAIT => [⟨31, 0, .rc, 0x0⟩]
  | .CORE_STAT => [⟨31, 30, .ro, 0x0⟩, ⟨29, 27, .ro, 0x0⟩, ⟨23, 16, .ro, 0xFF⟩, ⟨11, 0, .ro, 0xFFF⟩]
  | .CORE_FRZ_ARR => [⟨31, 0, .rc, 0x0⟩]
  | .CORE_FRZ_SLOW => [⟨31, 0, .rc, 0x0⟩]
  | .CORE_FRZ_TOK => [⟨31, 0, .rc, 0x0⟩]
  | .CORE_REPEATS => [⟨31, 16, .rc, 0x0⟩, ⟨15, 0, .rc, 0x0⟩]
  | .CORE_FAULT => [⟨31, 24, .w1c, 0x0⟩, ⟨23, 12, .ro, 0x0⟩, ⟨11, 0, .rc, 0x0⟩]
  | .LNK_CFG => [⟨31, 30, .rwl, 0x0⟩, ⟨29, 29, .rwl, 0x0⟩, ⟨28, 28, .rwl, 0x0⟩, ⟨27, 14, .rwl, 0x0⟩]
  | .LNK_STAT => [⟨31, 29, .ro, 0x0⟩, ⟨28, 26, .ro, 0x0⟩, ⟨25, 17, .ro, 0x0⟩, ⟨16, 13, .ro, 0x0⟩, ⟨12, 7, .ro, 0x3F⟩]
  | .LNK_LANES => [⟨31, 23, .ro, 0x0⟩, ⟨22, 14, .ro, 0x0⟩, ⟨13, 10, .ro, 0xF⟩, ⟨9, 6, .ro, 0xF⟩]
  | .LNK_NEIGH => [⟨31, 31, .ro, 0x0⟩, ⟨30, 25, .ro, 0x0⟩, ⟨24, 23, .ro, 0x0⟩, ⟨13, 0, .ro, 0x0⟩]
  | .LNK_WRR0 => [⟨31, 24, .rw, 0x1⟩, ⟨23, 16, .rw, 0x1⟩, ⟨15, 8, .rw, 0x1⟩, ⟨7, 0, .rw, 0x1⟩]
  | .LNK_WRR1 => [⟨7, 0, .rw, 0x1⟩]
  | .LNK_HP => [⟨31, 31, .rw, 0x0⟩, ⟨30, 30, .ro, 0x0⟩, ⟨29, 27, .ro, 0x0⟩, ⟨26, 26, .w1c, 0x0⟩, ⟨25, 25, .ro, 0x0⟩]
  | .LNK_LR_BASE => [⟨27, 0, .rwl, 0x0⟩]
  | .LNK_LR_CFG => [⟨8, 0, .rwl, 0x0⟩]
  | .LNK_LR_STAT => [⟨31, 16, .ro, 0x0⟩, ⟨8, 0, .ro, 0x0⟩]
  | .LNK_FEC_CORR => [⟨31, 0, .rc, 0x0⟩]
  | .LNK_FEC_BAD => [⟨31, 0, .rc, 0x0⟩]
  | .LNK_RETRY => [⟨31, 0, .rc, 0x0⟩]
  | .LNK_TAGWAIT => [⟨31, 0, .rc, 0x0⟩]
  | .LNK_LANE_EVT => [⟨31, 0, .rc, 0x0⟩]
  | .FI_CTRL => [⟨31, 31, .rw, 0x0⟩, ⟨30, 28, .rw, 0x0⟩, ⟨27, 20, .rw, 0x0⟩, ⟨19, 8, .rw, 0x0⟩, ⟨7, 0, .rw, 0x0⟩]
  | .FI_PAT_LO => [⟨31, 0, .rw, 0x0⟩]
  | .FI_PAT_HI => [⟨31, 0, .rw, 0x0⟩]
  | .FI_OFF => [⟨31, 12, .ro, 0x0⟩, ⟨7, 0, .rw, 0x0⟩]
  | .CEL_STAT => [⟨31, 31, .ro, 0x0⟩, ⟨30, 30, .ro, 0x0⟩, ⟨29, 29, .ro, 0x0⟩, ⟨28, 24, .ro, 0x0⟩, ⟨9, 0, .ro, 0x0⟩]
  | .CEL_CORR => [⟨31, 0, .rc, 0x0⟩]
  | .CEL_UNCORR => [⟨31, 0, .rc, 0x0⟩]
  | .CEL_SPARES => [⟨31, 16, .ro, 0x0⟩, ⟨15, 0, .ro, 0x400⟩]
  | .CEL_ERRLINE => [⟨31, 30, .ro, 0x0⟩, ⟨29, 0, .ro, 0x0⟩]
  | .CEL_SCRUB => [⟨7, 0, .rwl, 0x8⟩]
  | .UPD_STAT => [⟨31, 31, .ro, 0x0⟩, ⟨30, 22, .ro, 0x0⟩, ⟨21, 13, .ro, 0x0⟩, ⟨7, 0, .ro, 0x0⟩]
  | .UPD_DONE => [⟨31, 0, .rc, 0x0⟩]
  | .UPD_FENCE => [⟨31, 0, .rc, 0x0⟩]
  | .UPD_BUSY => [⟨31, 0, .rc, 0x0⟩]
  | .COL_NODE => [⟨31, 31, .ro, 0x0⟩, ⟨13, 0, .wonce, 0x0⟩]
  | .COL_STAT => [⟨31, 23, .ro, 0x0⟩, ⟨22, 14, .ro, 0x100⟩, ⟨13, 10, .ro, 0x8⟩]
  | .COL_E2E => [⟨31, 24, .rwl, 0x64⟩, ⟨23, 12, .rwl, 0xC8⟩, ⟨11, 6, .rwl, 0x2⟩]
  | .COL_RETX => [⟨31, 0, .rc, 0x0⟩]
  | .COL_REORDER => [⟨31, 0, .rc, 0x0⟩]
  | .COL_DROP => [⟨31, 0, .rc, 0x0⟩]
  | .COL_ABORTS => [⟨31, 0, .rc, 0x0⟩]
  | .COL_WAIT => [⟨31, 0, .rc, 0x0⟩]
  | .RT_PWT => [⟨8, 8, .ro, 0x0⟩, ⟨7, 0, .rw, 0x10⟩]
  | .COL_SLOW => [⟨31, 0, .rc, 0x0⟩]
  | .COL_SLOW_OUT => [⟨31, 0, .rc, 0x0⟩]
  | .RT_DIRECT => [⟨31, 31, .rw, 0x0⟩, ⟨30, 25, .rw, 0x0⟩, ⟨24, 24, .rw, 0x0⟩, ⟨23, 19, .rw, 0x0⟩]
  | .RT_RAIL => [⟨31, 31, .rw, 0x0⟩, ⟨30, 25, .rw, 0x0⟩, ⟨24, 24, .rw, 0x0⟩, ⟨23, 18, .rw, 0x0⟩]
  | .MT_NOW_LO => [⟨31, 0, .ro, 0x0⟩]
  | .MT_NOW_HI => [⟨31, 0, .ro, 0x0⟩]
  | .MT_CTRL => [⟨31, 8, .rwl, 0x0⟩, ⟨1, 1, .rwl, 0x0⟩, ⟨0, 0, .rwl, 0x0⟩]
  | .MT_STAT => [⟨31, 16, .ro, 0x0⟩, ⟨15, 15, .w1c, 0x0⟩, ⟨14, 14, .ro, 0x0⟩, ⟨13, 8, .ro, 0x0⟩, ⟨7, 6, .ro, 0x0⟩, ⟨5, 3, .rc, 0x0⟩, ⟨2, 0, .ro, 0x0⟩]
  | .MT_ERR => [⟨31, 0, .ro, 0xFFFFFFFF⟩]
  | .MT_FRAME => [⟨15, 0, .rwl, 0x40⟩]
  | .MT_ASYM => [⟨31, 31, .rwl, 0x1⟩, ⟨30, 24, .rwl, 0x0⟩, ⟨23, 0, .rwl, 0x0⟩]
  | .SLOT_EDGE => [⟨31, 18, .ro, 0x0⟩, ⟨17, 0, .rc, 0x0⟩]
  | .SLOT_ENT_A => [⟨31, 16, .rw, 0x0⟩, ⟨15, 0, .rw, 0x0⟩]
  | .SLOT_ENT_B => [⟨31, 31, .rw, 0x0⟩, ⟨30, 24, .rw, 0x1⟩, ⟨13, 0, .rw, 0x0⟩]
  | .LOG_CFG => [⟨31, 31, .rwl, 0x0⟩, ⟨13, 0, .rwl, 0x0⟩]
  | .LOG_STAT => [⟨31, 31, .ro, 0x0⟩, ⟨14, 0, .ro, 0x0⟩]
  | .LOG_HEAD => [⟨19, 0, .ro, 0x0⟩]
  | .LOG_TAIL => [⟨19, 0, .rw, 0x0⟩]
  | .LOG_SEQ => [⟨31, 0, .ro, 0x0⟩]
  | .LOG_REFUSED => [⟨31, 0, .rc, 0x0⟩]
  | .LOG_LOST => [⟨31, 0, .rc, 0x0⟩]
  | .RPR_CYC => [⟨31, 31, .ro, 0x0⟩, ⟨30, 28, .ro, 0x0⟩, ⟨27, 0, .ro, 0x0⟩]
  | .RPR_CFG => [⟨8, 8, .ro, 0x0⟩, ⟨7, 4, .rw, 0x8⟩, ⟨2, 1, .rw, 0x0⟩, ⟨0, 0, .rw, 0x0⟩]
  | .RPR_TLY_BASE => [⟨27, 0, .rw, 0x0⟩]
  | .RPR_TLY_RING => [⟨31, 16, .rw, 0x0⟩, ⟨15, 0, .ro, 0x0⟩]
  | .RPR_STAT => [⟨4, 4, .w1c, 0x0⟩, ⟨3, 3, .w1c, 0x0⟩, ⟨2, 2, .w1c, 0x0⟩, ⟨1, 1, .w1c, 0x0⟩, ⟨0, 0, .w1c, 0x0⟩]
  | .RPR_OBS_COUNT => [⟨31, 0, .rc, 0x0⟩]
  | .CKP_CFG => [⟨31, 31, .rw, 0x0⟩, ⟨30, 30, .rw, 0x0⟩, ⟨29, 29, .rw, 0x0⟩, ⟨28, 26, .rw, 0x0⟩, ⟨25, 0, .rw, 0x0⟩]
  | .CKP_PERIOD_LO => [⟨31, 0, .rw, 0x0⟩]
  | .CKP_PERIOD_HI => [⟨31, 0, .rw, 0x0⟩]
  | .CKP_PORTS_LO => [⟨31, 0, .rw, 0x0⟩]
  | .CKP_PORTS_HI => [⟨3, 0, .rw, 0x0⟩]
  | .CKP_BUDDY => [⟨31, 31, .rw, 0x0⟩, ⟨13, 0, .rw, 0x0⟩]
  | .CKP_STAT => [⟨31, 30, .ro, 0x0⟩, ⟨29, 29, .ro, 0x0⟩, ⟨28, 28, .w1c, 0x0⟩, ⟨27, 27, .w1c, 0x0⟩, ⟨15, 0, .rc, 0x0⟩]
  | .CKP_STEP_LO => [⟨31, 0, .ro, 0x0⟩]
  | .CKP_STEP_HI => [⟨31, 0, .ro, 0x0⟩]
  | .CKP_SENT => [⟨31, 0, .ro, 0x0⟩]
  | .STR_CFG => [⟨31, 31, .wonce, 0x0⟩]
  | .STR_BUDDY_BASE => [⟨27, 0, .rwl, 0x0⟩]
  | .STR_BUDDY_CFG => [⟨31, 30, .rwl, 0x1⟩, ⟨29, 16, .rwl, 0x0⟩, ⟨9, 0, .rwl, 0x0⟩]
  | .STR_BUDDY_STAT => [⟨31, 31, .ro, 0x0⟩, ⟨30, 30, .ro, 0x0⟩, ⟨29, 29, .ro, 0x0⟩, ⟨28, 28, .ro, 0x0⟩]
  | .STR_COW_WAIT => [⟨31, 0, .rc, 0x0⟩]
  | .STR_COW => [⟨19, 0, .ro, 0x0⟩]
  | .FLT_CFG => [⟨31, 27, .rw, 0xC⟩, ⟨26, 19, .rw, 0x7⟩, ⟨18, 9, .rw, 0x200⟩]
  | .AUD_SALT => [⟨31, 0, .rw, 0x0⟩]
  | .EVT_RING => [⟨28, 16, .rw, 0x0⟩, ⟨12, 0, .ro, 0x0⟩]
  | .EVT_LOST => [⟨31, 0, .rc, 0x0⟩]
  | .FLT_REPLAYS => [⟨31, 0, .rc, 0x0⟩]
  | .FLT_TERMS => [⟨31, 0, .rc, 0x0⟩]
  | .AUD_RUNS => [⟨31, 0, .rc, 0x0⟩]
  | .AUD_MISMATCH => [⟨31, 0, .rc, 0x0⟩]
  | .AUD_SKIPS => [⟨31, 0, .rc, 0x0⟩]
  | .MRG_RUNS => [⟨31, 0, .rc, 0x0⟩]
  | .MRG_FAILS => [⟨31, 0, .rc, 0x0⟩]
  | .DUM_CORE => [⟨31, 0, .wonce, 0x0⟩]
  | .DUM_STACK => [⟨31, 31, .wonce, 0x0⟩, ⟨30, 24, .wonce, 0x0⟩]
  | .DUM_DEV => [⟨31, 23, .wonce, 0x0⟩, ⟨22, 22, .wonce, 0x0⟩, ⟨21, 21, .wonce, 0x0⟩]
  | .WEAR_STAT => [⟨13, 13, .ro, 0x0⟩, ⟨12, 0, .ro, 0x0⟩]
  | .SPR_DIE => [⟨31, 24, .ro, 0x0⟩, ⟨23, 16, .ro, 0x0⟩, ⟨15, 8, .ro, 0x0⟩]
  | .CLK_SRC_STAT => [⟨31, 31, .ro, 0x0⟩, ⟨30, 30, .ro, 0x0⟩, ⟨29, 29, .ro, 0x0⟩, ⟨28, 28, .w1c, 0x0⟩, ⟨27, 27, .w1c, 0x0⟩, ⟨26, 26, .w1c, 0x0⟩, ⟨25, 25, .w1c, 0x0⟩, ⟨24, 24, .w1c, 0x0⟩, ⟨23, 23, .ro, 0x0⟩]
  | .CLK_JUDGE => [⟨15, 0, .rw, 0x1F4⟩]
  | .CLK_SOSC => [⟨31, 31, .ro, 0x0⟩, ⟨30, 29, .ro, 0x0⟩, ⟨15, 0, .ro, 0x0⟩]
  | .PWR_STAT => [⟨31, 30, .ro, 0x0⟩, ⟨29, 22, .ro, 0x0⟩, ⟨21, 10, .ro, 0x0⟩]
  | .BOOT_STAT => [⟨31, 28, .ro, 0x0⟩, ⟨27, 27, .ro, 0x0⟩, ⟨26, 26, .ro, 0x0⟩]
  | .ATTIC_STAT => [⟨31, 31, .ro, 0x0⟩, ⟨30, 30, .ro, 0x0⟩, ⟨29, 29, .ro, 0x0⟩, ⟨28, 24, .ro, 0x0⟩]
  | .ATTIC_WAKE => [⟨31, 31, .rw, 0x0⟩, ⟨30, 30, .rw, 0x1⟩, ⟨29, 29, .rw, 0x1⟩]
  | .SB_STAT => [⟨31, 31, .w1c, 0x0⟩, ⟨30, 30, .ro, 0x0⟩, ⟨29, 29, .ro, 0x0⟩, ⟨28, 27, .ro, 0x0⟩, ⟨26, 26, .w1c, 0x0⟩, ⟨25, 25, .w1c, 0x0⟩, ⟨24, 19, .ro, 0x0⟩, ⟨17, 16, .ro, 0x0⟩, ⟨15, 0, .rc, 0x0⟩]
  | .SB_CTRL => [⟨31, 31, .wo, 0x0⟩, ⟨30, 30, .rw, 0x0⟩]
  | .CLK_DOM => [⟨31, 30, .rw, 0x0⟩, ⟨29, 28, .rw, 0x2⟩, ⟨8, 0, .rw, 0xA0⟩]
  | .CLK_DSTAT => [⟨31, 30, .ro, 0x0⟩, ⟨29, 29, .ro, 0x0⟩, ⟨28, 28, .ro, 0x0⟩, ⟨27, 27, .w1c, 0x0⟩, ⟨26, 18, .ro, 0x0⟩]
  | .DIE_SENS => [⟨31, 20, .ro, 0x0⟩, ⟨19, 8, .ro, 0x0⟩]
  | .DIE_PWR => [⟨31, 29, .ro, 0x3⟩, ⟨28, 28, .ro, 0x0⟩, ⟨27, 25, .ro, 0x0⟩, ⟨24, 16, .ro, 0xA0⟩]
  | .MB_IN => [⟨31, 0, .rw, 0x0⟩]
  | .MB_CTRL => [⟨31, 31, .wo, 0x0⟩, ⟨4, 0, .rw, 0x10⟩]
  | .MB_STAT => [⟨31, 31, .ro, 0x0⟩, ⟨30, 30, .w1c, 0x0⟩, ⟨29, 29, .w1c, 0x0⟩]
  | .MB_OUT => [⟨31, 0, .ro, 0x0⟩]
  | .MB_OSTAT => [⟨31, 31, .ro, 0x0⟩, ⟨30, 30, .wo, 0x0⟩, ⟨4, 0, .ro, 0x0⟩]
  | .FN_STAT => [⟨31, 31, .w1c, 0x0⟩, ⟨30, 30, .w1c, 0x0⟩, ⟨29, 29, .ro, 0x0⟩, ⟨28, 28, .w1c, 0x0⟩]
  | .RING_SQ_LO => [⟨31, 0, .rw, 0x0⟩]
  | .RING_SQ_HI => [⟨31, 0, .rw, 0x0⟩]
  | .RING_CQ_LO => [⟨31, 0, .rw, 0x0⟩]
  | .RING_CQ_HI => [⟨31, 0, .rw, 0x0⟩]
  | .RING_CFG => [⟨31, 31, .rw, 0x0⟩, ⟨30, 30, .rw, 0x0⟩, ⟨23, 20, .rw, 0x4⟩, ⟨15, 0, .rw, 0xFFFF⟩]
  | .RING_SQ_DB => [⟨11, 0, .rw, 0x0⟩]
  | .RING_CQ_DB => [⟨11, 0, .rw, 0x0⟩]
  | .RING_STAT => [⟨31, 31, .ro, 0x1⟩, ⟨30, 30, .ro, 0x0⟩, ⟨27, 16, .ro, 0x0⟩, ⟨11, 0, .ro, 0x0⟩]

/-- A reference to one field of a register. -/
structure Fld where
  reg : Reg
  hi : Nat
  lo : Nat
  deriving DecidableEq, Repr

/-- `GBL_ID.VENDOR_CODE` [31:16]. -/
abbrev F.GBL_ID.VENDOR_CODE : Fld := ⟨.GBL_ID, 31, 16⟩
/-- `GBL_ID.PART` [15:8]. -/
abbrev F.GBL_ID.PART : Fld := ⟨.GBL_ID, 15, 8⟩
/-- `GBL_ID.STEP_MAJOR` [7:4]. -/
abbrev F.GBL_ID.STEP_MAJOR : Fld := ⟨.GBL_ID, 7, 4⟩
/-- `GBL_ID.STEP_MINOR` [3:0]. -/
abbrev F.GBL_ID.STEP_MINOR : Fld := ⟨.GBL_ID, 3, 0⟩
/-- `GBL_FWVER.MAJOR` [31:24]. -/
abbrev F.GBL_FWVER.MAJOR : Fld := ⟨.GBL_FWVER, 31, 24⟩
/-- `GBL_FWVER.MINOR` [23:16]. -/
abbrev F.GBL_FWVER.MINOR : Fld := ⟨.GBL_FWVER, 23, 16⟩
/-- `GBL_FWVER.PATCH` [15:0]. -/
abbrev F.GBL_FWVER.PATCH : Fld := ⟨.GBL_FWVER, 15, 0⟩
/-- `GBL_FWBUILD.BUILD` [31:0]. -/
abbrev F.GBL_FWBUILD.BUILD : Fld := ⟨.GBL_FWBUILD, 31, 0⟩
/-- `GBL_EDITION.VALID` [31:31]. -/
abbrev F.GBL_EDITION.VALID : Fld := ⟨.GBL_EDITION, 31, 31⟩
/-- `GBL_EDITION.EDITION` [15:0]. -/
abbrev F.GBL_EDITION.EDITION : Fld := ⟨.GBL_EDITION, 15, 0⟩
/-- `GBL_UNITS.ACTIVE_CORES` [31:20]. -/
abbrev F.GBL_UNITS.ACTIVE_CORES : Fld := ⟨.GBL_UNITS, 31, 20⟩
/-- `GBL_UNITS.STACK_OK` [15:0]. -/
abbrev F.GBL_UNITS.STACK_OK : Fld := ⟨.GBL_UNITS, 15, 0⟩
/-- `MEM_AFAULT_LO.ADDR_LO` [31:0]. -/
abbrev F.MEM_AFAULT_LO.ADDR_LO : Fld := ⟨.MEM_AFAULT_LO, 31, 0⟩
/-- `MEM_AFAULT_HI.VALID` [31:31]. -/
abbrev F.MEM_AFAULT_HI.VALID : Fld := ⟨.MEM_AFAULT_HI, 31, 31⟩
/-- `MEM_AFAULT_HI.CTX` [30:25]. -/
abbrev F.MEM_AFAULT_HI.CTX : Fld := ⟨.MEM_AFAULT_HI, 30, 25⟩
/-- `MEM_AFAULT_HI.AGENT` [24:23]. -/
abbrev F.MEM_AFAULT_HI.AGENT : Fld := ⟨.MEM_AFAULT_HI, 24, 23⟩
/-- `MEM_AFAULT_HI.CAUSE` [22:20]. -/
abbrev F.MEM_AFAULT_HI.CAUSE : Fld := ⟨.MEM_AFAULT_HI, 22, 20⟩
/-- `MEM_AFAULT_HI.ADDR_HI` [7:0]. -/
abbrev F.MEM_AFAULT_HI.ADDR_HI : Fld := ⟨.MEM_AFAULT_HI, 7, 0⟩
/-- `MGMT_STAT.ACTIVE_SET` [31:31]. -/
abbrev F.MGMT_STAT.ACTIVE_SET : Fld := ⟨.MGMT_STAT, 31, 31⟩
/-- `MGMT_STAT.STANDBY_OK` [30:30]. -/
abbrev F.MGMT_STAT.STANDBY_OK : Fld := ⟨.MGMT_STAT, 30, 30⟩
/-- `MGMT_STAT.DEAD` [29:29]. -/
abbrev F.MGMT_STAT.DEAD : Fld := ⟨.MGMT_STAT, 29, 29⟩
/-- `MGMT_STAT.HB_AGE` [23:16]. -/
abbrev F.MGMT_STAT.HB_AGE : Fld := ⟨.MGMT_STAT, 23, 16⟩
/-- `MGMT_STAT.MCTP_EID` [7:0]. -/
abbrev F.MGMT_STAT.MCTP_EID : Fld := ⟨.MGMT_STAT, 7, 0⟩
/-- `MGMT_LOAD.BUSY_PCT` [31:24]. -/
abbrev F.MGMT_LOAD.BUSY_PCT : Fld := ⟨.MGMT_LOAD, 31, 24⟩
/-- `MGMT_LOAD.SHED` [23:22]. -/
abbrev F.MGMT_LOAD.SHED : Fld := ⟨.MGMT_LOAD, 23, 22⟩
/-- `MGMT_LOAD.QUEUED` [21:12]. -/
abbrev F.MGMT_LOAD.QUEUED : Fld := ⟨.MGMT_LOAD, 21, 12⟩
/-- `MGMT_HB.COUNT` [31:0]. -/
abbrev F.MGMT_HB.COUNT : Fld := ⟨.MGMT_HB, 31, 0⟩
/-- `LOCK_STAT.PLATFORM` [31:31]. -/
abbrev F.LOCK_STAT.PLATFORM : Fld := ⟨.LOCK_STAT, 31, 31⟩
/-- `LOCK_STAT.DEBUG_OPEN` [30:30]. -/
abbrev F.LOCK_STAT.DEBUG_OPEN : Fld := ⟨.LOCK_STAT, 30, 30⟩
/-- `LOCK_STAT.STORE` [29:29]. -/
abbrev F.LOCK_STAT.STORE : Fld := ⟨.LOCK_STAT, 29, 29⟩
/-- `LOCK_PORT_LO.LOCKED` [31:0]. -/
abbrev F.LOCK_PORT_LO.LOCKED : Fld := ⟨.LOCK_PORT_LO, 31, 0⟩
/-- `LOCK_PORT_HI.LOCKED` [31:0]. -/
abbrev F.LOCK_PORT_HI.LOCKED : Fld := ⟨.LOCK_PORT_HI, 31, 0⟩
/-- `MEM_GMAP.VALID` [31:31]. -/
abbrev F.MEM_GMAP.VALID : Fld := ⟨.MEM_GMAP, 31, 31⟩
/-- `MEM_GMAP.MODE` [30:29]. -/
abbrev F.MEM_GMAP.MODE : Fld := ⟨.MEM_GMAP, 30, 29⟩
/-- `MEM_GMAP.STORE` [28:28]. -/
abbrev F.MEM_GMAP.STORE : Fld := ⟨.MEM_GMAP, 28, 28⟩
/-- `MEM_GMAP.PLANE` [27:27]. -/
abbrev F.MEM_GMAP.PLANE : Fld := ⟨.MEM_GMAP, 27, 27⟩
/-- `MEM_GMAP.OWNED` [26:26]. -/
abbrev F.MEM_GMAP.OWNED : Fld := ⟨.MEM_GMAP, 26, 26⟩
/-- `MEM_GMAP.CTX` [25:20]. -/
abbrev F.MEM_GMAP.CTX : Fld := ⟨.MEM_GMAP, 25, 20⟩
/-- `MEM_GMAP.UNIT` [19:16]. -/
abbrev F.MEM_GMAP.UNIT : Fld := ⟨.MEM_GMAP, 19, 16⟩
/-- `MEM_GMAP.FRAME` [15:6]. -/
abbrev F.MEM_GMAP.FRAME : Fld := ⟨.MEM_GMAP, 15, 6⟩
/-- `RNG_SRKEY_LO.KEY` [31:0]. -/
abbrev F.RNG_SRKEY_LO.KEY : Fld := ⟨.RNG_SRKEY_LO, 31, 0⟩
/-- `RNG_SRKEY_HI.KEY` [31:0]. -/
abbrev F.RNG_SRKEY_HI.KEY : Fld := ⟨.RNG_SRKEY_HI, 31, 0⟩
/-- `RNG_LSKEY_LO.KEY` [31:0]. -/
abbrev F.RNG_LSKEY_LO.KEY : Fld := ⟨.RNG_LSKEY_LO, 31, 0⟩
/-- `RNG_LSKEY_HI.KEY` [31:0]. -/
abbrev F.RNG_LSKEY_HI.KEY : Fld := ⟨.RNG_LSKEY_HI, 31, 0⟩
/-- `RNG_LS_BASE.ADDR` [27:0]. -/
abbrev F.RNG_LS_BASE.ADDR : Fld := ⟨.RNG_LS_BASE, 27, 0⟩
/-- `RNG_LS_CNT.UNITS` [23:0]. -/
abbrev F.RNG_LS_CNT.UNITS : Fld := ⟨.RNG_LS_CNT, 23, 0⟩
/-- `RNG_STAT.STREAM_ADV` [2:2]. -/
abbrev F.RNG_STAT.STREAM_ADV : Fld := ⟨.RNG_STAT, 2, 2⟩
/-- `RNG_STAT.LS_RANGE` [1:1]. -/
abbrev F.RNG_STAT.LS_RANGE : Fld := ⟨.RNG_STAT, 1, 1⟩
/-- `RNG_STAT.LS_FAULT` [0:0]. -/
abbrev F.RNG_STAT.LS_FAULT : Fld := ⟨.RNG_STAT, 0, 0⟩
/-- `CTX_STAT.STATE` [31:29]. -/
abbrev F.CTX_STAT.STATE : Fld := ⟨.CTX_STAT, 31, 29⟩
/-- `CTX_STAT.MODE` [28:28]. -/
abbrev F.CTX_STAT.MODE : Fld := ⟨.CTX_STAT, 28, 28⟩
/-- `CTX_STAT.IDLE` [27:27]. -/
abbrev F.CTX_STAT.IDLE : Fld := ⟨.CTX_STAT, 27, 27⟩
/-- `CTX_STAT.STOWED_HERE` [26:16]. -/
abbrev F.CTX_STAT.STOWED_HERE : Fld := ⟨.CTX_STAT, 26, 16⟩
/-- `CTX_STAT.OWNER_FN` [6:0]. -/
abbrev F.CTX_STAT.OWNER_FN : Fld := ⟨.CTX_STAT, 6, 0⟩
/-- `CTX_LAST_LO.STAMP` [31:0]. -/
abbrev F.CTX_LAST_LO.STAMP : Fld := ⟨.CTX_LAST_LO, 31, 0⟩
/-- `CTX_LAST_HI.STAMP` [31:0]. -/
abbrev F.CTX_LAST_HI.STAMP : Fld := ⟨.CTX_LAST_HI, 31, 0⟩
/-- `TEN_STAT.BOUND` [31:25]. -/
abbrev F.TEN_STAT.BOUND : Fld := ⟨.TEN_STAT, 31, 25⟩
/-- `TEN_STAT.STOWED` [24:14]. -/
abbrev F.TEN_STAT.STOWED : Fld := ⟨.TEN_STAT, 24, 14⟩
/-- `TEN_STOW_BASE.ADDR` [27:0]. -/
abbrev F.TEN_STOW_BASE.ADDR : Fld := ⟨.TEN_STOW_BASE, 27, 0⟩
/-- `TEN_STOW_CFG.ENTRIES` [9:0]. -/
abbrev F.TEN_STOW_CFG.ENTRIES : Fld := ⟨.TEN_STOW_CFG, 9, 0⟩
/-- `TEN_REBIND_BASE.ADDR` [27:0]. -/
abbrev F.TEN_REBIND_BASE.ADDR : Fld := ⟨.TEN_REBIND_BASE, 27, 0⟩
/-- `TEN_STOWS.COUNT` [31:0]. -/
abbrev F.TEN_STOWS.COUNT : Fld := ⟨.TEN_STOWS, 31, 0⟩
/-- `TEN_STOW_WAIT.COUNT` [31:0]. -/
abbrev F.TEN_STOW_WAIT.COUNT : Fld := ⟨.TEN_STOW_WAIT, 31, 0⟩
/-- `TEN_MOVE_LATE.COUNT` [31:0]. -/
abbrev F.TEN_MOVE_LATE.COUNT : Fld := ⟨.TEN_MOVE_LATE, 31, 0⟩
/-- `MEM_GSTOW.STOWED` [31:31]. -/
abbrev F.MEM_GSTOW.STOWED : Fld := ⟨.MEM_GSTOW, 31, 31⟩
/-- `MEM_GSTOW.STOW_NO` [9:0]. -/
abbrev F.MEM_GSTOW.STOW_NO : Fld := ⟨.MEM_GSTOW, 9, 0⟩
/-- `TOK_EXCESS.TICKS` [31:0]. -/
abbrev F.TOK_EXCESS.TICKS : Fld := ⟨.TOK_EXCESS, 31, 0⟩
/-- `TOK_WINDOWS.WINDOWS` [31:0]. -/
abbrev F.TOK_WINDOWS.WINDOWS : Fld := ⟨.TOK_WINDOWS, 31, 0⟩
/-- `VEC_SLOW.LANES` [31:0]. -/
abbrev F.VEC_SLOW.LANES : Fld := ⟨.VEC_SLOW, 31, 0⟩
/-- `SHELF_PERR.COUNT` [31:0]. -/
abbrev F.SHELF_PERR.COUNT : Fld := ⟨.SHELF_PERR, 31, 0⟩
/-- `SHELF_PADDR.CORE` [31:23]. -/
abbrev F.SHELF_PADDR.CORE : Fld := ⟨.SHELF_PADDR, 31, 23⟩
/-- `SHELF_PADDR.PORT` [22:21]. -/
abbrev F.SHELF_PADDR.PORT : Fld := ⟨.SHELF_PADDR, 22, 21⟩
/-- `SHELF_PADDR.RERUN` [20:20]. -/
abbrev F.SHELF_PADDR.RERUN : Fld := ⟨.SHELF_PADDR, 20, 20⟩
/-- `SHELF_PADDR.LINE` [16:4]. -/
abbrev F.SHELF_PADDR.LINE : Fld := ⟨.SHELF_PADDR, 16, 4⟩
/-- `SHELF_PADDR.WORD` [3:0]. -/
abbrev F.SHELF_PADDR.WORD : Fld := ⟨.SHELF_PADDR, 3, 0⟩
/-- `TMV_SUBST.COUNT` [31:0]. -/
abbrev F.TMV_SUBST.COUNT : Fld := ⟨.TMV_SUBST, 31, 0⟩
/-- `TASK_FAIL.REASON` [31:28]. -/
abbrev F.TASK_FAIL.REASON : Fld := ⟨.TASK_FAIL, 31, 28⟩
/-- `TASK_FAIL.CTX` [27:22]. -/
abbrev F.TASK_FAIL.CTX : Fld := ⟨.TASK_FAIL, 27, 22⟩
/-- `TASK_FAIL.LCORE` [21:11]. -/
abbrev F.TASK_FAIL.LCORE : Fld := ⟨.TASK_FAIL, 21, 11⟩
/-- `TASK_FAIL.DETAIL` [7:0]. -/
abbrev F.TASK_FAIL.DETAIL : Fld := ⟨.TASK_FAIL, 7, 0⟩
/-- `TASK_FAIL_ID.TASK_ID` [31:0]. -/
abbrev F.TASK_FAIL_ID.TASK_ID : Fld := ⟨.TASK_FAIL_ID, 31, 0⟩
/-- `STEAL_LOCAL.COUNT` [31:0]. -/
abbrev F.STEAL_LOCAL.COUNT : Fld := ⟨.STEAL_LOCAL, 31, 0⟩
/-- `STEAL_REMOTE.COUNT` [31:0]. -/
abbrev F.STEAL_REMOTE.COUNT : Fld := ⟨.STEAL_REMOTE, 31, 0⟩
/-- `TASK_HAZ.COUNT` [31:0]. -/
abbrev F.TASK_HAZ.COUNT : Fld := ⟨.TASK_HAZ, 31, 0⟩
/-- `TASK_MIXRECV.COUNT` [31:0]. -/
abbrev F.TASK_MIXRECV.COUNT : Fld := ⟨.TASK_MIXRECV, 31, 0⟩
/-- `SOLV_STAT.RUNNING` [31:31]. -/
abbrev F.SOLV_STAT.RUNNING : Fld := ⟨.SOLV_STAT, 31, 31⟩
/-- `SOLV_STAT.REGISTERED` [30:24]. -/
abbrev F.SOLV_STAT.REGISTERED : Fld := ⟨.SOLV_STAT, 30, 24⟩
/-- `SOLV_STAT.CTX` [23:18]. -/
abbrev F.SOLV_STAT.CTX : Fld := ⟨.SOLV_STAT, 23, 18⟩
/-- `SOLV_STAT.STAGE` [17:17]. -/
abbrev F.SOLV_STAT.STAGE : Fld := ⟨.SOLV_STAT, 17, 17⟩
/-- `SOLV_STAT.ATTEMPT` [16:13]. -/
abbrev F.SOLV_STAT.ATTEMPT : Fld := ⟨.SOLV_STAT, 16, 13⟩
/-- `SOLV_STAT.MATRIX` [7:0]. -/
abbrev F.SOLV_STAT.MATRIX : Fld := ⟨.SOLV_STAT, 7, 0⟩
/-- `SOLV_PIVOT.COUNT` [31:0]. -/
abbrev F.SOLV_PIVOT.COUNT : Fld := ⟨.SOLV_PIVOT, 31, 0⟩
/-- `SOLV_REUSE.COUNT` [31:0]. -/
abbrev F.SOLV_REUSE.COUNT : Fld := ⟨.SOLV_REUSE, 31, 0⟩
/-- `SOLV_STALL.US` [31:0]. -/
abbrev F.SOLV_STALL.US : Fld := ⟨.SOLV_STALL, 31, 0⟩
/-- `SOLV_WAIT.COUNT` [31:0]. -/
abbrev F.SOLV_WAIT.COUNT : Fld := ⟨.SOLV_WAIT, 31, 0⟩
/-- `CORE_STAT.STATE` [31:30]. -/
abbrev F.CORE_STAT.STATE : Fld := ⟨.CORE_STAT, 31, 30⟩
/-- `CORE_STAT.FRZ` [29:27]. -/
abbrev F.CORE_STAT.FRZ : Fld := ⟨.CORE_STAT, 29, 27⟩
/-- `CORE_STAT.CTX` [23:16]. -/
abbrev F.CORE_STAT.CTX : Fld := ⟨.CORE_STAT, 23, 16⟩
/-- `CORE_STAT.LCORE` [11:0]. -/
abbrev F.CORE_STAT.LCORE : Fld := ⟨.CORE_STAT, 11, 0⟩
/-- `CORE_FRZ_ARR.CYCLES` [31:0]. -/
abbrev F.CORE_FRZ_ARR.CYCLES : Fld := ⟨.CORE_FRZ_ARR, 31, 0⟩
/-- `CORE_FRZ_SLOW.CYCLES` [31:0]. -/
abbrev F.CORE_FRZ_SLOW.CYCLES : Fld := ⟨.CORE_FRZ_SLOW, 31, 0⟩
/-- `CORE_FRZ_TOK.CYCLES` [31:0]. -/
abbrev F.CORE_FRZ_TOK.CYCLES : Fld := ⟨.CORE_FRZ_TOK, 31, 0⟩
/-- `CORE_REPEATS.REPEATS` [31:16]. -/
abbrev F.CORE_REPEATS.REPEATS : Fld := ⟨.CORE_REPEATS, 31, 16⟩
/-- `CORE_REPEATS.CYCLES_K` [15:0]. -/
abbrev F.CORE_REPEATS.CYCLES_K : Fld := ⟨.CORE_REPEATS, 15, 0⟩
/-- `CORE_FAULT.CODE` [31:24]. -/
abbrev F.CORE_FAULT.CODE : Fld := ⟨.CORE_FAULT, 31, 24⟩
/-- `CORE_FAULT.BUNDLE` [23:12]. -/
abbrev F.CORE_FAULT.BUNDLE : Fld := ⟨.CORE_FAULT, 23, 12⟩
/-- `CORE_FAULT.COUNT` [11:0]. -/
abbrev F.CORE_FAULT.COUNT : Fld := ⟨.CORE_FAULT, 11, 0⟩
/-- `LNK_CFG.ROLE` [31:30]. -/
abbrev F.LNK_CFG.ROLE : Fld := ⟨.LNK_CFG, 31, 30⟩
/-- `LNK_CFG.LR_EN` [29:29]. -/
abbrev F.LNK_CFG.LR_EN : Fld := ⟨.LNK_CFG, 29, 29⟩
/-- `LNK_CFG.EXPECT_EN` [28:28]. -/
abbrev F.LNK_CFG.EXPECT_EN : Fld := ⟨.LNK_CFG, 28, 28⟩
/-- `LNK_CFG.EXPECT_NODE` [27:14]. -/
abbrev F.LNK_CFG.EXPECT_NODE : Fld := ⟨.LNK_CFG, 27, 14⟩
/-- `LNK_STAT.STATE` [31:29]. -/
abbrev F.LNK_STAT.STATE : Fld := ⟨.LNK_STAT, 31, 29⟩
/-- `LNK_STAT.CAUSE` [28:26]. -/
abbrev F.LNK_STAT.CAUSE : Fld := ⟨.LNK_STAT, 28, 26⟩
/-- `LNK_STAT.LANE_LOCK` [25:17]. -/
abbrev F.LNK_STAT.LANE_LOCK : Fld := ⟨.LNK_STAT, 25, 17⟩
/-- `LNK_STAT.WIDTH` [16:13]. -/
abbrev F.LNK_STAT.WIDTH : Fld := ⟨.LNK_STAT, 16, 13⟩
/-- `LNK_STAT.ADOPTED` [12:7]. -/
abbrev F.LNK_STAT.ADOPTED : Fld := ⟨.LNK_STAT, 12, 7⟩
/-- `LNK_LANES.RX_FAILED` [31:23]. -/
abbrev F.LNK_LANES.RX_FAILED : Fld := ⟨.LNK_LANES, 31, 23⟩
/-- `LNK_LANES.TX_FAILED` [22:14]. -/
abbrev F.LNK_LANES.TX_FAILED : Fld := ⟨.LNK_LANES, 22, 14⟩
/-- `LNK_LANES.RX_SUBST` [13:10]. -/
abbrev F.LNK_LANES.RX_SUBST : Fld := ⟨.LNK_LANES, 13, 10⟩
/-- `LNK_LANES.TX_SUBST` [9:6]. -/
abbrev F.LNK_LANES.TX_SUBST : Fld := ⟨.LNK_LANES, 9, 6⟩
/-- `LNK_NEIGH.VALID` [31:31]. -/
abbrev F.LNK_NEIGH.VALID : Fld := ⟨.LNK_NEIGH, 31, 31⟩
/-- `LNK_NEIGH.PORT` [30:25]. -/
abbrev F.LNK_NEIGH.PORT : Fld := ⟨.LNK_NEIGH, 30, 25⟩
/-- `LNK_NEIGH.ROLE` [24:23]. -/
abbrev F.LNK_NEIGH.ROLE : Fld := ⟨.LNK_NEIGH, 24, 23⟩
/-- `LNK_NEIGH.NODE` [13:0]. -/
abbrev F.LNK_NEIGH.NODE : Fld := ⟨.LNK_NEIGH, 13, 0⟩
/-- `LNK_WRR0.W6` [31:24]. -/
abbrev F.LNK_WRR0.W6 : Fld := ⟨.LNK_WRR0, 31, 24⟩
/-- `LNK_WRR0.W5` [23:16]. -/
abbrev F.LNK_WRR0.W5 : Fld := ⟨.LNK_WRR0, 23, 16⟩
/-- `LNK_WRR0.W4` [15:8]. -/
abbrev F.LNK_WRR0.W4 : Fld := ⟨.LNK_WRR0, 15, 8⟩
/-- `LNK_WRR0.W3` [7:0]. -/
abbrev F.LNK_WRR0.W3 : Fld := ⟨.LNK_WRR0, 7, 0⟩
/-- `LNK_WRR1.W7` [7:0]. -/
abbrev F.LNK_WRR1.W7 : Fld := ⟨.LNK_WRR1, 7, 0⟩
/-- `LNK_HP.SVC_MARK` [31:31]. -/
abbrev F.LNK_HP.SVC_MARK : Fld := ⟨.LNK_HP, 31, 31⟩
/-- `LNK_HP.PRESENT` [30:30]. -/
abbrev F.LNK_HP.PRESENT : Fld := ⟨.LNK_HP, 30, 30⟩
/-- `LNK_HP.ATTN` [29:27]. -/
abbrev F.LNK_HP.ATTN : Fld := ⟨.LNK_HP, 29, 27⟩
/-- `LNK_HP.DRAIN_ABORT` [26:26]. -/
abbrev F.LNK_HP.DRAIN_ABORT : Fld := ⟨.LNK_HP, 26, 26⟩
/-- `LNK_HP.FAR_MARK` [25:25]. -/
abbrev F.LNK_HP.FAR_MARK : Fld := ⟨.LNK_HP, 25, 25⟩
/-- `LNK_LR_BASE.ADDR` [27:0]. -/
abbrev F.LNK_LR_BASE.ADDR : Fld := ⟨.LNK_LR_BASE, 27, 0⟩
/-- `LNK_LR_CFG.SIZE_MIB` [8:0]. -/
abbrev F.LNK_LR_CFG.SIZE_MIB : Fld := ⟨.LNK_LR_CFG, 8, 0⟩
/-- `LNK_LR_STAT.RTT_64NS` [31:16]. -/
abbrev F.LNK_LR_STAT.RTT_64NS : Fld := ⟨.LNK_LR_STAT, 31, 16⟩
/-- `LNK_LR_STAT.FILL_MIB` [8:0]. -/
abbrev F.LNK_LR_STAT.FILL_MIB : Fld := ⟨.LNK_LR_STAT, 8, 0⟩
/-- `LNK_FEC_CORR.COUNT` [31:0]. -/
abbrev F.LNK_FEC_CORR.COUNT : Fld := ⟨.LNK_FEC_CORR, 31, 0⟩
/-- `LNK_FEC_BAD.COUNT` [31:0]. -/
abbrev F.LNK_FEC_BAD.COUNT : Fld := ⟨.LNK_FEC_BAD, 31, 0⟩
/-- `LNK_RETRY.COUNT` [31:0]. -/
abbrev F.LNK_RETRY.COUNT : Fld := ⟨.LNK_RETRY, 31, 0⟩
/-- `LNK_TAGWAIT.COUNT` [31:0]. -/
abbrev F.LNK_TAGWAIT.COUNT : Fld := ⟨.LNK_TAGWAIT, 31, 0⟩
/-- `LNK_LANE_EVT.COUNT` [31:0]. -/
abbrev F.LNK_LANE_EVT.COUNT : Fld := ⟨.LNK_LANE_EVT, 31, 0⟩
/-- `FI_CTRL.ARM` [31:31]. -/
abbrev F.FI_CTRL.ARM : Fld := ⟨.FI_CTRL, 31, 31⟩
/-- `FI_CTRL.ACTION` [30:28]. -/
abbrev F.FI_CTRL.ACTION : Fld := ⟨.FI_CTRL, 30, 28⟩
/-- `FI_CTRL.VC_MASK` [27:20]. -/
abbrev F.FI_CTRL.VC_MASK : Fld := ⟨.FI_CTRL, 27, 20⟩
/-- `FI_CTRL.COUNT` [19:8]. -/
abbrev F.FI_CTRL.COUNT : Fld := ⟨.FI_CTRL, 19, 8⟩
/-- `FI_CTRL.PERIOD` [7:0]. -/
abbrev F.FI_CTRL.PERIOD : Fld := ⟨.FI_CTRL, 7, 0⟩
/-- `FI_PAT_LO.PAT` [31:0]. -/
abbrev F.FI_PAT_LO.PAT : Fld := ⟨.FI_PAT_LO, 31, 0⟩
/-- `FI_PAT_HI.PAT` [31:0]. -/
abbrev F.FI_PAT_HI.PAT : Fld := ⟨.FI_PAT_HI, 31, 0⟩
/-- `FI_OFF.DONE` [31:12]. -/
abbrev F.FI_OFF.DONE : Fld := ⟨.FI_OFF, 31, 12⟩
/-- `FI_OFF.OFFSET` [7:0]. -/
abbrev F.FI_OFF.OFFSET : Fld := ⟨.FI_OFF, 7, 0⟩
/-- `CEL_STAT.IN_SERVICE` [31:31]. -/
abbrev F.CEL_STAT.IN_SERVICE : Fld := ⟨.CEL_STAT, 31, 31⟩
/-- `CEL_STAT.SPARE_PC_USED` [30:30]. -/
abbrev F.CEL_STAT.SPARE_PC_USED : Fld := ⟨.CEL_STAT, 30, 30⟩
/-- `CEL_STAT.MIGRATING` [29:29]. -/
abbrev F.CEL_STAT.MIGRATING : Fld := ⟨.CEL_STAT, 29, 29⟩
/-- `CEL_STAT.SPARE_PC_FOR` [28:24]. -/
abbrev F.CEL_STAT.SPARE_PC_FOR : Fld := ⟨.CEL_STAT, 28, 24⟩
/-- `CEL_STAT.FRAMES_FREE` [9:0]. -/
abbrev F.CEL_STAT.FRAMES_FREE : Fld := ⟨.CEL_STAT, 9, 0⟩
/-- `CEL_CORR.COUNT` [31:0]. -/
abbrev F.CEL_CORR.COUNT : Fld := ⟨.CEL_CORR, 31, 0⟩
/-- `CEL_UNCORR.COUNT` [31:0]. -/
abbrev F.CEL_UNCORR.COUNT : Fld := ⟨.CEL_UNCORR, 31, 0⟩
/-- `CEL_SPARES.ROWS_RETIRED` [31:16]. -/
abbrev F.CEL_SPARES.ROWS_RETIRED : Fld := ⟨.CEL_SPARES, 31, 16⟩
/-- `CEL_SPARES.ROWS_LEFT_MIN` [15:0]. -/
abbrev F.CEL_SPARES.ROWS_LEFT_MIN : Fld := ⟨.CEL_SPARES, 15, 0⟩
/-- `CEL_ERRLINE.KIND` [31:30]. -/
abbrev F.CEL_ERRLINE.KIND : Fld := ⟨.CEL_ERRLINE, 31, 30⟩
/-- `CEL_ERRLINE.LINE` [29:0]. -/
abbrev F.CEL_ERRLINE.LINE : Fld := ⟨.CEL_ERRLINE, 29, 0⟩
/-- `CEL_SCRUB.HOURS` [7:0]. -/
abbrev F.CEL_SCRUB.HOURS : Fld := ⟨.CEL_SCRUB, 7, 0⟩
/-- `UPD_STAT.RUNNING` [31:31]. -/
abbrev F.UPD_STAT.RUNNING : Fld := ⟨.UPD_STAT, 31, 31⟩
/-- `UPD_STAT.REGISTERED` [30:22]. -/
abbrev F.UPD_STAT.REGISTERED : Fld := ⟨.UPD_STAT, 30, 22⟩
/-- `UPD_STAT.QUEUED` [21:13]. -/
abbrev F.UPD_STAT.QUEUED : Fld := ⟨.UPD_STAT, 21, 13⟩
/-- `UPD_STAT.CURRENT` [7:0]. -/
abbrev F.UPD_STAT.CURRENT : Fld := ⟨.UPD_STAT, 7, 0⟩
/-- `UPD_DONE.COUNT` [31:0]. -/
abbrev F.UPD_DONE.COUNT : Fld := ⟨.UPD_DONE, 31, 0⟩
/-- `UPD_FENCE.COUNT` [31:0]. -/
abbrev F.UPD_FENCE.COUNT : Fld := ⟨.UPD_FENCE, 31, 0⟩
/-- `UPD_BUSY.KCYCLES` [31:0]. -/
abbrev F.UPD_BUSY.KCYCLES : Fld := ⟨.UPD_BUSY, 31, 0⟩
/-- `COL_NODE.SET` [31:31]. -/
abbrev F.COL_NODE.SET : Fld := ⟨.COL_NODE, 31, 31⟩
/-- `COL_NODE.NODE_ID` [13:0]. -/
abbrev F.COL_NODE.NODE_ID : Fld := ⟨.COL_NODE, 13, 0⟩
/-- `COL_STAT.IN_FLIGHT` [31:23]. -/
abbrev F.COL_STAT.IN_FLIGHT : Fld := ⟨.COL_STAT, 31, 23⟩
/-- `COL_STAT.BANKS_FREE` [22:14]. -/
abbrev F.COL_STAT.BANKS_FREE : Fld := ⟨.COL_STAT, 22, 14⟩
/-- `COL_STAT.SPARE_BANKS` [13:10]. -/
abbrev F.COL_STAT.SPARE_BANKS : Fld := ⟨.COL_STAT, 13, 10⟩
/-- `COL_E2E.DEAD_MS` [31:24]. -/
abbrev F.COL_E2E.DEAD_MS : Fld := ⟨.COL_E2E, 31, 24⟩
/-- `COL_E2E.TO_US` [23:12]. -/
abbrev F.COL_E2E.TO_US : Fld := ⟨.COL_E2E, 23, 12⟩
/-- `COL_E2E.ACK_US` [11:6]. -/
abbrev F.COL_E2E.ACK_US : Fld := ⟨.COL_E2E, 11, 6⟩
/-- `COL_RETX.COUNT` [31:0]. -/
abbrev F.COL_RETX.COUNT : Fld := ⟨.COL_RETX, 31, 0⟩
/-- `COL_REORDER.COUNT` [31:0]. -/
abbrev F.COL_REORDER.COUNT : Fld := ⟨.COL_REORDER, 31, 0⟩
/-- `COL_DROP.COUNT` [31:0]. -/
abbrev F.COL_DROP.COUNT : Fld := ⟨.COL_DROP, 31, 0⟩
/-- `COL_ABORTS.COUNT` [31:0]. -/
abbrev F.COL_ABORTS.COUNT : Fld := ⟨.COL_ABORTS, 31, 0⟩
/-- `COL_WAIT.COUNT` [31:0]. -/
abbrev F.COL_WAIT.COUNT : Fld := ⟨.COL_WAIT, 31, 0⟩
/-- `RT_PWT.HALVED` [8:8]. -/
abbrev F.RT_PWT.HALVED : Fld := ⟨.RT_PWT, 8, 8⟩
/-- `RT_PWT.WEIGHT` [7:0]. -/
abbrev F.RT_PWT.WEIGHT : Fld := ⟨.RT_PWT, 7, 0⟩
/-- `COL_SLOW.COUNT` [31:0]. -/
abbrev F.COL_SLOW.COUNT : Fld := ⟨.COL_SLOW, 31, 0⟩
/-- `COL_SLOW_OUT.COUNT` [31:0]. -/
abbrev F.COL_SLOW_OUT.COUNT : Fld := ⟨.COL_SLOW_OUT, 31, 0⟩
/-- `RT_DIRECT.VALID` [31:31]. -/
abbrev F.RT_DIRECT.VALID : Fld := ⟨.RT_DIRECT, 31, 31⟩
/-- `RT_DIRECT.PORT` [30:25]. -/
abbrev F.RT_DIRECT.PORT : Fld := ⟨.RT_DIRECT, 30, 25⟩
/-- `RT_DIRECT.ALT_VALID` [24:24]. -/
abbrev F.RT_DIRECT.ALT_VALID : Fld := ⟨.RT_DIRECT, 24, 24⟩
/-- `RT_DIRECT.ALT` [23:19]. -/
abbrev F.RT_DIRECT.ALT : Fld := ⟨.RT_DIRECT, 23, 19⟩
/-- `RT_RAIL.VALID` [31:31]. -/
abbrev F.RT_RAIL.VALID : Fld := ⟨.RT_RAIL, 31, 31⟩
/-- `RT_RAIL.PORT_A` [30:25]. -/
abbrev F.RT_RAIL.PORT_A : Fld := ⟨.RT_RAIL, 30, 25⟩
/-- `RT_RAIL.B_VALID` [24:24]. -/
abbrev F.RT_RAIL.B_VALID : Fld := ⟨.RT_RAIL, 24, 24⟩
/-- `RT_RAIL.PORT_B` [23:18]. -/
abbrev F.RT_RAIL.PORT_B : Fld := ⟨.RT_RAIL, 23, 18⟩
/-- `MT_NOW_LO.COUNT` [31:0]. -/
abbrev F.MT_NOW_LO.COUNT : Fld := ⟨.MT_NOW_LO, 31, 0⟩
/-- `MT_NOW_HI.COUNT` [31:0]. -/
abbrev F.MT_NOW_HI.COUNT : Fld := ⟨.MT_NOW_HI, 31, 0⟩
/-- `MT_CTRL.PPS_DLY` [31:8]. -/
abbrev F.MT_CTRL.PPS_DLY : Fld := ⟨.MT_CTRL, 31, 8⟩
/-- `MT_CTRL.TEN_EN` [1:1]. -/
abbrev F.MT_CTRL.TEN_EN : Fld := ⟨.MT_CTRL, 1, 1⟩
/-- `MT_CTRL.PPS_EN` [0:0]. -/
abbrev F.MT_CTRL.PPS_EN : Fld := ⟨.MT_CTRL, 0, 0⟩
/-- `MT_STAT.DISAGREE` [31:16]. -/
abbrev F.MT_STAT.DISAGREE : Fld := ⟨.MT_STAT, 31, 16⟩
/-- `MT_STAT.PPS_MISS` [15:15]. -/
abbrev F.MT_STAT.PPS_MISS : Fld := ⟨.MT_STAT, 15, 15⟩
/-- `MT_STAT.OFF_SCHED` [14:14]. -/
abbrev F.MT_STAT.OFF_SCHED : Fld := ⟨.MT_STAT, 14, 14⟩
/-- `MT_STAT.SRC_PORT` [13:8]. -/
abbrev F.MT_STAT.SRC_PORT : Fld := ⟨.MT_STAT, 13, 8⟩
/-- `MT_STAT.SRC` [7:6]. -/
abbrev F.MT_STAT.SRC : Fld := ⟨.MT_STAT, 7, 6⟩
/-- `MT_STAT.PPS_BAD` [5:3]. -/
abbrev F.MT_STAT.PPS_BAD : Fld := ⟨.MT_STAT, 5, 3⟩
/-- `MT_STAT.STATE` [2:0]. -/
abbrev F.MT_STAT.STATE : Fld := ⟨.MT_STAT, 2, 0⟩
/-- `MT_ERR.MT` [31:0]. -/
abbrev F.MT_ERR.MT : Fld := ⟨.MT_ERR, 31, 0⟩
/-- `MT_FRAME.PERIOD` [15:0]. -/
abbrev F.MT_FRAME.PERIOD : Fld := ⟨.MT_FRAME, 15, 0⟩
/-- `MT_ASYM.DISC_EN` [31:31]. -/
abbrev F.MT_ASYM.DISC_EN : Fld := ⟨.MT_ASYM, 31, 31⟩
/-- `MT_ASYM.RESID` [30:24]. -/
abbrev F.MT_ASYM.RESID : Fld := ⟨.MT_ASYM, 30, 24⟩
/-- `MT_ASYM.ASYM` [23:0]. -/
abbrev F.MT_ASYM.ASYM : Fld := ⟨.MT_ASYM, 23, 0⟩
/-- `SLOT_EDGE.NEIGH` [31:18]. -/
abbrev F.SLOT_EDGE.NEIGH : Fld := ⟨.SLOT_EDGE, 31, 18⟩
/-- `SLOT_EDGE.COUNT` [17:0]. -/
abbrev F.SLOT_EDGE.COUNT : Fld := ⟨.SLOT_EDGE, 17, 0⟩
/-- `SLOT_ENT_A.LEN` [31:16]. -/
abbrev F.SLOT_ENT_A.LEN : Fld := ⟨.SLOT_ENT_A, 31, 16⟩
/-- `SLOT_ENT_A.START` [15:0]. -/
abbrev F.SLOT_ENT_A.START : Fld := ⟨.SLOT_ENT_A, 15, 0⟩
/-- `SLOT_ENT_B.VALID` [31:31]. -/
abbrev F.SLOT_ENT_B.VALID : Fld := ⟨.SLOT_ENT_B, 31, 31⟩
/-- `SLOT_ENT_B.GUARD` [30:24]. -/
abbrev F.SLOT_ENT_B.GUARD : Fld := ⟨.SLOT_ENT_B, 30, 24⟩
/-- `SLOT_ENT_B.NEIGH` [13:0]. -/
abbrev F.SLOT_ENT_B.NEIGH : Fld := ⟨.SLOT_ENT_B, 13, 0⟩
/-- `LOG_CFG.EN` [31:31]. -/
abbrev F.LOG_CFG.EN : Fld := ⟨.LOG_CFG, 31, 31⟩
/-- `LOG_CFG.BASE` [13:0]. -/
abbrev F.LOG_CFG.BASE : Fld := ⟨.LOG_CFG, 13, 0⟩
/-- `LOG_STAT.FULL` [31:31]. -/
abbrev F.LOG_STAT.FULL : Fld := ⟨.LOG_STAT, 31, 31⟩
/-- `LOG_STAT.PENDING` [14:0]. -/
abbrev F.LOG_STAT.PENDING : Fld := ⟨.LOG_STAT, 14, 0⟩
/-- `LOG_HEAD.INDEX` [19:0]. -/
abbrev F.LOG_HEAD.INDEX : Fld := ⟨.LOG_HEAD, 19, 0⟩
/-- `LOG_TAIL.INDEX` [19:0]. -/
abbrev F.LOG_TAIL.INDEX : Fld := ⟨.LOG_TAIL, 19, 0⟩
/-- `LOG_SEQ.COUNT` [31:0]. -/
abbrev F.LOG_SEQ.COUNT : Fld := ⟨.LOG_SEQ, 31, 0⟩
/-- `LOG_REFUSED.COUNT` [31:0]. -/
abbrev F.LOG_REFUSED.COUNT : Fld := ⟨.LOG_REFUSED, 31, 0⟩
/-- `LOG_LOST.COUNT` [31:0]. -/
abbrev F.LOG_LOST.COUNT : Fld := ⟨.LOG_LOST, 31, 0⟩
/-- `RPR_CYC.ALIGNED` [31:31]. -/
abbrev F.RPR_CYC.ALIGNED : Fld := ⟨.RPR_CYC, 31, 31⟩
/-- `RPR_CYC.LAST_BREAK` [30:28]. -/
abbrev F.RPR_CYC.LAST_BREAK : Fld := ⟨.RPR_CYC, 30, 28⟩
/-- `RPR_CYC.BREAKS` [27:0]. -/
abbrev F.RPR_CYC.BREAKS : Fld := ⟨.RPR_CYC, 27, 0⟩
/-- `RPR_CFG.MODE` [8:8]. -/
abbrev F.RPR_CFG.MODE : Fld := ⟨.RPR_CFG, 8, 8⟩
/-- `RPR_CFG.SLOTS_LOG2` [7:4]. -/
abbrev F.RPR_CFG.SLOTS_LOG2 : Fld := ⟨.RPR_CFG, 7, 4⟩
/-- `RPR_CFG.TLY_LEVEL` [2:1]. -/
abbrev F.RPR_CFG.TLY_LEVEL : Fld := ⟨.RPR_CFG, 2, 1⟩
/-- `RPR_CFG.TLY_EN` [0:0]. -/
abbrev F.RPR_CFG.TLY_EN : Fld := ⟨.RPR_CFG, 0, 0⟩
/-- `RPR_TLY_BASE.ADDR` [27:0]. -/
abbrev F.RPR_TLY_BASE.ADDR : Fld := ⟨.RPR_TLY_BASE, 27, 0⟩
/-- `RPR_TLY_RING.TAIL` [31:16]. -/
abbrev F.RPR_TLY_RING.TAIL : Fld := ⟨.RPR_TLY_RING, 31, 16⟩
/-- `RPR_TLY_RING.HEAD` [15:0]. -/
abbrev F.RPR_TLY_RING.HEAD : Fld := ⟨.RPR_TLY_RING, 15, 0⟩
/-- `RPR_STAT.RING_WAIT` [4:4]. -/
abbrev F.RPR_STAT.RING_WAIT : Fld := ⟨.RPR_STAT, 4, 4⟩
/-- `RPR_STAT.POISONED` [3:3]. -/
abbrev F.RPR_STAT.POISONED : Fld := ⟨.RPR_STAT, 3, 3⟩
/-- `RPR_STAT.SOLVER_REUSE` [2:2]. -/
abbrev F.RPR_STAT.SOLVER_REUSE : Fld := ⟨.RPR_STAT, 2, 2⟩
/-- `RPR_STAT.OBS` [1:1]. -/
abbrev F.RPR_STAT.OBS : Fld := ⟨.RPR_STAT, 1, 1⟩
/-- `RPR_STAT.ADDR_FAULT` [0:0]. -/
abbrev F.RPR_STAT.ADDR_FAULT : Fld := ⟨.RPR_STAT, 0, 0⟩
/-- `RPR_OBS_COUNT.COUNT` [31:0]. -/
abbrev F.RPR_OBS_COUNT.COUNT : Fld := ⟨.RPR_OBS_COUNT, 31, 0⟩
/-- `CKP_CFG.STEP_EN` [31:31]. -/
abbrev F.CKP_CFG.STEP_EN : Fld := ⟨.CKP_CFG, 31, 31⟩
/-- `CKP_CFG.TIME_EN` [30:30]. -/
abbrev F.CKP_CFG.TIME_EN : Fld := ⟨.CKP_CFG, 30, 30⟩
/-- `CKP_CFG.FS_FALLBACK` [29:29]. -/
abbrev F.CKP_CFG.FS_FALLBACK : Fld := ⟨.CKP_CFG, 29, 29⟩
/-- `CKP_CFG.CLASS` [28:26]. -/
abbrev F.CKP_CFG.CLASS : Fld := ⟨.CKP_CFG, 28, 26⟩
/-- `CKP_CFG.EVERY_N` [25:0]. -/
abbrev F.CKP_CFG.EVERY_N : Fld := ⟨.CKP_CFG, 25, 0⟩
/-- `CKP_PERIOD_LO.VALUE` [31:0]. -/
abbrev F.CKP_PERIOD_LO.VALUE : Fld := ⟨.CKP_PERIOD_LO, 31, 0⟩
/-- `CKP_PERIOD_HI.VALUE` [31:0]. -/
abbrev F.CKP_PERIOD_HI.VALUE : Fld := ⟨.CKP_PERIOD_HI, 31, 0⟩
/-- `CKP_PORTS_LO.PORTS` [31:0]. -/
abbrev F.CKP_PORTS_LO.PORTS : Fld := ⟨.CKP_PORTS_LO, 31, 0⟩
/-- `CKP_PORTS_HI.PORTS` [3:0]. -/
abbrev F.CKP_PORTS_HI.PORTS : Fld := ⟨.CKP_PORTS_HI, 3, 0⟩
/-- `CKP_BUDDY.VALID` [31:31]. -/
abbrev F.CKP_BUDDY.VALID : Fld := ⟨.CKP_BUDDY, 31, 31⟩
/-- `CKP_BUDDY.NODE` [13:0]. -/
abbrev F.CKP_BUDDY.NODE : Fld := ⟨.CKP_BUDDY, 13, 0⟩
/-- `CKP_STAT.STATE` [31:30]. -/
abbrev F.CKP_STAT.STATE : Fld := ⟨.CKP_STAT, 31, 30⟩
/-- `CKP_STAT.LAST_OK` [29:29]. -/
abbrev F.CKP_STAT.LAST_OK : Fld := ⟨.CKP_STAT, 29, 29⟩
/-- `CKP_STAT.ABANDONED` [28:28]. -/
abbrev F.CKP_STAT.ABANDONED : Fld := ⟨.CKP_STAT, 28, 28⟩
/-- `CKP_STAT.FELL_BACK` [27:27]. -/
abbrev F.CKP_STAT.FELL_BACK : Fld := ⟨.CKP_STAT, 27, 27⟩
/-- `CKP_STAT.DEFERS` [15:0]. -/
abbrev F.CKP_STAT.DEFERS : Fld := ⟨.CKP_STAT, 15, 0⟩
/-- `CKP_STEP_LO.VALUE` [31:0]. -/
abbrev F.CKP_STEP_LO.VALUE : Fld := ⟨.CKP_STEP_LO, 31, 0⟩
/-- `CKP_STEP_HI.VALUE` [31:0]. -/
abbrev F.CKP_STEP_HI.VALUE : Fld := ⟨.CKP_STEP_HI, 31, 0⟩
/-- `CKP_SENT.MIB` [31:0]. -/
abbrev F.CKP_SENT.MIB : Fld := ⟨.CKP_SENT, 31, 0⟩
/-- `STR_CFG.LOCK` [31:31]. -/
abbrev F.STR_CFG.LOCK : Fld := ⟨.STR_CFG, 31, 31⟩
/-- `STR_BUDDY_BASE.ADDR` [27:0]. -/
abbrev F.STR_BUDDY_BASE.ADDR : Fld := ⟨.STR_BUDDY_BASE, 27, 0⟩
/-- `STR_BUDDY_CFG.SLOTS` [31:30]. -/
abbrev F.STR_BUDDY_CFG.SLOTS : Fld := ⟨.STR_BUDDY_CFG, 31, 30⟩
/-- `STR_BUDDY_CFG.SRC_NODE` [29:16]. -/
abbrev F.STR_BUDDY_CFG.SRC_NODE : Fld := ⟨.STR_BUDDY_CFG, 29, 16⟩
/-- `STR_BUDDY_CFG.SLOT_GIB` [9:0]. -/
abbrev F.STR_BUDDY_CFG.SLOT_GIB : Fld := ⟨.STR_BUDDY_CFG, 9, 0⟩
/-- `STR_BUDDY_STAT.SLOT0_VALID` [31:31]. -/
abbrev F.STR_BUDDY_STAT.SLOT0_VALID : Fld := ⟨.STR_BUDDY_STAT, 31, 31⟩
/-- `STR_BUDDY_STAT.SLOT1_VALID` [30:30]. -/
abbrev F.STR_BUDDY_STAT.SLOT1_VALID : Fld := ⟨.STR_BUDDY_STAT, 30, 30⟩
/-- `STR_BUDDY_STAT.RECEIVING` [29:29]. -/
abbrev F.STR_BUDDY_STAT.RECEIVING : Fld := ⟨.STR_BUDDY_STAT, 29, 29⟩
/-- `STR_BUDDY_STAT.RX_SLOT` [28:28]. -/
abbrev F.STR_BUDDY_STAT.RX_SLOT : Fld := ⟨.STR_BUDDY_STAT, 28, 28⟩
/-- `STR_COW_WAIT.COUNT` [31:0]. -/
abbrev F.STR_COW_WAIT.COUNT : Fld := ⟨.STR_COW_WAIT, 31, 0⟩
/-- `STR_COW.FREE_PAGES` [19:0]. -/
abbrev F.STR_COW.FREE_PAGES : Fld := ⟨.STR_COW, 19, 0⟩
/-- `FLT_CFG.AUD_LOG2` [31:27]. -/
abbrev F.FLT_CFG.AUD_LOG2 : Fld := ⟨.FLT_CFG, 31, 27⟩
/-- `FLT_CFG.MRG_DAYS` [26:19]. -/
abbrev F.FLT_CFG.MRG_DAYS : Fld := ⟨.FLT_CFG, 26, 19⟩
/-- `FLT_CFG.SLOW_PER1K` [18:9]. -/
abbrev F.FLT_CFG.SLOW_PER1K : Fld := ⟨.FLT_CFG, 18, 9⟩
/-- `AUD_SALT.SALT` [31:0]. -/
abbrev F.AUD_SALT.SALT : Fld := ⟨.AUD_SALT, 31, 0⟩
/-- `EVT_RING.TAIL` [28:16]. -/
abbrev F.EVT_RING.TAIL : Fld := ⟨.EVT_RING, 28, 16⟩
/-- `EVT_RING.HEAD` [12:0]. -/
abbrev F.EVT_RING.HEAD : Fld := ⟨.EVT_RING, 12, 0⟩
/-- `EVT_LOST.COUNT` [31:0]. -/
abbrev F.EVT_LOST.COUNT : Fld := ⟨.EVT_LOST, 31, 0⟩
/-- `FLT_REPLAYS.COUNT` [31:0]. -/
abbrev F.FLT_REPLAYS.COUNT : Fld := ⟨.FLT_REPLAYS, 31, 0⟩
/-- `FLT_TERMS.COUNT` [31:0]. -/
abbrev F.FLT_TERMS.COUNT : Fld := ⟨.FLT_TERMS, 31, 0⟩
/-- `AUD_RUNS.COUNT` [31:0]. -/
abbrev F.AUD_RUNS.COUNT : Fld := ⟨.AUD_RUNS, 31, 0⟩
/-- `AUD_MISMATCH.COUNT` [31:0]. -/
abbrev F.AUD_MISMATCH.COUNT : Fld := ⟨.AUD_MISMATCH, 31, 0⟩
/-- `AUD_SKIPS.COUNT` [31:0]. -/
abbrev F.AUD_SKIPS.COUNT : Fld := ⟨.AUD_SKIPS, 31, 0⟩
/-- `MRG_RUNS.COUNT` [31:0]. -/
abbrev F.MRG_RUNS.COUNT : Fld := ⟨.MRG_RUNS, 31, 0⟩
/-- `MRG_FAILS.COUNT` [31:0]. -/
abbrev F.MRG_FAILS.COUNT : Fld := ⟨.MRG_FAILS, 31, 0⟩
/-- `DUM_CORE.DISABLED` [31:0]. -/
abbrev F.DUM_CORE.DISABLED : Fld := ⟨.DUM_CORE, 31, 0⟩
/-- `DUM_STACK.PC_SPARED` [31:31]. -/
abbrev F.DUM_STACK.PC_SPARED : Fld := ⟨.DUM_STACK, 31, 31⟩
/-- `DUM_STACK.ENG_DISABLED` [30:24]. -/
abbrev F.DUM_STACK.ENG_DISABLED : Fld := ⟨.DUM_STACK, 30, 24⟩
/-- `DUM_DEV.BANKS_DISABLED` [31:23]. -/
abbrev F.DUM_DEV.BANKS_DISABLED : Fld := ⟨.DUM_DEV, 31, 23⟩
/-- `DUM_DEV.STANDBY_BAD` [22:22]. -/
abbrev F.DUM_DEV.STANDBY_BAD : Fld := ⟨.DUM_DEV, 22, 22⟩
/-- `DUM_DEV.ATTIC_SINGLE` [21:21]. -/
abbrev F.DUM_DEV.ATTIC_SINGLE : Fld := ⟨.DUM_DEV, 21, 21⟩
/-- `WEAR_STAT.FULL` [13:13]. -/
abbrev F.WEAR_STAT.FULL : Fld := ⟨.WEAR_STAT, 13, 13⟩
/-- `WEAR_STAT.ENTRIES` [12:0]. -/
abbrev F.WEAR_STAT.ENTRIES : Fld := ⟨.WEAR_STAT, 12, 0⟩
/-- `SPR_DIE.SPARES_GOOD` [31:24]. -/
abbrev F.SPR_DIE.SPARES_GOOD : Fld := ⟨.SPR_DIE, 31, 24⟩
/-- `SPR_DIE.RETIRED` [23:16]. -/
abbrev F.SPR_DIE.RETIRED : Fld := ⟨.SPR_DIE, 23, 16⟩
/-- `SPR_DIE.SUSPECT` [15:8]. -/
abbrev F.SPR_DIE.SUSPECT : Fld := ⟨.SPR_DIE, 15, 8⟩
/-- `CLK_SRC_STAT.READY_A` [31:31]. -/
abbrev F.CLK_SRC_STAT.READY_A : Fld := ⟨.CLK_SRC_STAT, 31, 31⟩
/-- `CLK_SRC_STAT.READY_B` [30:30]. -/
abbrev F.CLK_SRC_STAT.READY_B : Fld := ⟨.CLK_SRC_STAT, 30, 30⟩
/-- `CLK_SRC_STAT.READY_S` [29:29]. -/
abbrev F.CLK_SRC_STAT.READY_S : Fld := ⟨.CLK_SRC_STAT, 29, 29⟩
/-- `CLK_SRC_STAT.TRIP_A` [28:28]. -/
abbrev F.CLK_SRC_STAT.TRIP_A : Fld := ⟨.CLK_SRC_STAT, 28, 28⟩
/-- `CLK_SRC_STAT.TRIP_B` [27:27]. -/
abbrev F.CLK_SRC_STAT.TRIP_B : Fld := ⟨.CLK_SRC_STAT, 27, 27⟩
/-- `CLK_SRC_STAT.TRIP_S` [26:26]. -/
abbrev F.CLK_SRC_STAT.TRIP_S : Fld := ⟨.CLK_SRC_STAT, 26, 26⟩
/-- `CLK_SRC_STAT.MON_VOID` [25:25]. -/
abbrev F.CLK_SRC_STAT.MON_VOID : Fld := ⟨.CLK_SRC_STAT, 25, 25⟩
/-- `CLK_SRC_STAT.REFUSED` [24:24]. -/
abbrev F.CLK_SRC_STAT.REFUSED : Fld := ⟨.CLK_SRC_STAT, 24, 24⟩
/-- `CLK_SRC_STAT.HOLD_ANY` [23:23]. -/
abbrev F.CLK_SRC_STAT.HOLD_ANY : Fld := ⟨.CLK_SRC_STAT, 23, 23⟩
/-- `CLK_JUDGE.TOL_PPM` [15:0]. -/
abbrev F.CLK_JUDGE.TOL_PPM : Fld := ⟨.CLK_JUDGE, 15, 0⟩
/-- `CLK_SOSC.TRIMMED` [31:31]. -/
abbrev F.CLK_SOSC.TRIMMED : Fld := ⟨.CLK_SOSC, 31, 31⟩
/-- `CLK_SOSC.TRIM_REF` [30:29]. -/
abbrev F.CLK_SOSC.TRIM_REF : Fld := ⟨.CLK_SOSC, 30, 29⟩
/-- `CLK_SOSC.OFFSET_PPM` [15:0]. -/
abbrev F.CLK_SOSC.OFFSET_PPM : Fld := ⟨.CLK_SOSC, 15, 0⟩
/-- `PWR_STAT.STATE` [31:30]. -/
abbrev F.PWR_STAT.STATE : Fld := ⟨.PWR_STAT, 31, 30⟩
/-- `PWR_STAT.DIE_IDLE` [29:22]. -/
abbrev F.PWR_STAT.DIE_IDLE : Fld := ⟨.PWR_STAT, 29, 22⟩
/-- `PWR_STAT.POWER_W` [21:10]. -/
abbrev F.PWR_STAT.POWER_W : Fld := ⟨.PWR_STAT, 21, 10⟩
/-- `BOOT_STAT.PHASE` [31:28]. -/
abbrev F.BOOT_STAT.PHASE : Fld := ⟨.BOOT_STAT, 31, 28⟩
/-- `BOOT_STAT.FAIL` [27:27]. -/
abbrev F.BOOT_STAT.FAIL : Fld := ⟨.BOOT_STAT, 27, 27⟩
/-- `BOOT_STAT.IMAGE` [26:26]. -/
abbrev F.BOOT_STAT.IMAGE : Fld := ⟨.BOOT_STAT, 26, 26⟩
/-- `ATTIC_STAT.COPY` [31:31]. -/
abbrev F.ATTIC_STAT.COPY : Fld := ⟨.ATTIC_STAT, 31, 31⟩
/-- `ATTIC_STAT.SINGLE` [30:30]. -/
abbrev F.ATTIC_STAT.SINGLE : Fld := ⟨.ATTIC_STAT, 30, 30⟩
/-- `ATTIC_STAT.ALERT` [29:29]. -/
abbrev F.ATTIC_STAT.ALERT : Fld := ⟨.ATTIC_STAT, 29, 29⟩
/-- `ATTIC_STAT.CAUSE` [28:24]. -/
abbrev F.ATTIC_STAT.CAUSE : Fld := ⟨.ATTIC_STAT, 28, 24⟩
/-- `ATTIC_WAKE.PRSNT` [31:31]. -/
abbrev F.ATTIC_WAKE.PRSNT : Fld := ⟨.ATTIC_WAKE, 31, 31⟩
/-- `ATTIC_WAKE.SVC` [30:30]. -/
abbrev F.ATTIC_WAKE.SVC : Fld := ⟨.ATTIC_WAKE, 30, 30⟩
/-- `ATTIC_WAKE.THERM` [29:29]. -/
abbrev F.ATTIC_WAKE.THERM : Fld := ⟨.ATTIC_WAKE, 29, 29⟩
/-- `SB_STAT.ALERT_STUCK` [31:31]. -/
abbrev F.SB_STAT.ALERT_STUCK : Fld := ⟨.SB_STAT, 31, 31⟩
/-- `SB_STAT.ALERT_IGNORED` [30:30]. -/
abbrev F.SB_STAT.ALERT_IGNORED : Fld := ⟨.SB_STAT, 30, 30⟩
/-- `SB_STAT.SMB_OFF` [29:29]. -/
abbrev F.SB_STAT.SMB_OFF : Fld := ⟨.SB_STAT, 29, 29⟩
/-- `SB_STAT.SMB_TRIES` [28:27]. -/
abbrev F.SB_STAT.SMB_TRIES : Fld := ⟨.SB_STAT, 28, 27⟩
/-- `SB_STAT.SVC_STUCK` [26:26]. -/
abbrev F.SB_STAT.SVC_STUCK : Fld := ⟨.SB_STAT, 26, 26⟩
/-- `SB_STAT.PRSNT_FLAP` [25:25]. -/
abbrev F.SB_STAT.PRSNT_FLAP : Fld := ⟨.SB_STAT, 25, 25⟩
/-- `SB_STAT.FLAP_PORT` [24:19]. -/
abbrev F.SB_STAT.FLAP_PORT : Fld := ⟨.SB_STAT, 24, 19⟩
/-- `SB_STAT.SMB_ADDR` [17:16]. -/
abbrev F.SB_STAT.SMB_ADDR : Fld := ⟨.SB_STAT, 17, 16⟩
/-- `SB_STAT.FOREIGN` [15:0]. -/
abbrev F.SB_STAT.FOREIGN : Fld := ⟨.SB_STAT, 15, 0⟩
/-- `SB_CTRL.SMB_RETRY` [31:31]. -/
abbrev F.SB_CTRL.SMB_RETRY : Fld := ⟨.SB_CTRL, 31, 31⟩
/-- `SB_CTRL.ALERT_MCTP` [30:30]. -/
abbrev F.SB_CTRL.ALERT_MCTP : Fld := ⟨.SB_CTRL, 30, 30⟩
/-- `CLK_DOM.SEL` [31:30]. -/
abbrev F.CLK_DOM.SEL : Fld := ⟨.CLK_DOM, 31, 30⟩
/-- `CLK_DOM.FB` [29:28]. -/
abbrev F.CLK_DOM.FB : Fld := ⟨.CLK_DOM, 29, 28⟩
/-- `CLK_DOM.RATIO` [8:0]. -/
abbrev F.CLK_DOM.RATIO : Fld := ⟨.CLK_DOM, 8, 0⟩
/-- `CLK_DSTAT.CUR` [31:30]. -/
abbrev F.CLK_DSTAT.CUR : Fld := ⟨.CLK_DSTAT, 31, 30⟩
/-- `CLK_DSTAT.HOLD` [29:29]. -/
abbrev F.CLK_DSTAT.HOLD : Fld := ⟨.CLK_DSTAT, 29, 29⟩
/-- `CLK_DSTAT.LOCK` [28:28]. -/
abbrev F.CLK_DSTAT.LOCK : Fld := ⟨.CLK_DSTAT, 28, 28⟩
/-- `CLK_DSTAT.FELL_BACK` [27:27]. -/
abbrev F.CLK_DSTAT.FELL_BACK : Fld := ⟨.CLK_DSTAT, 27, 27⟩
/-- `CLK_DSTAT.CUR_RATIO` [26:18]. -/
abbrev F.CLK_DSTAT.CUR_RATIO : Fld := ⟨.CLK_DSTAT, 26, 18⟩
/-- `DIE_SENS.TJ` [31:20]. -/
abbrev F.DIE_SENS.TJ : Fld := ⟨.DIE_SENS, 31, 20⟩
/-- `DIE_SENS.VCORE` [19:8]. -/
abbrev F.DIE_SENS.VCORE : Fld := ⟨.DIE_SENS, 19, 8⟩
/-- `DIE_PWR.STATE` [31:29]. -/
abbrev F.DIE_PWR.STATE : Fld := ⟨.DIE_PWR, 31, 29⟩
/-- `DIE_PWR.THROTTLE` [28:28]. -/
abbrev F.DIE_PWR.THROTTLE : Fld := ⟨.DIE_PWR, 28, 28⟩
/-- `DIE_PWR.T_CAUSE` [27:25]. -/
abbrev F.DIE_PWR.T_CAUSE : Fld := ⟨.DIE_PWR, 27, 25⟩
/-- `DIE_PWR.RATIO_CAP` [24:16]. -/
abbrev F.DIE_PWR.RATIO_CAP : Fld := ⟨.DIE_PWR, 24, 16⟩
/-- `MB_IN.WORD` [31:0]. -/
abbrev F.MB_IN.WORD : Fld := ⟨.MB_IN, 31, 0⟩
/-- `MB_CTRL.GO` [31:31]. -/
abbrev F.MB_CTRL.GO : Fld := ⟨.MB_CTRL, 31, 31⟩
/-- `MB_CTRL.LEN` [4:0]. -/
abbrev F.MB_CTRL.LEN : Fld := ⟨.MB_CTRL, 4, 0⟩
/-- `MB_STAT.FULL` [31:31]. -/
abbrev F.MB_STAT.FULL : Fld := ⟨.MB_STAT, 31, 31⟩
/-- `MB_STAT.OVERRUN` [30:30]. -/
abbrev F.MB_STAT.OVERRUN : Fld := ⟨.MB_STAT, 30, 30⟩
/-- `MB_STAT.LEN_ERR` [29:29]. -/
abbrev F.MB_STAT.LEN_ERR : Fld := ⟨.MB_STAT, 29, 29⟩
/-- `MB_OUT.WORD` [31:0]. -/
abbrev F.MB_OUT.WORD : Fld := ⟨.MB_OUT, 31, 0⟩
/-- `MB_OSTAT.FULL` [31:31]. -/
abbrev F.MB_OSTAT.FULL : Fld := ⟨.MB_OSTAT, 31, 31⟩
/-- `MB_OSTAT.ACK` [30:30]. -/
abbrev F.MB_OSTAT.ACK : Fld := ⟨.MB_OSTAT, 30, 30⟩
/-- `MB_OSTAT.LEN` [4:0]. -/
abbrev F.MB_OSTAT.LEN : Fld := ⟨.MB_OSTAT, 4, 0⟩
/-- `FN_STAT.LOCK_VIOLATION` [31:31]. -/
abbrev F.FN_STAT.LOCK_VIOLATION : Fld := ⟨.FN_STAT, 31, 31⟩
/-- `FN_STAT.DB_ERR` [30:30]. -/
abbrev F.FN_STAT.DB_ERR : Fld := ⟨.FN_STAT, 30, 30⟩
/-- `FN_STAT.FLR_BUSY` [29:29]. -/
abbrev F.FN_STAT.FLR_BUSY : Fld := ⟨.FN_STAT, 29, 29⟩
/-- `FN_STAT.LOG_REFUSED` [28:28]. -/
abbrev F.FN_STAT.LOG_REFUSED : Fld := ⟨.FN_STAT, 28, 28⟩
/-- `RING_SQ_LO.ADDR` [31:0]. -/
abbrev F.RING_SQ_LO.ADDR : Fld := ⟨.RING_SQ_LO, 31, 0⟩
/-- `RING_SQ_HI.ADDR` [31:0]. -/
abbrev F.RING_SQ_HI.ADDR : Fld := ⟨.RING_SQ_HI, 31, 0⟩
/-- `RING_CQ_LO.ADDR` [31:0]. -/
abbrev F.RING_CQ_LO.ADDR : Fld := ⟨.RING_CQ_LO, 31, 0⟩
/-- `RING_CQ_HI.ADDR` [31:0]. -/
abbrev F.RING_CQ_HI.ADDR : Fld := ⟨.RING_CQ_HI, 31, 0⟩
/-- `RING_CFG.EN` [31:31]. -/
abbrev F.RING_CFG.EN : Fld := ⟨.RING_CFG, 31, 31⟩
/-- `RING_CFG.KIND` [30:30]. -/
abbrev F.RING_CFG.KIND : Fld := ⟨.RING_CFG, 30, 30⟩
/-- `RING_CFG.SIZE_LOG2` [23:20]. -/
abbrev F.RING_CFG.SIZE_LOG2 : Fld := ⟨.RING_CFG, 23, 20⟩
/-- `RING_CFG.CTX` [15:0]. -/
abbrev F.RING_CFG.CTX : Fld := ⟨.RING_CFG, 15, 0⟩
/-- `RING_SQ_DB.INDEX` [11:0]. -/
abbrev F.RING_SQ_DB.INDEX : Fld := ⟨.RING_SQ_DB, 11, 0⟩
/-- `RING_CQ_DB.INDEX` [11:0]. -/
abbrev F.RING_CQ_DB.INDEX : Fld := ⟨.RING_CQ_DB, 11, 0⟩
/-- `RING_STAT.PHASE` [31:31]. -/
abbrev F.RING_STAT.PHASE : Fld := ⟨.RING_STAT, 31, 31⟩
/-- `RING_STAT.STALLED` [30:30]. -/
abbrev F.RING_STAT.STALLED : Fld := ⟨.RING_STAT, 30, 30⟩
/-- `RING_STAT.SQ_HEAD` [27:16]. -/
abbrev F.RING_STAT.SQ_HEAD : Fld := ⟨.RING_STAT, 27, 16⟩
/-- `RING_STAT.CQ_TAIL` [11:0]. -/
abbrev F.RING_STAT.CQ_TAIL : Fld := ⟨.RING_STAT, 11, 0⟩

end Sys2Proof.Machine
end

