-- ==== Sys2Proof/Machine/State.lean ====
section
/-! DEFINITION. The state of the S8 as plain data: the register space (whose registers are the home of every value they
show), memory, the 2,176 physical cores, tenant contexts, stacks, solvers, ports, flows, collectives, checkpoints,
management, clocks and pins, and the queue of waiting commands. -/

namespace Sys2Proof.Machine

/-! ## Tasks (R155 to R162) -/

/-- A task descriptor (R155). -/
structure TaskDesc where
  entry : Nat
  threads : Nat
  lbase : BitVec 40
  steal : Nat
  gate : Nat
  gateN : Nat
  signal : Nat
  target : Nat
  taskId : Word
  params : List Word
  deriving DecidableEq, Repr

/-- A task: its descriptor, context slot, step, home logical core (R321), the physical cores whose parity failures it
has met (R153, R380), the number of its save image if it was saved (R397), whether the descriptor was read with poison
(R369) and whether a post placed it (R374). -/
structure Task where
  desc : TaskDesc
  slot : Nat
  step : DWord
  home : Nat
  tried : List Nat
  saved : Option Nat
  poison : Bool
  posted : Bool
  deriving DecidableEq, Repr

/-- Tally contributions and reports for one tensor tag (R34 to R37, R42, R116). -/
structure TensorAcc where
  sum : DWord
  count : Nat
  firstNf : Option Nat
  poisoned : Bool
  raises : Nat
  blocks : SMap DWord
  tiles : List (Nat × Nat × Nat)
  deriving DecidableEq, Repr

/-- One pending mode-2 anchor-table check (R174): table address of the block's entry, and the anchor source used. -/
structure GridCheck where
  addr : Nat
  auto : Bool
  anchor : Int
  deriving DecidableEq, Repr

/-- One AUTO pre-pass (R101): its descriptor bytes, matrix descriptor bytes, crate tile, arrival slot, its local
code once its reads are done, and whether an update fence has held it (R207). -/
structure Prepass where
  desc : List Byte
  md : List Byte
  tile : Nat
  slot : Nat
  code : Option Nat
  fenced : Bool
  deriving DecidableEq, Repr

/-- A task that a core runs: beside the counts and the tallies of R36 and R107, the crate tiles bound or added to since the
repeat point (R83), the tensor tags it has written (R45), the collectives (context, sequence) and messages it has issued
(R476), the audit core that mirrors it or, on the audit core, the original core and its task tally once that has ended
(R382). -/
structure Run where
  task : Task
  startCyc : Nat
  frozen : Nat
  stolen : Bool
  unsafeRegion : Bool
  repeatPc : Nat
  repeatX : SMap DWord
  repeatLoops : List (Nat × Nat × Nat)
  poisonUsed : Bool
  tens : SMap TensorAcc
  regionTens : SMap TensorAcc
  taskTally : DWord
  regionTally : DWord
  checks : List GridCheck
  prepasses : List Prepass
  regionTiles : List Nat
  tags : List Nat
  issued : List (Nat × Nat)
  sent : List Nat
  audit : Option Nat
  isAudit : Bool
  orig : Nat
  refTally : Option DWord
  ended : Bool
  deriving DecidableEq, Repr

/-! ## Cores (R63) -/

/-- A fixed-latency result on its way: what it writes; `spill` adds accumulators into a crate tile, `crate` replaces a tile's
entries (R76). -/
inductive Wb where
  | x (r : Nat) (v : DWord)
  | v (grp reg : Nat) (vals : List (Nat × Word × Bool))
  | k (grp n : Nat) (vals : List (Nat × Bool))
  | md (n : Nat) (bytes : List Byte)
  | shelf (addr : Nat) (bytes : List Byte) (poison : Bool)
  | spill (ct : Nat) (acc : SMap DWord) (st : SMap Nat) (poison : Bool)
  | crate (ct : Nat) (bytes : List Byte) (poison : Bool)
  deriving DecidableEq, Repr

/-- A result in flight: the schedule cycle from which it is usable (R68), the slot that issued it (0 control, 1 vector,
2 move, 3 matrix), and the lanes of it that need the slow path with the cycles of each (R129). -/
structure Pend where
  due : Nat
  slot : Nat
  wb : Wb
  slowLanes : List Nat
  slowCost : Nat
  deriving DecidableEq, Repr

/-- A mover-queue item (R141): kind 0 TMV, 1 FILL, 2 SCOPY; descriptor line; arrival slot. -/
structure MoverItem where
  kind : Nat
  line : Nat
  slot : Nat
  deriving DecidableEq, Repr

/-- An item an engine has started: the descriptor bytes it read, whether it waits at an update fence (R207), the
64-byte units of a charged item whose ticks are paid (R146), whether its writes are made and only wait for pages (R343), and, once
its task has left the core, that task's context and step (R151, R180). -/
structure EngineItem where
  item : MoverItem
  desc : List Byte
  fenced : Bool
  paid : Nat
  wrote : Bool
  left : Option (Nat × DWord)
  deriving DecidableEq, Repr

/-- A resident entry (R149), most recently matched first in its list. -/
structure Resident where
  desc : List Byte
  slot : Nat
  step : DWord
  deriving DecidableEq, Repr

/-- What a crate tile is bound to (R91, R99): tensor tag, logical block index, block row and column, tensor shape,
anchor (none while an AUTO pre-pass runs), the arrival slot of that pre-pass, poison of the entries and of the anchor (R101), and
whether the block is in its measuring pass with the largest exponent seen (R105). -/
structure Tile where
  tag : Nat
  block : Nat
  brow : Nat
  bcol : Nat
  ncols : Nat
  mrows : Nat
  anchor : Option Int
  autoSlot : Nat
  poison : Bool
  anchPoison : Bool
  measuring : Bool
  maxExp : Option Int
  deriving DecidableEq, Repr

/-- A raise entry (R107). -/
structure Raise where
  tag : Nat
  block : Nat
  anchor : Int
  count : Nat
  deriving DecidableEq, Repr

/-- A steal in progress (R163, R164): the dies still to query, and the die and outcome of the outstanding query. -/
structure Probe where
  left : List Nat
  asked : Option Nat
  reply : Option (Option Task)
  waiting : Bool
  deriving DecidableEq, Repr

/-- An armed box (R170): the inbox line and the arrival slot. -/
structure Armed where
  line : Nat
  slot : Nat
  deriving DecidableEq, Repr

/-- One physical core (R63). Unlisted registers, lanes, masks and shelf bytes read 0. `v` is keyed by
`(64 * group + lane) * 32 + register`, `k` by `8 * group + n`, `acc` by `32 * i + j`, `crate` by `1024 * tile + entry`,
`gen` by thread. -/
structure Core where
  x : SMap DWord
  pc : Nat
  branch : Option (Nat × Nat)
  loops : List (Nat × Nat × Nat)
  arr : SMap Nat
  v : SMap Word
  vPoison : SMap Bool
  k : SMap DWord
  gen : SMap DWord
  genDrew : SMap Bool
  shelf : SMap Byte
  shelfPoison : SMap Bool
  shelfMark : SMap Bool
  shelfBad : SMap Bool
  md : SMap (List Byte)
  acc : SMap DWord
  accSt : SMap Nat
  accPoison : Bool
  accTile : Option Nat
  steps : Nat
  crate : SMap (BitVec 96)
  tiles : SMap Tile
  raises : SMap Raise
  cyc : Nat
  pend : List Pend
  macFree : Nat
  outFree : Nat
  macClass : Nat
  macRanges : List (Nat × Nat)
  queue : List MoverItem
  engines : SMap EngineItem
  resident : List Resident
  armed : SMap Armed
  run : Option Run
  probe : Option Probe
  repeatDue : Bool
  repeatCyc : Nat
  slowDue : Option Nat
  tokenFrozen : Bool
  moving : Bool
  clearDue : Bool
  retireDue : Option Nat
  suspect : Bool
  margin : Option Nat
  tasksRun : Nat
  countStep : DWord
  tasksStolen : Nat
  deriving DecidableEq, Repr

/-! ## Contexts (R392) -/

/-- What a load bound (R172 to R176): code bundles, constant lines, the tensor table, the map of logical to physical
cores. -/
structure Image where
  code : List (BitVec 128)
  consts : List (List Byte)
  tensors : SMap (List Byte)
  ovfTasks : Nat
  usesRngl : Bool
  phys : List Nat
  deriving DecidableEq, Repr

/-- A post kept until its step commits (R374): its descriptors, each with the address of its poisoned line where it was
read with poison, the command that made it, whether a commit reply is owed. -/
structure Post where
  step : DWord
  tasks : List (TaskDesc × Option Nat)
  src : CmdSrc
  tag : BitVec 16
  notify : Bool
  deriving DecidableEq, Repr

/-- An update descriptor registered in a stack (R203, R205): owner slot, its 192 bytes, its armed step, its program, and
whether it has fired, is kept to fire at the re-arm, or is to be removed. -/
structure UpdDesc where
  slot : Nat
  bytes : List Byte
  armed : DWord
  program : List Word
  fired : Bool
  keptFire : Bool
  removing : Bool
  reruns : Nat
  deriving DecidableEq, Repr

/-- A range of the hold list (R345). -/
structure HoldRange where
  addr : Nat
  bytes : Nat
  save : Bool
  tag : Nat
  deriving DecidableEq, Repr

/-- A step of a context that has been posted and has not committed, with all that its record needs (R42). `updDone` keeps
the descriptors whose update for the step has completed, for a re-arm (R208); `win` is the context's registers of R232 and
`holds` its hold list as they stood when the step began, `agreed` the agreed codes of its sequences (context, sequence,
code). -/
structure StepSt where
  num : DWord
  cursor : List Byte
  begun : Bool
  contributed : Bool
  closed : Bool
  replaying : Bool
  replayed : Bool
  consumed : Bool
  mismatch : Bool
  obs : Bool
  solverReuse : Bool
  raises : Nat
  tens : SMap TensorAcc
  poisonedLines : List Nat
  heldRanges : List (Nat × Nat)
  tlyLevel : Nat
  tlyOn : Bool
  tlyBase : Nat
  tlyLog : Nat
  stopTag : Option Nat
  ckptDecided : Bool
  stampBegin : DWord
  boxSrcs : List (Nat × Nat)
  updDone : List (Nat × Nat × UpdDesc)
  win : SMap Word
  agreed : List (Nat × Word × Nat)
  holds : List HoldRange
  deriving DecidableEq, Repr

/-- A message on its way or in a buffer (R169): destination slot and logical core, the 64 bytes as they land, the number
the sender knows it by. -/
structure Msg where
  slot : Nat
  lcore : Nat
  bytes : List Byte
  id : Nat
  poison : Bool
  deriving DecidableEq, Repr

/-- A message sent and not landed (R169): its number, the sending core or the number of the saved task, the arrival slot,
the destination node, and whether this device, as the destination, has refused it. -/
structure MsgOut where
  id : Nat
  core : Nat
  saved : Option Nat
  slot : Nat
  dst : Nat
  refused : Bool
  deriving DecidableEq, Repr

/-- The REPLAY command's setting for the next execution of a step (R422). -/
structure ReplaySet where
  step : DWord
  level : Nat
  stop : Option Nat
  src : CmdSrc
  tag : BitVec 16
  deriving DecidableEq, Repr

/-- A piece of a checkpoint image as it is sent: offset, bytes, and the device pages it comes from. -/
structure Piece where
  off : Nat
  len : Nat
  pages : List Nat
  deriving DecidableEq, Repr

/-- A solver descriptor on a die (R234): owner, bytes, its place in the order of registration (R245), consecutive reuses,
the first statistics step with a solution and the first one whose solution is not complete, the statistics step of the
current solution and of that of each open step (step, statistics step, reuses by then), whether it is to be removed, and
since when a step waits for it. -/
structure SolvDesc where
  slot : Nat
  bytes : List Byte
  order : Nat
  reuses : Nat
  base : DWord
  next : DWord
  current : Option DWord
  curs : List (DWord × DWord × Nat)
  removing : Bool
  stallFrom : Option DWord
  deriving DecidableEq, Repr

/-- A checkpoint in progress (R346 to R354), from its decision on: the step; whether the step has committed and the stream
runs; the settings the decision read (stream ports as a mask, buddy, class, fallback); whether it goes to the file store;
the update and solver descriptors of the context as they stood at the decision (R346, R348); the image bytes with their
poison by 64-byte line; the pieces of the image still to send and those on their way with the port of each; bytes
acknowledged; and the command that asked for it. -/
structure Stream where
  step : DWord
  started : Bool
  ports : Nat
  buddy : Nat
  cls : Nat
  fallback : Bool
  toFile : Bool
  upds : List (Nat × Nat × UpdDesc)
  solvs : List (Nat × Nat × SolvDesc)
  image : List Byte
  poison : List Bool
  todo : List Piece
  out : List (Piece × Nat)
  acked : Nat
  cmd : Option (CmdSrc × BitVec 16)
  deriving DecidableEq, Repr

/-- A restore in progress (R357): its command, its map entries, where the tallies go, the node and slot its image comes
from (none for the file-store ring), and the image bytes received so far with their poison by byte. -/
structure Restore where
  src : CmdSrc
  tag : BitVec 16
  map : List (List Byte)
  tallyAddr : Nat
  node : Option (Nat × Nat)
  image : List Byte
  poison : List Bool
  deriving DecidableEq, Repr

/-- A tenant context (R392). `queues` is keyed by logical core, head first; `joins` by `4096 * bank + counter`; `tokens` by
die (ticks left in the window); `solvSaved` holds restored solver state by `CUR_ADDR`; `weights` by `5 * port + class`;
`bufs` by logical core; `restored` is the step of the image last restored; `haltFails` counts the task failures met while
the context was halted (R180). -/
structure Ctx where
  serial : Nat
  groups : List Nat
  granules : List Nat
  weights : SMap Nat
  image : Option Image
  queues : SMap (List Task)
  gated : List (Task × Nat × Bool)
  overflow : SMap (List Task)
  joins : SMap Nat
  tokens : SMap Nat
  lastPosted : Option DWord
  restored : Option DWord
  posts : List Post
  steps : List StepSt
  committed : Option DWord
  holdList : List HoldRange
  holdNext : Option (List HoldRange)
  replaySet : Option ReplaySet
  stopHalted : Bool
  haltFails : Nat
  terminated : Bool
  stepFailed : Bool
  bufs : SMap (List Msg)
  pendingRegs : List (Nat × Word)
  refStamp : Option DWord
  ckptDefer : Bool
  ringBad : Bool
  stream : Option Stream
  fsRing : Option (Nat × Nat)
  fsPos : Nat
  solvSaved : List (Nat × List Byte)
  faultSlots : List (List Byte)
  ckptCmd : Option (CmdSrc × BitVec 16 × Bool)
  restoreCmd : Option Restore
  lastActive : DWord
  deriving DecidableEq, Repr

/-- A stowed context (R400): the slot it left, its stow entry, the trigger that waits for it (function, or 0xFFFF for a
packet, and stamp), and whether the breach of R403 cause 0x06 has begun. The context itself, its windows and all that names
its slot are kept under the tag of the stow entry. -/
structure Stowed where
  slot : Nat
  entry : Nat
  waiting : Option (Nat × DWord)
  told : Bool
  deriving DecidableEq, Repr

/-! ## Memory, updates and solver -/

/-- The running update of a stack: descriptor number, hyperparameter line, the T registers by `16 * element + t` (with
poison), the next instruction of each element, the elements that have ended, the stream writes to publish by device address,
and consumed poison. -/
structure UpdRun where
  num : Nat
  hyper : List Byte
  hyperPoison : Bool
  t : SMap Word
  tPoison : SMap Bool
  pcs : SMap Nat
  ended : SMap Bool
  writes : SMap Byte
  wPoison : SMap Bool
  stored : List (Nat × Nat × Word)
  consumed : Bool
  deriving DecidableEq, Repr

/-- A memory stack (R189 to R193, R206). `corrected` lists lines corrected since the scrub last passed their row; `retired`
rows by `2^21 * pc + row`, `retiring` rows and `migrating` a pseudo-channel each with the cause; `engDue` update engines
(number, cause) to be retired between updates; `waitCow` the writes that wait for a page, each with the context slot and
step it belongs to, if any; `busyCyc` the cycles that `UPD_BUSY` has not yet shown. -/
structure Stack where
  corrected : List Nat
  retired : SMap Bool
  retiring : List (Nat × Nat)
  sparesUsed : SMap Nat
  migrating : Option (Nat × Nat)
  descs : SMap UpdDesc
  fires : List Nat
  running : Option UpdRun
  engines : Nat
  engDue : List (Nat × Nat)
  waitCow : List (Nat × List Byte × Bool × Option (Nat × DWord))
  busyCyc : Nat
  deriving DecidableEq, Repr

/-- A version of a page kept by a hold (R341, R342): owner slot, the step or the cut it serves, the page number, its
bytes by offset and its poisoned lines. -/
structure HeldPage where
  slot : Nat
  step : DWord
  isCut : Bool
  page : Nat
  bytes : SMap Byte
  poison : SMap Bool
  deriving DecidableEq, Repr

/-- A microprogram slot (R200): the context that holds it and its words. -/
structure UcodeSlot where
  slot : Nat
  words : List Word
  deriving DecidableEq, Repr

/-- One piece of solver work (R245): descriptor number, statistics step, stage 0 front or 1 factorisation, next
matrix, and whether its writes are made and only wait for pages (R343). -/
structure SolvWork where
  num : Nat
  step : DWord
  stage : Nat
  matrix : Nat
  wrote : Bool
  deriving DecidableEq, Repr

/-- A die's solver: descriptors, the running work, the front stages done (descriptor, step), and those whose wait for a
bank has been counted. -/
structure Solver where
  descs : SMap SolvDesc
  running : Option SolvWork
  doneFront : List (Nat × DWord)
  waited : List (Nat × DWord)
  deriving DecidableEq, Repr

/-! ## Ports, flows and collectives -/

/-- A flit: header flags, body, poison of its halves, its charge to the shared pool (R272), whether it is kept as a reference
and the device memory its body is re-read from (address, place in the body, bytes: R282), for a forwarded flit the port
and pool whose credit it still holds (R279, R282), and the device address of the two lines of a store-room pool that it lies in
(R293). -/
structure Flit where
  vc : Nat
  sop : Bool
  eop : Bool
  retx : Bool
  shr : Bool
  poison : BitVec 2
  seq : Nat
  body : List Byte
  ref : Bool
  src : Option (Nat × Nat × Nat)
  owed : Option (Nat × Bool)
  pool : Option Nat
  deriving DecidableEq, Repr

/-- The transmit side of one virtual channel (R279, R280, R284). -/
structure TxVc where
  queue : List Flit
  kept : List Flit
  replay : List Flit
  nextSeq : Nat
  acked : Nat
  usedDed : Nat
  advDed : Nat
  goBacks : Nat
  deficit : Nat
  deriving DecidableEq, Repr

/-- The receive side of one virtual channel (R281). -/
structure RxVc where
  nextSeq : Nat
  nak : Bool
  partialPkt : List Flit
  freedDed : Nat
  deriving DecidableEq, Repr

/-- A packet (R274): header fields, payload bytes, poison by half of its flits, whether its body comes from device memory and
is kept by reference, and the live device address its payload is re-read from, with the place in the payload from which it
is (R282). -/
structure Pkt where
  ptype : Nat
  key : FlowKey
  tag : Nat
  tagged : Bool
  e2e : Nat
  payload : List Byte
  poison : List Bool
  ref : Bool
  src : Option (Nat × Nat)
  deriving DecidableEq, Repr

/-- A frame of a slot that is held for the next occurrence (R260): its entry, the number of the occurrence it came in, and
its flits. -/
structure HeldFrame where
  entry : Nat
  occ : Nat
  flits : List Flit
  deriving DecidableEq, Repr

/-- A marker as one lane carries it (R271): sync word, physical lane, count, and the map of its direction. -/
structure Marker where
  sync : BitVec 64
  lane : Nat
  count : Nat
  width8 : Bool
  subst : Nat
  deriving DecidableEq, Repr

/-- A link port's state beyond its registers. `wire` is the last frame sent and `lanes` the bytes of it by physical lane
(R269); `markerOut` the last marker sent (width 8?, substituted lane) and `markerLanes` that marker on each lane; `laneCorr`
the symbols corrected by receive lane since the last marker and `laneRuns` the marker periods in a row with more than 1,024
of them (R288); `farLr` whether the far receiver's pool lies in its store room, known from its first advertisement of
credits (R278, R279); `quiet` that training began from SAFE (R296); `poolUsed` the places of the store-room pool that hold
flits (R293); `backDue` that the map to come was asked for by the far end, `arrived` the flits of whole packets handed to
the routing engine, `slotSent` the last slot frame sent (entry, link frames), `lastReply` what the last exchange reply
showed (locked, source node, error), `everPresent` that training began from NO_CABLE, `share` an open breach of R403 cause 8
with its contexts, `tagWaited` the channels whose wait for a tag has been counted, `laneCause` why the lane that `lcmd` is
about was taken out (R366: 4 link, 5 command), `drainDue` a drain that waits for a new map. -/
structure Port where
  tx : SMap TxVc
  rx : SMap RxVc
  usedShr : Nat
  advShr : Nat
  freedShr : Nat
  sinceCtl : Nat
  sinceMarker : Nat
  markers : Nat
  ctlDue : Bool
  curVc : Option Nat
  drrVc : Nat
  lcmd : Nat
  lcmdLane : Nat
  laneCause : Nat
  wire : List Byte
  lanes : SMap (List Byte)
  markerOut : Option (Bool × Nat × Nat)
  markerLanes : List Marker
  laneCorr : SMap Nat
  laneRuns : SMap Nat
  farLr : Option Bool
  quiet : Bool
  poolUsed : List Nat
  txNarrowDue : Bool
  backDue : Bool
  txSubstDue : Option Nat
  attempts : Nat
  everPresent : Bool
  trainedShow : Bool
  drainDone : Bool
  farDraining : Bool
  farDone : Bool
  trainPending : Bool
  tagsUsed : SMap (FlowKey × Nat)
  fiLeft : Option Nat
  fiSeen : Nat
  arrived : List Flit
  heldSwap : Option Flit
  rto : DWord
  reqSeq : BitVec 16
  reqT1 : Option DWord
  fwd : DWord
  rev : DWord
  lastReply : Option (Bool × Nat × Nat)
  farOffSched : Bool
  slotHeld : List HeldFrame
  slotSent : List (Nat × List Byte)
  vcFrames : Nat
  windowFrames : Nat
  bulkWaited : List Nat
  share : Option (DWord × List Nat)
  tagWaited : List Nat
  altVc1 : Bool
  drainDue : Bool
  cfg : Word
  lrBase : Nat
  lrMib : Nat
  deriving DecidableEq, Repr

/-- The source side of a flow (R311, R313): next sequence, first unacknowledged, the packets kept, the port of its path,
the port it is pinned to (R352),
the packets held by a path change, the start stamp of an open breach with its contexts (R403), and the moment it closed. -/
structure FlowTx where
  next : Nat
  acked : Nat
  kept : List Pkt
  port : Option Nat
  pinned : Option Nat
  held : List Pkt
  pathDue : Bool
  breach : Option (DWord × List Nat)
  closedAt : DWord
  deriving DecidableEq, Repr

/-- The destination side of a flow (R312, R313); `closedAt` is the moment since which it owes no acknowledgement (R311). -/
structure FlowRx where
  next : Nat
  window : SMap Pkt
  sinceAck : Nat
  gap : Bool
  closedAt : DWord
  deriving DecidableEq, Repr

/-- A collective context (R315). -/
structure Cctx where
  slot : Nat
  portable : Bool
  isStep : Bool
  members : List Nat
  deriving DecidableEq, Repr

/-- A contributor of a collective on this device (R321): the core it was issued on, or the number of the saved task, its
arrival slot and descriptor line, home logical core and task number, descriptor bytes, issue stamp. -/
structure Contrib where
  core : Nat
  saved : Option Nat
  slot : Nat
  line : Nat
  home : Nat
  taskId : Word
  desc : List Byte
  stamp : DWord
  deriving DecidableEq, Repr

/-- Data of a collective: the phase and rank it comes from (phases 7 and 8 with the own rank hold the device partial or
input, and the own anchor codes), values by element key with the poisoned ones, the check word, the latest stamp it covers
with its rank, and the earliest. -/
structure PeerData where
  phase : Nat
  rank : Nat
  elems : SMap (BitVec 96)
  bad : SMap Bool
  check : Nat
  stamp : DWord
  stampRank : Nat
  earliest : DWord
  deriving DecidableEq, Repr

/-- A pre-pass that contributes to an agreement sequence (R101, R326): its core or the number of its saved task, crate tile,
arrival slot, local code. -/
structure Agreer where
  core : Nat
  saved : Option Nat
  tile : Nat
  slot : Nat
  code : Nat
  deriving DecidableEq, Repr

/-- An open collective (R321 to R330), or one sequence of an agreement. `own` is the integrity unit's own code of a step
agreement (R372), `agreed` the code of a sequence that is agreed, `sent` the phases sent, `todo` the segments of them that
wait for a grant (phase, rank, first element, end: R328), `flying` those sent and not acknowledged, `wrote` whether its
results are written and only wait for pages (R343), `waited` whether its wait for banks has been counted, `ate` whether it
has consumed poison. -/
structure Coll where
  cctx : Nat
  seq : Word
  step : DWord
  slot : Nat
  contribs : List Contrib
  started : Bool
  waited : Bool
  banks : Nat
  peers : List PeerData
  sent : List Nat
  todo : List (Nat × Nat × Nat × Nat)
  flying : List (Nat × Nat × Nat × Nat)
  own : Option Nat
  prepass : List Agreer
  agreed : Option Nat
  ate : Bool
  wrote : Bool
  resent : Nat
  offSched : Bool
  deriving DecidableEq, Repr

/-! ## Management -/

/-- An event record (R364). -/
structure EventRec where
  stamp : DWord
  origin : Nat
  cls : Nat
  code : Nat
  seq : Word
  detail : List Byte
  deriving DecidableEq, Repr

/-- An inventory-log entry (R431). -/
structure LogEntry where
  stamp : DWord
  origin : Nat
  num : Nat
  kind : Nat
  status : Nat
  opcode : Nat
  off : Word
  ctx : Nat
  tag : Nat
  old : DWord
  new : DWord
  digest : DWord
  seq : Word
  deriving DecidableEq, Repr

/-- A wear-record entry (R390). -/
structure WearEntry where
  stamp : DWord
  kind : Nat
  place : Nat
  unit : Nat
  cause : Nat
  deriving DecidableEq, Repr

/-- A quota of a virtual function (R421, FN_QUOTA). -/
structure Quota where
  contexts : Nat
  cctxs : Nat
  groups : BitVec 128
  granules : List Nat
  caps : List Byte
  deriving DecidableEq, Repr

/-- A command taken and not completed (R419): where it came from, its packet, whether QUEUED was written, whether its
replies are discarded (R408), whether a failover ended it (R427), its final reply once it is known, and the granules whose
zero fill that reply waits for (R186). -/
structure Taken where
  src : CmdSrc
  pk : Packet
  queued : Bool
  mute : Bool
  failedOver : Bool
  final : Option (Nat × List Word)
  waits : List Nat
  deriving DecidableEq, Repr

/-- A reply on the MCTP endpoint (R434): destination endpoint, message type byte, bytes. -/
structure MctpOut where
  eid : Byte
  bytes : List Byte
  deriving DecidableEq, Repr

/-- A core-group move or retirement in progress (R394). -/
structure Move where
  group : Nat
  src : Nat
  dst : Option Nat
  request : DWord
  late : Bool
  cmd : Option (CmdSrc × BitVec 16)
  saves : List Nat
  deriving DecidableEq, Repr

/-- A zero fill in progress (R186): the granule and the entry it is to take. -/
structure ZeroFill where
  granule : Nat
  entry : Word
  deriving DecidableEq, Repr

/-- The management complex beyond its registers. -/
structure Mgmt where
  taken : List Taken
  mbTurn : Nat
  fnTurn : Nat
  ringTurn : SMap Nat
  coreTurn : Nat
  nonce : Option (List Byte)
  quotas : SMap Quota
  mctpBusy : Bool
  mctpOut : List MctpOut
  busOwner : Byte
  shedLow : Nat
  telemetryAge : Nat
  telemetry : List Nat
  moves : List Move
  unbinding : List (Nat × Option (CmdSrc × BitVec 16))
  stows : List (Nat × Option (CmdSrc × Packet))
  unstows : List Nat
  stalled : List (CmdSrc × Packet)
  zeroFills : List ZeroFill
  margins : List (UnitRef × Nat)
  intMail : SMap (List Word)
  intFull : SMap Bool
  deriving DecidableEq, Repr

/-! ## Time, clocks and pins -/

/-- The machine time unit beyond its registers. `copies` holds, by die, copy minus keeper; `slew` the correction of machine
time still to be made, `ppsSeen` whether an edge of TIME_PPS has set the expected place of the next (R256), `copySlew` the
dies whose copies are to move by one; `offCtxs` the contexts told of an open breach of R261; `tickPhase` and `errTicks`
count ticks toward the next correction and the next growth of `MT_ERR`. -/
structure TimeUnit where
  now : DWord
  copies : SMap DWord
  hiLatch : SMap Word
  everLocked : Bool
  lockRun : Nat
  slew : DWord
  ppsGood : Nat
  ppsSeen : Bool
  ppsCand : Bool
  ppsDropped : Bool
  tenLost : Bool
  slotNext : SMap Word
  offCtxs : List Nat
  tickPhase : Nat
  errTicks : Nat
  copySlew : SMap Bool
  errOkSince : Option DWord
  leftAt : Option DWord
  deriving DecidableEq, Repr

/-- A source monitor (R439 to R441): the judge of the last window (0 REFCLK_A, 1 REFCLK_B, 2 SOSC, 3 ARO), passing windows
of the run, the run's first count, the last passing counts (newest first, at most 256), and whether its verdict is void. -/
structure Monitor where
  judge : Nat
  passes : Nat
  first : Option Nat
  lastCounts : List Nat
  voided : Bool
  deriving DecidableEq, Repr

/-- Clocks, power, attic and pins beyond their registers. `dispute` is the REFCLK (true REFCLK_B) that disagrees with SOSC
until the other REFCLK decides (R440); `relock` the domains relocking with their reference; `rails` the present rails;
`throttleStart` when a die's throttling began, `throttleOk` the milliseconds it has stayed inside the bounds, none while its
cap falls (R453); `wake` whether WAKE# is driven; of the test port the instruction, whether its last write was refused,
the data register of REGACC, the bits last shifted out, what the pins drive instead of the logic (nothing listed: they
float) and the preloaded boundary scan (R435); `resetCause` why a die is held in reset; `auth` what authentication
found. -/
structure Plat where
  monA : Monitor
  monB : Monitor
  monS : Monitor
  dispute : Option Bool
  relock : SMap Nat
  rails : List Rail
  perst : Bool
  throttleOk : SMap Nat
  throttleStart : SMap DWord
  miscompare : Bool
  wake : Bool
  flapping : SMap Bool
  svcStuck : Bool
  tapIr : Byte
  tapStatus : Bool
  tapDr : BitVec 66
  tdo : List Bool
  tapPins : Option (List Bool)
  scan : List Bool
  auth : Option AuthResult
  parkedExit : Bool
  resetCause : SMap Nat
  deriving DecidableEq, Repr

/-- Why the machine stops with a fault. -/
inductive Fault where
  /-- Raised by no meaning today: every state the spec describes goes on. Kept so that a later repair can name a stuck
  state (safe). -/
  | stuck
  deriving DecidableEq, Repr

/-- Why a command has no meaning. -/
inductive Refusal where
  /-- Raised only by a dispatch arm that has no meaning yet (safe). -/
  | notModelled (mnemonic : String)
  /-- Raised by a slot command whose operands the spec reserves: an image that holds such a slot is refused at load, so
  no core ever issues it (R70, R131, R171, R175, R217) (safe). -/
  | reservedForm
  deriving DecidableEq, Repr

/-- The state of the device, the host memory it reads and writes by DMA, and the queue of waiting commands. -/
structure State where
  /-- Commands that wait, first in, first out. -/
  pending : List Instr
  /-- The register space, by BAR0 offset; an unlisted register holds its reset value. -/
  regs : SMap Word
  /-- WONCE fields written this boot, by `32 * offset + lowest bit`. -/
  once : SMap Bool
  /-- The model's own counter of open values drawn (log entry 3). -/
  free : Nat
  /-- What the last read returned on the bus. -/
  busData : Word
  /-- Completer Aborts logged in each function's AER registers (R410). -/
  aer : SMap Nat
  /-- MSI-X vectors raised, by `8 * function + vector` (R406). -/
  msix : SMap Nat
  /-- Per-origin event sequence numbers (R250). -/
  seqs : SMap Word
  /-- Host memory by byte address, with its poisoned 64-byte lines. -/
  host : SMap Byte
  hostPoison : SMap Bool
  /-- Device memory by `2^36 * stack + stack offset` (R184), with its poisoned lines by `2^30 * stack + line`. -/
  mem : SMap Byte
  memPoison : SMap Bool
  /-- The event ring by index (R365). -/
  events : SMap EventRec
  /-- Inventory-log entries not yet mirrored, oldest first (R432). -/
  logBuf : List LogEntry
  wear : List WearEntry
  wearFullSent : Bool
  cores : SMap Core
  /-- Dies on which a pool has token-frozen a core in the present window (R88, R89). -/
  tokHeld : SMap Bool
  /-- Write and read pointers of the crossing FIFOs, by `2 * edge + direction` over the ten edges (R452, R458). -/
  xfifos : SMap (Nat × Nat)
  /-- The core group that a core outside its first place serves, where a spare has taken a member's place (R387, R392). -/
  seats : SMap Nat
  ctxs : SMap Ctx
  stowed : List Stowed
  /-- Save images in the re-binding area (R395), by number. -/
  saves : SMap Core
  cellars : SMap Stack
  held : List HeldPage
  ucode : SMap UcodeSlot
  solvers : SMap Solver
  ports : SMap Port
  flowsTx : List (FlowKey × FlowTx)
  flowsRx : List (FlowKey × FlowRx)
  /-- Packets of new flows that wait for a flow-table entry (R311), with the port they are pinned to, if any. -/
  flowWait : List (Pkt × Option Nat)
  /-- Packets at the routing engine for this device, oldest first. -/
  deliver : List Pkt
  /-- Messages sent and not landed. -/
  msgOut : List MsgOut
  msgIn : List Msg
  msgNext : Nat
  cctxs : SMap Cctx
  colls : List Coll
  /-- Collectives of open steps that have completed here: slot, step, context number, sequence (R477). -/
  collsDone : List (Nat × DWord × Nat × Word)
  /-- Collectives completed in the current run of 1,024 and, by member index (32 for outside), how often slowest
  (R367). -/
  slowRun : Nat
  slowIn : SMap Nat
  /-- Reduction-buffer banks that work, the 8 spares among them (R328, R387). -/
  banks : Nat
  /-- Banks to be retired once no collective holds one (R387). -/
  bankDue : List Nat
  /-- Buddy slots: the pieces received of the image being written, their bytes by `2^41 * slot + offset` (R353). -/
  buddyGot : SMap Nat
  mgmt : Mgmt
  time : TimeUnit
  plat : Plat
  deriving DecidableEq, Repr

/-- A core right after reset: nothing in it (R156, R138). -/
def Core.empty : Core :=
  { x := [], pc := 0, branch := none, loops := [], arr := [], v := [], vPoison := [], k := [], gen := [],
    genDrew := [], shelf := [], shelfPoison := [], shelfMark := [], shelfBad := [], md := [], acc := [], accSt := [],
    accPoison := false, accTile := none, steps := 0, crate := [], tiles := [], raises := [], cyc := 0, pend := [],
    macFree := 0, outFree := 0, macClass := 0, macRanges := [], queue := [], engines := [], resident := [],
    armed := [], run := none, probe := none, repeatDue := false, repeatCyc := 0, slowDue := none, tokenFrozen := false,
    moving := false, clearDue := false, retireDue := none, suspect := false, margin := none, tasksRun := 0, countStep := 0, tasksStolen := 0 }

/-- A stack right after reset, with its 64 update engines. -/
def Stack.empty : Stack :=
  { corrected := [], retired := [], retiring := [], sparesUsed := [], migrating := none, descs := [], fires := [],
    running := none, engines := 68, engDue := [], waitCow := [], busyCyc := 0 }

/-- A die's solver right after reset. -/
def Solver.empty : Solver := { descs := [], running := none, doneFront := [], waited := [] }

/-- A virtual channel's transmit side at UP (R279). -/
def TxVc.empty : TxVc :=
  { queue := [], kept := [], replay := [], nextSeq := 0, acked := 0, usedDed := 0, advDed := 0, goBacks := 0,
    deficit := 0 }

/-- A virtual channel's receive side at UP (R279). -/
def RxVc.empty : RxVc := { nextSeq := 0, nak := false, partialPkt := [], freedDed := 0 }

/-- A port right after reset. -/
def Port.empty : Port :=
  { tx := [], rx := [], usedShr := 0, advShr := 0, freedShr := 0, sinceCtl := 0, sinceMarker := 0, markers := 0,
    ctlDue := false, curVc := none, drrVc := 3, lcmd := 0, lcmdLane := 0, laneCause := 4, wire := [], lanes := [], markerOut := none,
    markerLanes := [], laneCorr := [], laneRuns := [], farLr := none, quiet := false, poolUsed := [],
    txNarrowDue := false, backDue := false, txSubstDue := none, attempts := 0, everPresent := false, trainedShow := false,
    drainDone := false, farDraining := false, farDone := false, trainPending := false, tagsUsed := [], fiLeft := none,
    fiSeen := 0, arrived := [], heldSwap := none, rto := 0, reqSeq := 0, reqT1 := none, fwd := 0, rev := 0,
    lastReply := none, farOffSched := false, slotHeld := [], slotSent := [], vcFrames := 0, windowFrames := 0,
    bulkWaited := [], share := none, tagWaited := [], altVc1 := false, drainDue := false, cfg := 0, lrBase := 0, lrMib := 0 }

/-- A context right after its bind. -/
def Ctx.empty : Ctx :=
  { serial := 1, groups := [], granules := [], weights := [], image := none, queues := [], gated := [], overflow := [],
    joins := [], tokens := [], lastPosted := none, restored := none, posts := [], steps := [], committed := none,
    holdList := [], holdNext := none, replaySet := none, stopHalted := false, haltFails := 0, terminated := false, stepFailed := false,
    bufs := [], pendingRegs := [], refStamp := none, ckptDefer := false, ringBad := false, stream := none, fsRing := none, fsPos := 0, solvSaved := [],
    faultSlots := [], ckptCmd := none, restoreCmd := none, lastActive := 0 }

/-- A monitor at the start of a judging run. -/
def Monitor.empty : Monitor := { judge := 3, passes := 0, first := none, lastCounts := [], voided := false }

/-- The management complex right after reset. -/
def Mgmt.empty : Mgmt :=
  { taken := [], mbTurn := 0, fnTurn := 0, ringTurn := [], coreTurn := 0, nonce := none, quotas := [], mctpBusy := false,
    mctpOut := [], busOwner := 0, shedLow := 0, telemetryAge := 0, telemetry := [], moves := [],
    unbinding := [], stows := [], unstows := [], stalled := [], zeroFills := [], margins := [], intMail := [], intFull := [] }

/-- The machine time unit right after reset. -/
def TimeUnit.empty : TimeUnit :=
  { now := 0, copies := [], hiLatch := [], everLocked := false, lockRun := 0, slew := 0, ppsGood := 0, ppsSeen := false, ppsCand := false,
    ppsDropped := false, tenLost := false, slotNext := [], offCtxs := [], tickPhase := 0, errTicks := 0, copySlew := [],
    errOkSince := none, leftAt := none }

/-- Clocks, attic and pins right after reset: no rail but the attic's, PERST# asserted. -/
def Plat.empty : Plat :=
  { monA := Monitor.empty, monB := Monitor.empty, monS := Monitor.empty, dispute := none, relock := [],
    rails := [.attic], perst := true, throttleOk := [], throttleStart := [], miscompare := false, wake := false,
    flapping := [], svcStuck := false, tapIr := 0x01, tapStatus := false, tapDr := 0, tdo := [], tapPins := none, scan := [], auth := none, parkedExit := false, resetCause := [] }

/-- The machine right after reset: every register at the reset value of its table, memory with nothing listed, every
queue empty. -/
def State.reset : State :=
  { pending := [], regs := [], once := [], free := 0, busData := 0, aer := [], msix := [], seqs := [], host := [],
    hostPoison := [], mem := [], memPoison := [], events := [], logBuf := [], wear := [], wearFullSent := false,
    cores := [], tokHeld := [], xfifos := [], seats := [], ctxs := [], stowed := [], saves := [], cellars := [], held := [], ucode := [], solvers := [],
    ports := [], flowsTx := [], flowsRx := [], flowWait := [], deliver := [], msgOut := [], msgIn := [], msgNext := 0, cctxs := [],
    colls := [], collsDone := [], slowRun := 0, slowIn := [], banks := 264, bankDue := [], buddyGot := [], mgmt := Mgmt.empty,
    time := TimeUnit.empty, plat := Plat.empty }

end Sys2Proof.Machine
end

