-- ==== Sys2Proof/Machine/Ops.lean ====
section
/-! DEFINITION. The named operations over the register space, event records, MSI-X, the inventory log, and device and
host memory with poison, holds and copy-on-write. -/

namespace Sys2Proof.Machine

/-- The outcome of a command. -/
abbrev Out := Host.Outcome State Fault Refusal

/-! ## Registers (R5, R9) -/

/-- The BAR0 offset of element `i`, `j` of a register. -/
def regOff (r : Reg) (i j : Nat) : Nat := (shapeOf r).base + i * (shapeOf r).s1 + j * (shapeOf r).s2

/-- The reset value of a register of the tables: each field's reset value at its place. For `CLK_DOM[n]` the fall-back
of the serial and machine-time domains is the other reference, and only die domains have a ratio (R445, R460). -/
def regReset (r : Reg) (i : Nat) : Word :=
  let v := (fieldsOf r).foldl (fun a f => a + f.reset * 2 ^ f.lo) 0
  match r with
  | .CLK_DOM =>
    let v1 := if 40 ≤ i && i ≤ 76 then setBits v 29 28 1 else v
    wd (if i < 8 then v1 else setBits v1 8 0 0)
  | _ => wd v

/-- The element of register `r` at an offset. -/
def regHit (off : Nat) (r : Reg) : Option (Reg × Nat × Nat) :=
  let sh := shapeOf r
  if off < sh.base then none else
  let d := off - sh.base
  let i := if sh.s1 = 0 then 0 else d / sh.s1
  let e := if sh.s1 = 0 then d else d % sh.s1
  let j := if sh.s2 = 0 then 0 else e / sh.s2
  let e2 := if sh.s2 = 0 then e else e % sh.s2
  if i < sh.n1 && j < sh.n2 && e2 == 0 then some (r, i, j) else none

/-- The register and element that lie at a BAR0 offset. -/
def regAt (off : Nat) : Option (Reg × Nat × Nat) := allRegs.findSome? (regHit off)

/-- The stored value of a register. -/
def rget (s : State) (r : Reg) (i : Nat := 0) (j : Nat := 0) : Word :=
  match mapFind s.regs (regOff r i j) with
  | some v => v
  | none => regReset r i

/-- `s` with a register's stored value set; the reset value is not listed. -/
def rset (r : Reg) (i j : Nat) (v : Word) (s : State) : State :=
  { s with regs := if v = regReset r i then mapDel s.regs (regOff r i j) else mapPut s.regs (regOff r i j) v }

/-- A field's stored value. -/
def fget (s : State) (f : Fld) (i : Nat := 0) (j : Nat := 0) : Nat := bitsOf (rget s f.reg i j).toNat f.hi f.lo

/-- `s` with one field of a register set. -/
def fset (f : Fld) (i j v : Nat) (s : State) : State :=
  rset f.reg i j (wd (setBits (rget s f.reg i j).toNat f.hi f.lo v)) s

/-- One more event in a counter field, saturating at the field's width. -/
def fbump (f : Fld) (i j : Nat) (s : State) : State :=
  fset f i j (satTo (2 ^ (f.hi + 1 - f.lo) - 1) (fget s f i j + 1)) s

/-- `n` more events in a counter field, saturating at the field's width. -/
def fbumpBy (f : Fld) (i j n : Nat) (s : State) : State :=
  fset f i j (satTo (2 ^ (f.hi + 1 - f.lo) - 1) (fget s f i j + n)) s

/-- A one-bit field as a truth value. -/
def fbit (s : State) (f : Fld) (i : Nat := 0) (j : Nat := 0) : Bool := fget s f i j == 1

/-- A 64-bit value held in a LO and a HI register. -/
def rget64 (s : State) (lo hi : Reg) (i : Nat := 0) (j : Nat := 0) : DWord :=
  dw ((rget s lo i j).toNat + 2 ^ 32 * (rget s hi i j).toNat)

/-- `s` with a 64-bit value in a LO and a HI register. -/
def rset64 (lo hi : Reg) (i : Nat) (v : DWord) (s : State) : State :=
  rset hi i 0 (wd (v.toNat / 2 ^ 32)) (rset lo i 0 (wd v.toNat) s)

/-! ## Open values -/

/-- A fresh open word. -/
def drawFree (s : State) : DWord × State := (Config.freeWord s.free, { s with free := s.free + 1 })

/-! ## Units -/

/-- The die of physical core `c` (R63). -/
def dieOf (c : Nat) : Nat := c / 272

/-- The die of a port (R13). -/
def portDie (p : Nat) : Nat :=
  if p < 5 then 0 else if p < 9 then 1 else if p < 13 then 2 else if p < 18 then 3 else if p < 23 then 4
  else if p < 27 then 5 else if p < 31 then 6 else 7

/-- A core's state. -/
def coreOf (s : State) (c : Nat) : Core := (mapFind s.cores c).getD Core.empty

/-- `s` with a core's state set. -/
def setCore (c : Nat) (k : Core) (s : State) : State := { s with cores := mapPut s.cores c k }

/-- `s` with a core's state changed. -/
def modCore (c : Nat) (f : Core → Core) (s : State) : State := setCore c (f (coreOf s c)) s

/-- The context in a slot. -/
def ctxOf (s : State) (k : Nat) : Option Ctx := mapFind s.ctxs k

/-- `s` with the context of a slot set. -/
def setCtx (k : Nat) (c : Ctx) (s : State) : State := { s with ctxs := mapPut s.ctxs k c }

/-- `s` with the context of a slot changed, if one is there. -/
def modCtx (k : Nat) (f : Ctx → Ctx) (s : State) : State :=
  match ctxOf s k with
  | some c => setCtx k (f c) s
  | none => s

/-- A stack's state. -/
def stackOf (s : State) (m : Nat) : Stack := (mapFind s.cellars m).getD Stack.empty

/-- `s` with a stack's state changed. -/
def modStack (m : Nat) (f : Stack → Stack) (s : State) : State := { s with cellars := mapPut s.cellars m (f (stackOf s m)) }

/-- A port's state. -/
def portOf (s : State) (p : Nat) : Port := (mapFind s.ports p).getD Port.empty

/-- `s` with a port's state changed. -/
def modPort (p : Nat) (f : Port → Port) (s : State) : State := { s with ports := mapPut s.ports p (f (portOf s p)) }

/-- A die's solver. -/
def solverOf (s : State) (d : Nat) : Solver := (mapFind s.solvers d).getD Solver.empty

/-- `s` with a die's solver changed. -/
def modSolver (d : Nat) (f : Solver → Solver) (s : State) : State :=
  { s with solvers := mapPut s.solvers d (f (solverOf s d)) }

/-- `s` with the management complex changed. -/
def modMgmt (f : Mgmt → Mgmt) (s : State) : State := { s with mgmt := f s.mgmt }

/-- `s` with the machine time unit changed. -/
def modTime (f : TimeUnit → TimeUnit) (s : State) : State := { s with time := f s.time }

/-- `s` with clocks, power, attic and pins changed. -/
def modPlat (f : Plat → Plat) (s : State) : State := { s with plat := f s.plat }

/-! ## Contexts -/

/-- `CTX_STAT[k].STATE`: 0 free, 1 bound, 2 halted, 3 stowing, 4 unstowing (R404). -/
def ctxState (s : State) (k : Nat) : Nat := fget s F.CTX_STAT.STATE k

/-- Whether the context of slot `k` is bound in portable mode (R23). -/
def portable (s : State) (k : Nat) : Bool := fbit s F.CTX_STAT.MODE k

/-- The function that owns the context of slot `k`. -/
def ownerOf (s : State) (k : Nat) : Nat := fget s F.CTX_STAT.OWNER_FN k

/-- The tag under which a stowed context's windows and all that names its slot are kept, by stow entry: registers at this
index lie beyond the register space of R9. -/
def stowTag (n : Nat) : Nat := 2 ^ 28 * (n + 1)

/-- The hardware slot of a context by its slot or stow tag. -/
def slotNo (s : State) (k : Nat) : Nat :=
  if k < 64 then k else match s.stowed.find? (fun e => stowTag e.entry == k) with
    | some e => e.slot
    | none => k

/-- The handle of the context in slot `k` (R416). -/
def handleOf (s : State) (k : Nat) : Nat :=
  match ctxOf s k with
  | some c => k + 64 * c.serial
  | none => 0xFFFF

/-- Activity of a context (R398): its latest stamp. -/
def touchCtx (k : Nat) (s : State) : State :=
  match ctxOf s k with
  | some c => fset F.CTX_STAT.IDLE k 0 0 (setCtx k { c with lastActive := s.time.now } s)
  | none => s

/-- The logical core that physical core `c` serves in a context (R176). -/
def lcoreOf (x : Ctx) (c : Nat) : Option Nat :=
  match x.image with
  | some im => let i := im.phys.findIdx (· == c); if i < im.phys.length then some i else none
  | none => none

/-- The bound core count (R176). -/
def boundCount (x : Ctx) : Nat := match x.image with | some im => im.phys.length | none => 0

/-! ## Machine time and stamps (R250) -/

/-- The die whose copy an origin stamps from; the attic stamps from the keeper. -/
def originDie (o : Nat) : Option Nat :=
  if o < 8 then some o else if 16 ≤ o then some ((o - 16) / 2) else none

/-- The stamp of an event of an origin at this moment. -/
def stampAt (s : State) (o : Nat) : DWord :=
  match originDie o with
  | some d => s.time.now + mapGet 0 s.time.copies d
  | none => s.time.now

/-! ## MSI-X (R406) -/

/-- A vector of a function is raised. -/
def raiseMsix (f v : Nat) (s : State) : State :=
  { s with msix := mapPut s.msix (8 * f + v) (mapGet 0 s.msix (8 * f + v) + 1) }

/-! ## Event records (R364 to R366, R473) -/

/-- The 32 bytes of an event record (R364). -/
def eventBytes (e : EventRec) : List Byte :=
  leBytes 8 e.stamp.toNat ++ leBytes 1 e.origin ++ leBytes 1 e.cls ++ leBytes 2 e.code ++ leBytes 4 e.seq.toNat ++
    padTo 16 e.detail

/-- The order of R262 inside one device: stamp, origin, sequence. -/
def eventBefore (a b : EventRec) : Bool :=
  if a.stamp.toNat ≠ b.stamp.toNat then a.stamp.toNat < b.stamp.toNat
  else if a.origin ≠ b.origin then a.origin < b.origin
  else a.seq.toNat < b.seq.toNat

/-- The newest unread record moved back to its place in key order (R365). -/
def eventSettle : Nat → Nat → Nat → SMap EventRec → SMap EventRec
  | 0, _, _, ev => ev
  | fuel + 1, i, tail, ev =>
    if i = tail then ev else
    let p := (i + 8191) % 8192
    match mapFind ev p, mapFind ev i with
    | some a, some b => if eventBefore b a then eventSettle fuel p tail (mapPut (mapPut ev p b) i a) else ev
    | _, _ => ev

/-- Enter a record into the event ring; a full ring loses its oldest unread record (R365). -/
def enterEvent (e : EventRec) (s : State) : State :=
  let h := fget s F.EVT_RING.HEAD
  let t := fget s F.EVT_RING.TAIL
  let full := (h + 1) % 8192 == t
  let t' := if full then (t + 1) % 8192 else t
  let s1 := if full then fbump F.EVT_LOST.COUNT 0 0 (fset F.EVT_RING.TAIL 0 0 t' s) else s
  fset F.EVT_RING.HEAD 0 0 ((h + 1) % 8192) { s1 with events := eventSettle 8192 h t' (mapPut s1.events h e) }

/-- Whether alerts and event records also travel by MCTP (R434, R466, R470). -/
def alertsByMctp (s : State) : Bool :=
  (fbit s F.SB_STAT.ALERT_IGNORED || fbit s F.SB_CTRL.ALERT_MCTP) && !fbit s F.SB_STAT.SMB_OFF

/-- An event record of an origin, with the context it names, if any: stamped and numbered at its origin, entered in the
ring, vector 3 of the context's owner, and an unsolicited message where alerts travel by MCTP. -/
def sendEvent (origin cls code : Nat) (detail : List Byte) (ctx : Option Nat) (s : State) : State :=
  let q := mapGet 0 s.seqs origin
  let e : EventRec :=
    { stamp := stampAt s origin, origin := origin, cls := cls, code := code, seq := q, detail := padTo 16 detail }
  let s1 := enterEvent e { s with seqs := mapPut s.seqs origin (q + 1) }
  let s2 := match ctx with
    | some k => raiseMsix (ownerOf s1 k) 3 s1
    | none => s1
  if alertsByMctp s2 then
    modMgmt (fun m => { m with mctpOut := m.mctpOut ++ [⟨m.busOwner, [0x7E#8, 0x0B#8, 0x5A#8] ++ eventBytes e⟩] }) s2
  else s2

/-- Detail bytes spelled as numbers with their widths in bytes. -/
def det (l : List (Nat × Nat)) : List Byte := (l.map (fun e => leBytes e.2 e.1)).flatten

/-! ## Cycle repeat (R46) -/

/-- A break of the cycle repeat of a die. -/
def cycBreak (cause d : Nat) (s : State) : State :=
  fset F.RPR_CYC.ALIGNED d 0 0 (fset F.RPR_CYC.LAST_BREAK d 0 cause (fbump F.RPR_CYC.BREAKS d 0 s))

/-- A break that the spec ties to no die breaks every die's cycle repeat (log entry 24). -/
def cycBreakAll (cause : Nat) (s : State) : State := (List.range 8).foldl (fun a d => cycBreak cause d a) s

/-! ## The inventory log (R430 to R433) -/

/-- Origin code and number of R431. -/
def originCode : Origin → Nat × Nat
  | .host f => (0, f.val)
  | .firmware c => (1, c.val)
  | .dieAgent d => (2, d.val)
  | .mctp e => (3, e.toNat)
  | .testPort => (4, 0)
  | .rule n => (5, n.toNat)

/-- The origin of a command (R431). -/
def srcOrigin : CmdSrc → Origin
  | .mailbox f => .host f
  | .ring f _ => .host f
  | .mctp e => .mctp e

/-- Entries the buffer still takes. -/
def logFree (s : State) : Nat := 16384 - s.logBuf.length

/-- Enter one log entry with the next sequence number. -/
def logPush (e : LogEntry) (s : State) : State :=
  let q := rget s .LOG_SEQ
  rset .LOG_SEQ 0 0 (q + 1) { s with logBuf := s.logBuf ++ [{ e with seq := q, stamp := s.time.now }] }

/-- A log entry with no command data. -/
def logBase (o : Origin) (kind status off : Nat) (old new : DWord) : LogEntry :=
  { stamp := 0, origin := (originCode o).1, num := (originCode o).2, kind := kind, status := status, opcode := 0,
    off := wd off, ctx := 0xFFFF, tag := 0, old := old, new := new, digest := 0, seq := 0 }

/-- An entry that uses the last 64 places too: changes by the S8's own rules and lock refusals (R433). -/
def logRule (e : LogEntry) (s : State) : State :=
  if logFree s = 0 then fbump F.LOG_LOST.COUNT 0 0 s else logPush e s

/-- A field written by the S8's own rules: the write and its log entry of origin 5, when the value changes. -/
def ruleSet (num : Nat) (f : Fld) (i j v : Nat) (s : State) : State :=
  let old := rget s f.reg i j
  let s1 := fset f i j v s
  let new := rget s1 f.reg i j
  if new = old then s else
  logRule (logBase (.rule (by8 num)) 0 0 (regOff f.reg i j) (dw old.toNat) (dw new.toNat)) s1

/-- A management entry (kind 3). -/
def logMgmt (o : Origin) (s : State) : State := logRule (logBase o 3 0 0xFFFFFFFF 0 0) s

/-- The 64 bytes of a log entry (R431). -/
def logBytes (e : LogEntry) : List Byte :=
  leBytes 8 e.stamp.toNat ++ leBytes 1 e.origin ++ leBytes 1 e.num ++ leBytes 1 e.kind ++ leBytes 1 0 ++
    leBytes 2 e.status ++ leBytes 2 e.opcode ++ leBytes 4 e.off.toNat ++ leBytes 2 e.ctx ++ leBytes 2 e.tag ++
    leBytes 8 e.old.toNat ++ leBytes 8 e.new.toNat ++ leBytes 8 e.digest.toNat ++ leBytes 4 e.seq.toNat ++ leBytes 12 0

/-! ## The granule map (R182 to R188) -/

/-- The pair's four stacks in order (R184). -/
def pairStack (p i : Nat) : Nat :=
  match i with
  | 0 => 2 * p
  | 1 => 2 * p + 1
  | 2 => 2 * p + 8
  | _ => 2 * p + 9

/-- The stack and stack offset that a granule entry value gives offset `o` of its granule (R184). -/
def locateIn (e : Word) (o : Nat) : Nat × Nat :=
  let frame := bitsOf e.toNat 15 6
  let unit := bitsOf e.toNat 19 16
  let mode := bitsOf e.toNat 30 29
  let k := o / 4096
  let base := frame * 2 ^ 26
  if mode = 0 then (unit, base + o)
  else if mode = 1 then (pairStack unit (k % 4), base + k / 4 * 4096 + o % 4096)
  else (k % 16, base + k / 16 * 4096 + o % 4096)

/-- The stack and stack offset of a device address (R184). -/
def locate (s : State) (addr : Nat) : Nat × Nat :=
  locateIn (rget s .MEM_GMAP (addr / 2 ^ 30 % 1024)) (addr % 2 ^ 30)

/-- Who accesses memory (R187). -/
inductive Agent where
  | mover | update | coll | snapshot | hostCmd | pool
  deriving DecidableEq, Repr

/-- The cause for which R187 refuses a granule to an agent for a context: 0 not valid, 1 other or no owner, 2 wrong
plane, 3 store room (R212). -/
def granuleCause (s : State) (slot : Nat) (a : Agent) (g : Nat) : Option Nat :=
  if !fbit s F.MEM_GMAP.VALID g then some 0
  else if fbit s F.MEM_GMAP.STORE g then
    match a with
    | .snapshot => none
    | .pool => none
    | _ => some 3
  else if !fbit s F.MEM_GMAP.OWNED g || fget s F.MEM_GMAP.CTX g != slot || fbit s F.MEM_GSTOW.STOWED g then some 1
  else if fbit s F.MEM_GMAP.PLANE g then
    match a with
    | .update => none
    | .snapshot => none
    | _ => some 2
  else none

/-- The first refused address of an access with its cause. -/
def accessCause (s : State) (slot : Nat) (a : Agent) (addr len : Nat) : Option (Nat × Nat) :=
  if len = 0 then none
  else if 2 ^ 40 < addr + len then some (addr, 0)
  else
    let g0 := addr / 2 ^ 30
    let g1 := (addr + len - 1) / 2 ^ 30
    (List.range (g1 - g0 + 1)).findSome? (fun i =>
      match granuleCause s slot a (g0 + i) with
      | some c => some (if i = 0 then addr else (g0 + i) * 2 ^ 30, c)
      | none => none)

/-- Record a refusal in `MEM_AFAULT` unless one is still recorded (R188, R212). -/
def recordAfault (addr ctx agent cause : Nat) (s : State) : State :=
  if fbit s F.MEM_AFAULT_HI.VALID then s else
  let hi := 2 ^ 31 + ctx % 64 * 2 ^ 25 + agent % 4 * 2 ^ 23 + cause % 8 * 2 ^ 20 + addr / 2 ^ 32 % 256
  rset .MEM_AFAULT_HI 0 0 (wd hi) (rset .MEM_AFAULT_LO 0 0 (wd addr) s)

/-! ## Stack memory (R189, R190, R193) -/

/-- Whether stack `m` is in service (R14). -/
def stackOk (s : State) (m : Nat) : Bool := bitAt (fget s F.GBL_UNITS.STACK_OK) m

/-- The key of a stack byte. -/
def memKey (m off : Nat) : Nat := 2 ^ 36 * m + off

/-- The key of a stack line. -/
def lineKey (m line : Nat) : Nat := 2 ^ 30 * m + line

/-- Bytes of a stack as stored; a stack out of service reads zeros (R193). -/
def physBytes (s : State) (m off n : Nat) : List Byte :=
  if stackOk s m then (List.range n).map (fun i => mapGet 0 s.mem (memKey m (off + i))) else List.replicate n 0

/-- The poison bit of a line; a stack out of service reads poisoned (R193). -/
def physPoison (s : State) (m line : Nat) : Bool := !stackOk s m || mapGet false s.memPoison (lineKey m line)

/-- Store bytes of one line and set its poison bit by R190. -/
def physPut (m off : Nat) (bs : List Byte) (poison : Bool) (s : State) : State :=
  if !stackOk s m then s else
  let line := off / 64
  let p := poison || (mapGet false s.memPoison (lineKey m line) && bs.length < 64)
  { s with
    mem := (List.range bs.length).foldl (fun a i => mapSet 0 a (memKey m (off + i)) (bs.getD i 0)) s.mem
    memPoison := mapSet false s.memPoison (lineKey m line) p }

/-- The pieces of a range that lie in one line each: address and length. -/
def linePieces (addr len : Nat) : List (Nat × Nat) :=
  if len = 0 then [] else
  let l0 := addr / 64
  let l1 := (addr + len - 1) / 64
  (List.range (l1 - l0 + 1)).map (fun i =>
    let a := if i = 0 then addr else (l0 + i) * 64
    let b := if l0 + i = l1 then addr + len else (l0 + i + 1) * 64
    (a, b - a))

/-- Live bytes at a device address. -/
def devBytes (s : State) (addr len : Nat) : List Byte :=
  ((linePieces addr len).map (fun p => let (m, o) := locate s p.1; physBytes s m o p.2)).flatten

/-- Whether any line of a device range is poisoned. -/
def devPoison (s : State) (addr len : Nat) : Bool :=
  (linePieces addr len).any (fun p => let (m, o) := locate s p.1; physPoison s m (o / 64))

/-! ## Pages, holds and copy-on-write (R341 to R344) -/

/-- The listed bytes and poisoned lines of a page, by offset in the page. -/
def pageNow (s : State) (page : Nat) : SMap Byte × SMap Bool :=
  let parts := (List.range 16).map (fun i =>
    let (m, o) := locate s (page * 65536 + i * 4096)
    ((s.mem.filter (fun (e : Nat × Byte) => decide (memKey m o ≤ e.1) && decide (e.1 < memKey m o + 4096))).map
        (fun (e : Nat × Byte) => (e.1 - memKey m o + i * 4096, e.2)),
     (s.memPoison.filter (fun (e : Nat × Bool) => decide (lineKey m (o / 64) ≤ e.1) && decide (e.1 < lineKey m (o / 64) + 64))).map
        (fun (e : Nat × Bool) => (e.1 - lineKey m (o / 64) + i * 64, e.2))))
  ((parts.map (·.1)).flatten, (parts.map (·.2)).flatten)

/-- The held versions of a page. -/
def heldOf (s : State) (page : Nat) : List HeldPage := s.held.filter (fun h => h.page == page)

/-- The different contents among held versions of a page that differ from the live one. -/
def distinctHeld (s : State) (page : Nat) : List (SMap Byte × SMap Bool) :=
  (((heldOf s page).map (fun h => (h.bytes, h.poison))).eraseDups).filter (fun v => v != pageNow s page)

/-- The stacks that a page's bytes lie in, each with how many of its sixteen 4 KiB grains: a fresh copy of the page draws so
many on the reserve of each (R184, R341; log entry 12). -/
def pageShares (s : State) (page : Nat) : List (Nat × Nat) :=
  let ms := (List.range 16).map (fun i => (locate s (page * 65536 + i * 4096)).1)
  ms.eraseDups.map (fun m => (m, (ms.filter (· == m)).length))

/-- 4 KiB grains of a device range that lie in stack `m`. -/
def grainsIn (s : State) (m base len : Nat) : Nat :=
  (List.range 1024).foldl (fun acc g =>
    let lo := max base (g * 2 ^ 30)
    let hi := min (base + len) ((g + 1) * 2 ^ 30)
    if hi ≤ lo then acc else
    let k0 := (lo - g * 2 ^ 30) / 4096
    let k1 := (hi - g * 2 ^ 30 + 4095) / 4096
    let count := fun (q i : Nat) => (k1 + q - 1 - i) / q - (k0 + q - 1 - i) / q
    let unit := fget s F.MEM_GMAP.UNIT g
    match fget s F.MEM_GMAP.MODE g with
    | 0 => if unit = m then acc + (k1 - k0) else acc
    | 1 => acc + ((List.range 4).foldl (fun a i => if pairStack unit i = m then a + count 4 i else a) 0)
    | _ => acc + count 16 (m % 16)) 0

/-- 4 KiB grains of stack `m` in the store room's copy-on-write reserve: store-room frames not used by the buddy region, the
long-reach pools and the stow and re-binding areas (R361). -/
def reserveGrains (s : State) (m : Nat) : Nat :=
  let store := (List.range 1024).foldl (fun acc g =>
    if fbit s F.MEM_GMAP.VALID g && fbit s F.MEM_GMAP.STORE g then acc + grainsIn s m (g * 2 ^ 30) (2 ^ 30) else acc) 0
  let used :=
    grainsIn s m (fget s F.STR_BUDDY_BASE.ADDR * 4096)
      (fget s F.STR_BUDDY_CFG.SLOTS * fget s F.STR_BUDDY_CFG.SLOT_GIB * 2 ^ 30) +
    grainsIn s m (fget s F.TEN_STOW_BASE.ADDR * 4096) (fget s F.TEN_STOW_CFG.ENTRIES * 2 ^ 22) +
    (if fget s F.TEN_REBIND_BASE.ADDR = 0 then 0 else grainsIn s m (fget s F.TEN_REBIND_BASE.ADDR * 4096) (96 * 2 ^ 20)) +
    (List.range 36).foldl (fun a p =>
      a + grainsIn s m (fget s F.LNK_LR_BASE.ADDR p * 4096) (fget s F.LNK_LR_CFG.SIZE_MIB p * 2 ^ 20)) 0
  store - used

/-- Pages of stack `m` in the copy-on-write reserve. -/
def reservePages (s : State) (m : Nat) : Nat := reserveGrains s m / 16

/-- Grains that held versions take from stack `m`'s reserve: of each version that differs from the live one, those that lie
in the stack. -/
def grainsTaken (s : State) (m : Nat) : Nat :=
  ((s.held.map (·.page)).eraseDups).foldl (fun a p =>
    a + (distinctHeld s p).length * (((pageShares s p).find? (fun x => x.1 == m)).getD (m, 0)).2) 0

/-- Free grains of a stack's reserve. -/
def grainsFree (s : State) (m : Nat) : Nat := reserveGrains s m - grainsTaken s m

/-- Free pages of a stack's reserve (`STR_COW`). -/
def cowFree (s : State) (m : Nat) : Nat := grainsFree s m / 16

/-- Whether the reserve of some stack of a page has no room for a fresh copy of its share. -/
def reserveEmpty (s : State) (page : Nat) : Bool := (pageShares s page).any (fun x => decide (grainsFree s x.1 < x.2))

/-- The device page that a stack byte belongs to, by the valid granule that maps it. -/
def pageAt (s : State) (m off : Nat) : Option Nat :=
  (List.range 1024).findSome? (fun g =>
    if !fbit s F.MEM_GMAP.VALID g then none else
    let base := fget s F.MEM_GMAP.FRAME g * 2 ^ 26
    let unit := fget s F.MEM_GMAP.UNIT g
    if off < base then none else
    let d := off - base
    let o := match fget s F.MEM_GMAP.MODE g with
      | 0 => if unit = m then some d else none
      | 1 => match (List.range 4).find? (fun i => pairStack unit i == m) with
        | some i => some ((d / 4096 * 4 + i) * 4096 + d % 4096)
        | none => none
      | _ => some ((d / 4096 * 16 + m) * 4096 + d % 4096)
    match o with
    | some o => if o < 2 ^ 30 then some ((g * 2 ^ 30 + o) / 65536) else none
    | none => none)

/-- Whether a write must wait: it would give its page a third held version (R343: false), or it needs a fresh page and the
reserve of a stack it lies in is empty (R344: true). -/
def cowBlock (s : State) (m off : Nat) (bs : List Byte) : Option Bool :=
  if s.held.isEmpty then none else
  match pageAt s m off with
  | none => none
  | some page =>
    if (heldOf s page).isEmpty || physBytes s m off bs.length == bs then none else
    let all := ((heldOf s page).map (fun h => (h.bytes, h.poison))).eraseDups
    let shared := all.any (fun v => v == pageNow s page)
    if !shared then none
    else if 2 < all.length then some false
    else if reserveEmpty s page then some true
    else none

/-- A write of bytes of one line to a stack (R190), through copy-on-write; a write that must wait is counted (R344, R363)
and kept by the stack behind the writes that already wait, with the step `own` that it belongs to. -/
def stackWriteFor (own : Option (Nat × DWord)) (m off : Nat) (bs : List Byte) (poison : Bool) (s : State) : State :=
  if !stackOk s m then s else
  let q := (stackOf s m).waitCow
  match cowBlock s m off bs with
  | some _ =>
    let s1 := fbump F.STR_COW_WAIT.COUNT 0 0 s
    modStack m (fun k => { k with waitCow := k.waitCow ++ [(off, bs, poison, own)] }) s1
  | none =>
    if q.any (fun w => w.1 / 64 == off / 64) then
      modStack m (fun k => { k with waitCow := k.waitCow ++ [(off, bs, poison, own)] }) s
    else physPut m off bs poison s

/-- A write of bytes of one line to a stack that belongs to no step. -/
def stackWrite (m off : Nat) (bs : List Byte) (poison : Bool) (s : State) : State := stackWriteFor none m off bs poison s

/-- Bytes written at a device address with poison by line, for a step. -/
def devWritePFor (own : Option (Nat × DWord)) (addr : Nat) (bs : List Byte) (poison : Nat → Bool) (s : State) : State :=
  (linePieces addr bs.length).foldl (fun a p =>
    let (m, o) := locate a p.1
    stackWriteFor own m o ((bs.drop (p.1 - addr)).take p.2) (poison (p.1 / 64)) a) s

/-- Bytes written at a device address for a step. -/
def devWriteFor (own : Option (Nat × DWord)) (addr : Nat) (bs : List Byte) (poison : Bool) (s : State) : State :=
  devWritePFor own addr bs (fun _ => poison) s

/-- Bytes written at a device address. -/
def devWrite (addr : Nat) (bs : List Byte) (poison : Bool) (s : State) : State := devWriteFor none addr bs poison s

/-- Bytes written at a device address with poison by line. -/
def devWriteP (addr : Nat) (bs : List Byte) (poison : Nat → Bool) (s : State) : State := devWritePFor none addr bs poison s

/-- Whether a write to a device range still waits in its stack (R343, R344). -/
def devWaits (s : State) (addr len : Nat) : Bool :=
  (linePieces addr len).any (fun p => let (m, o) := locate s p.1; (stackOf s m).waitCow.any (fun w => w.1 / 64 == o / 64))

/-- Whether a write of a step still waits for a page (R343). -/
def stepWaits (s : State) (slot : Nat) (t : DWord) : Bool :=
  s.cellars.any (fun (e : Nat × Stack) => e.2.waitCow.any (fun w => w.2.2.2 == some (slot, t)))

/-- The waiting writes of a step dropped: it is to run again (R374). -/
def dropWaits (slot : Nat) (t : DWord) (s : State) : State :=
  if !stepWaits s slot t then s else
  { s with cellars := s.cellars.map (fun (e : Nat × Stack) =>
      (e.1, { e.2 with waitCow := e.2.waitCow.filter (fun w => w.2.2.2 != some (slot, t)) })) }

/-- The held version of a page that a read by a task of step `t` returns (R342). -/
def heldFor (s : State) (slot : Nat) (t : DWord) (page : Nat) : Option HeldPage :=
  s.held.find? (fun h => h.page == page && h.slot == slot && h.step == t && !h.isCut)

/-- The bytes a task of step `t` reads at a device address (R342), with the poison of the lines. -/
def stepBytes (s : State) (slot : Nat) (t : DWord) (addr len : Nat) : List Byte × Bool :=
  let parts := (linePieces addr len).map (fun p =>
    match heldFor s slot t (p.1 / 65536) with
    | some h => ((List.range p.2).map (fun i => mapGet 0 h.bytes (p.1 % 65536 + i)), mapGet false h.poison (p.1 % 65536 / 64))
    | none => let (m, o) := locate s p.1; (physBytes s m o p.2, physPoison s m (o / 64)))
  ((parts.map (·.1)).flatten, parts.any (·.2))

/-- Place a hold on a page: its present content becomes a held version. -/
def holdPage (slot : Nat) (t : DWord) (isCut : Bool) (page : Nat) (s : State) : State :=
  if s.held.any (fun h => h.page == page && h.slot == slot && h.step == t && h.isCut == isCut) then s else
  let (b, p) := pageNow s page
  { s with held := s.held ++ [{ slot := slot, step := t, isCut := isCut, page := page, bytes := b, poison := p }] }

/-- The held version that step `t` keeps of a range's lines takes their present content: that range was written by an update
of the step before (R342). -/
def refreshHeld (slot : Nat) (t : DWord) (r : Nat × Nat) (s : State) : State :=
  if (heldFor s slot t (r.1 / 65536)).isNone && r.2 ≤ (r.1 / 65536 + 1) * 65536 then s else
  let ps := (linePieces r.1 (r.2 - r.1)).map (fun p => let (m, o) := locate s p.1
    (p.1, physBytes s m o p.2, physPoison s m (o / 64)))
  { s with held := s.held.map (fun h =>
      if h.isCut || h.slot != slot || h.step != t then h else
      (ps.filter (fun p => p.1 / 65536 == h.page)).foldl (fun g p =>
        { g with
          bytes := (List.range p.2.1.length).foldl (fun a i => mapSet 0 a (p.1 % 65536 + i) (p.2.1.getD i 0)) g.bytes
          poison := mapSet false g.poison (p.1 % 65536 / 64) p.2.2 }) h) }

/-- The pages of a range. -/
def pagesOf (addr len : Nat) : List Nat :=
  if len = 0 then [] else (List.range ((addr + len - 1) / 65536 - addr / 65536 + 1)).map (· + addr / 65536)

/-- Return a page's live content to a held version. -/
def restorePage (h : HeldPage) (s : State) : State :=
  (List.range 1024).foldl (fun a l =>
    let addr := h.page * 65536 + l * 64
    let (m, o) := locate a addr
    let bs := (List.range 64).map (fun i => mapGet 0 h.bytes (l * 64 + i))
    physPut m o bs (mapGet false h.poison l) a) s

/-! ## Host memory -/

/-- Host bytes by DMA. -/
def hostBytes (s : State) (addr len : Nat) : List Byte := (List.range len).map (fun i => mapGet 0 s.host (addr + i))

/-- Whether host read data in a range carries poison. -/
def hostPoisoned (s : State) (addr len : Nat) : Bool :=
  (linePieces addr len).any (fun p => mapGet false s.hostPoison (p.1 / 64))

/-- Host bytes written by DMA; a 64-byte piece may be marked poisoned. -/
def hostWrite (addr : Nat) (bs : List Byte) (poison : Nat → Bool) (s : State) : State :=
  { s with
    host := (List.range bs.length).foldl (fun a i => mapSet 0 a (addr + i) (bs.getD i 0)) s.host
    hostPoison := (linePieces addr bs.length).foldl (fun a p => mapSet false a (p.1 / 64) (poison (p.1 / 64))) s.hostPoison }

end Sys2Proof.Machine
end

