-- ==== Sys2Proof/Machine/Net.lean ====
section
/-! DEFINITION. The source side of packets: routes (R305), flows and their numbering (R311, R337), packets cut into flits
(R274), and control packets on VC0 (R275, R310). -/

namespace Sys2Proof.Machine

/-- This device's node ID. -/
def ownNode (s : State) : Nat := fget s F.COL_NODE.NODE_ID

/-- A port's state code (R285). -/
def portState (s : State) (p : Nat) : Nat := fget s F.LNK_STAT.STATE p

/-- Whether a port is UP. -/
def portUp (s : State) (p : Nat) : Bool := portState s p == 3

/-- Whether the port moves data: UP or DRAINING. -/
def portMoves (s : State) (p : Nat) : Bool := portState s p == 3 || portState s p == 4

/-- The effective routing weight of a port: halved at width 4, rounded up (R305). -/
def effWeight (s : State) (p : Nat) : Nat :=
  let w := fget s F.RT_PWT.WEIGHT p
  if fbit s F.RT_PWT.HALVED p then (w + 1) / 2 else w

/-- The port toward a node (R305); none where no route exists. -/
def route (s : State) (dst : Nat) (here : Bool) (k : FlowKey) : Option Nat :=
  let own := ownNode s
  let g := dst / 32
  let m := dst % 32
  if dst = own then none
  else if g = own / 32 || m != own % 32 then
    let p := fget s F.RT_DIRECT.PORT m
    if fbit s F.RT_DIRECT.VALID m && portUp s p then some p
    else
      let q := fget s F.RT_DIRECT.PORT (fget s F.RT_DIRECT.ALT m)
      if here && fbit s F.RT_DIRECT.ALT_VALID m && portUp s q then some q else none
  else if !fbit s F.RT_RAIL.VALID g then none
  else
    let pa := fget s F.RT_RAIL.PORT_A g
    let pb := fget s F.RT_RAIL.PORT_B g
    let a := if portUp s pa then effWeight s pa else 0
    let b := if fbit s F.RT_RAIL.B_VALID g && portUp s pb then effWeight s pb else 0
    if a + b = 0 then none
    else
      let h := mix64 (dw (k.src.toNat * 2 ^ 48 + k.dst.toNat * 2 ^ 32 + k.vc.val * 2 ^ 16 + k.flow.toNat))
      if h.toNat % (a + b) < a then some pa else some pb

/-! ## Packets and flits (R272, R274) -/

/-- Flits of a payload of `n` bytes. -/
def flitsOf (n : Nat) : Nat := (n + 16 + 127) / 128

/-- The 16-byte packet header (R274). -/
def pktHeader (k : Pkt) : List Byte :=
  let n := k.payload.length
  let f := flitsOf n
  leBytes 1 k.ptype ++ leBytes 1 f ++ leBytes 2 k.key.dst.toNat ++ leBytes 2 k.key.src.toNat ++
    leBytes 2 k.key.flow.toNat ++ leBytes 2 (k.tag % 4096 + b2n k.tagged * 2 ^ 15) ++ leBytes 4 k.e2e ++
    leBytes 1 (f * 128 - 16 - n) ++ leBytes 1 0

/-- Where flit `i` of a packet is re-read from: its payload from byte `j` on lies at address `a`. -/
def flitSrc (n i : Nat) (x : Nat × Nat) : Option (Nat × Nat × Nat) :=
  let lo := max (128 * i) (16 + x.2)
  let hi := min (128 * i + 128) (16 + n)
  if hi ≤ lo then none else some (x.1 + (lo - 16 - x.2), lo - 128 * i, hi - lo)

/-- The flits of a packet. -/
def pktFlits (k : Pkt) : List Flit :=
  let f := flitsOf k.payload.length
  let body := padTo (f * 128) (pktHeader k ++ k.payload)
  (List.range f).map (fun i =>
    { vc := k.key.vc.val, sop := i == 0, eop := i + 1 == f, retx := false, shr := false,
      poison := BitVec.ofNat 2 (b2n (k.poison.getD (2 * i) false) + 2 * b2n (k.poison.getD (2 * i + 1) false)),
      seq := 0, body := (body.drop (128 * i)).take 128, ref := k.ref
      src := match k.src with | some x => flitSrc k.payload.length i x | none => none
      owed := none, pool := none })

/-- The packet that whole flits spell. -/
def flitsPkt (fl : List Flit) : Option Pkt :=
  match fl with
  | [] => none
  | h :: _ =>
    let body := (fl.map (·.body)).flatten
    let n := fl.length * 128 - 16 - getLE body 14 1
    some
      { ptype := getLE body 0 1
        key := { src := BitVec.ofNat 14 (getLE body 4 2), dst := BitVec.ofNat 14 (getLE body 2 2),
                 vc := Fin.ofNat 8 h.vc, flow := BitVec.ofNat 16 (getLE body 6 2) }
        tag := getLE body 8 2 % 4096, tagged := bitAt (getLE body 8 2) 15, e2e := getLE body 10 4
        payload := (body.drop 16).take n
        poison := (fl.map (fun f => [f.poison.getLsbD 0, f.poison.getLsbD 1])).flatten
        ref := false, src := none }

/-- Whether a piece of a packet's payload carries poison: the halves of the flits that hold it (R272). -/
def payloadPoison (k : Pkt) (off len : Nat) : Bool :=
  if len = 0 then false
  else (List.range ((off + 16 + len - 1) / 64 - (off + 16) / 64 + 1)).any (fun i => k.poison.getD ((off + 16) / 64 + i) false)

/-- Poison of a packet's halves from the poison of its payload's bytes. -/
def halvesOf (n : Nat) (p : Nat → Bool) : List Bool :=
  (List.range (2 * flitsOf n)).map (fun h =>
    (List.range 64).any (fun i => 16 ≤ 64 * h + i && 64 * h + i < n + 16 && p (64 * h + i - 16)))

/-- A one-flit control packet of VC0 (R275). -/
def vc0Flit (body : List Byte) : Flit :=
  { vc := 0, sop := true, eop := true, retx := false, shr := false, poison := 0, seq := 0, body := body, ref := false
    src := none, owed := none, pool := none }

/-- Flits put at the end of a port's queue of their VC. -/
def enqueueFlits (p : Nat) (fl : List Flit) (s : State) : State :=
  match fl with
  | [] => s
  | f :: _ => modPort p (fun k =>
      let t := (mapFind k.tx f.vc).getD TxVc.empty
      { k with tx := mapPut k.tx f.vc { t with queue := t.queue ++ fl } }) s

/-! ## Flows (R311, R337) -/

/-- The source side of a flow. -/
def flowTx? (s : State) (k : FlowKey) : Option FlowTx := (s.flowsTx.find? (fun e => e.1 == k)).map (·.2)

/-- The destination side of a flow. -/
def flowRx? (s : State) (k : FlowKey) : Option FlowRx := (s.flowsRx.find? (fun e => e.1 == k)).map (·.2)

/-- A list of keyed entries with one set. -/
def assocSet {α : Type} (k : FlowKey) (v : α) : List (FlowKey × α) → List (FlowKey × α)
  | [] => [(k, v)]
  | e :: t => if e.1 == k then (k, v) :: t else e :: assocSet k v t

/-- `s` with the source side of a flow set. -/
def setFlowTx (k : FlowKey) (v : FlowTx) (s : State) : State := { s with flowsTx := assocSet k v s.flowsTx }

/-- `s` with the destination side of a flow set. -/
def setFlowRx (k : FlowKey) (v : FlowRx) (s : State) : State := { s with flowsRx := assocSet k v s.flowsRx }

/-- A flow at its first packet. -/
def FlowTx.fresh (pinned : Option Nat) : FlowTx :=
  { next := 0, acked := 0, kept := [], port := none, pinned := pinned, held := [], pathDue := false, breach := none,
    closedAt := 0 }

/-- The path a flow would take now: its pinned port, or the route. -/
def flowPath (s : State) (k : FlowKey) (t : FlowTx) : Option Nat :=
  match t.pinned with
  | some p => if portUp s p then some p else none
  | none => route s k.dst.toNat true k

/-- A packet of a flow numbered, kept and put on its path; a flow whose path changes holds it until it closes, and so does
one that still holds earlier packets (R333, R337). -/
def flowSend (pk : Pkt) (t : FlowTx) (s : State) : State :=
  let k := pk.key
  let path := flowPath s k t
  if !t.held.isEmpty || (!t.kept.isEmpty && path != t.port) then
    setFlowTx k { t with held := t.held ++ [pk], pathDue := true } s
  else
    let pk' := { pk with e2e := t.next }
    let t' := { t with next := (t.next + 1) % 2 ^ 32, kept := t.kept ++ [pk'], port := path }
    let s1 := setFlowTx k t' s
    match path with
    | some p => enqueueFlits p (pktFlits pk') s1
    | none => s1

/-- A packet from this device. One for this device itself goes straight to delivery. A packet of a new flow that finds
the flow table full waits (R311). -/
def sendPktOn (pinned : Option Nat) (pk : Pkt) (s : State) : State :=
  if pk.key.dst == pk.key.src then { s with deliver := s.deliver ++ [pk] } else
  match flowTx? s pk.key with
  | some t => flowSend pk t s
  | none =>
    if 65536 ≤ s.flowsTx.length then { s with flowWait := s.flowWait ++ [(pk, pinned)] }
    else flowSend pk (FlowTx.fresh pinned) s

/-- A packet built and sent. -/
def sendData (ptype vc dst flow : Nat) (payload : List Byte) (poison : Nat → Bool) (src : Option (Nat × Nat)) (s : State) : State :=
  sendPktOn none
    { ptype := ptype
      key := { src := BitVec.ofNat 14 (ownNode s), dst := BitVec.ofNat 14 dst, vc := Fin.ofNat 8 vc, flow := BitVec.ofNat 16 flow }
      tag := 0, tagged := true, e2e := 0, payload := payload, poison := halvesOf payload.length poison
      ref := src.isSome, src := src } s

/-- A closed flow takes up its new path and sends what it held (R337). -/
def flowReopen (k : FlowKey) (s : State) : State :=
  match flowTx? s k with
  | none => s
  | some t =>
    if t.kept.isEmpty && t.pathDue then
      let t0 := { t with held := [], pathDue := false }
      t.held.foldl (fun a pk => match flowTx? a k with
        | some u => flowSend pk u a
        | none => a) (setFlowTx k t0 s)
    else s

/-- A control packet on VC0 toward a node, along the route from here; its last four body bytes name the node it goes to and
the node that sends it (log entry 13). -/
def sendCtl (dst : Nat) (body : List Byte) (s : State) : State :=
  let k : FlowKey := { src := BitVec.ofNat 14 (ownNode s), dst := BitVec.ofNat 14 dst, vc := 0, flow := 0 }
  match route s dst true k with
  | some p => enqueueFlits p
      [vc0Flit (padTo 124 body ++ leBytes 2 dst ++ leBytes 2 (ownNode s))] s
  | none => s

/-- The collective of a packet counts a packet resent (R330). -/
def noteResent (pk : Pkt) (s : State) : State :=
  if pk.ptype != 2 && pk.ptype != 3 then s else
  { s with colls := s.colls.map (fun k =>
      if k.cctx = pk.key.flow.toNat && k.seq.toNat = getLE pk.payload 0 4 && k.step.toNat = getLE pk.payload 4 8
      then { k with resent := k.resent + 1 } else k) }

/-- An unacknowledged packet put on a path again (R313). -/
def resendOn (p : Option Nat) (pk : Pkt) (s : State) : State :=
  match p with
  | some p => noteResent pk (fbump F.COL_RETX.COUNT 0 0 (enqueueFlits p (pktFlits pk) s))
  | none => s

/-- Every unacknowledged packet of a flow from a sequence on resent, on the flow's present path while its port moves data
(R313, R337). -/
def flowResend (k : FlowKey) (fromSeq : Nat) (s : State) : State :=
  match flowTx? s k with
  | none => s
  | some t =>
    let path := match t.port with
      | some p => if portMoves s p then some p else flowPath s k t
      | none => flowPath s k t
    let go := t.kept.filter (fun pk => (pk.e2e + 2 ^ 32 - fromSeq) % 2 ^ 32 < 2 ^ 31)
    go.foldl (fun a pk => resendOn path pk a) (setFlowTx k { t with port := path } s)

end Sys2Proof.Machine
end

