-- ==== Sys2Proof/Machine/Reply.lean ====
section
/-! DEFINITION. Command packets as bytes and words, replies, and the ways they travel: outbound mailbox, completion ring,
MCTP (R409 to R419, R434). -/

namespace Sys2Proof.Machine

/-! ## Status codes (R423) -/

/-- OK. -/
abbrev stOk : Nat := 0x0000
/-- BUSY. -/
abbrev stBusy : Nat := 0x0001
/-- QUEUED. -/
abbrev stQueued : Nat := 0x0002
/-- BAD_OPCODE. -/
abbrev stBadOpcode : Nat := 0x0101
/-- NO_CONTEXT. -/
abbrev stNoContext : Nat := 0x0102
/-- BAD_PARAM. -/
abbrev stBadParam : Nat := 0x0103
/-- REFUSED_LOCKED. -/
abbrev stLocked : Nat := 0x0201
/-- LOG_FULL. -/
abbrev stLogFull : Nat := 0x0202
/-- NOT_READY. -/
abbrev stNotReady : Nat := 0x0301
/-- MON_VOID. -/
abbrev stMonVoid : Nat := 0x0302
/-- POISONED. -/
abbrev stPoisoned : Nat := 0x0401
/-- REPLAYED. -/
abbrev stReplayed : Nat := 0x0402
/-- TERMINATED. -/
abbrev stTerminated : Nat := 0x0403
/-- PROMISE_BREACH. -/
abbrev stBreach : Nat := 0x0501

/-! ## Packets (R416) -/

/-- Parameter word P`n`, 0 beyond the packet. -/
def par (pk : Packet) (n : Nat) : Nat := (pk.ps.getD n 0).toNat

/-- Two parameter words as one number. -/
def par2 (pk : Packet) (n : Nat) : Nat := par pk n + 2 ^ 32 * par pk (n + 1)

/-- The 64 bytes of a packet (R416). -/
def packetBytes (pk : Packet) : List Byte :=
  leBytes 2 pk.opcode.toNat ++ leBytes 2 pk.flags.toNat ++ leBytes 2 pk.ctx.toNat ++ leBytes 2 pk.tag.toNat ++
    leBytes 8 pk.extAddr.toNat ++ leBytes 2 pk.extLen.toNat ++ leBytes 2 pk.reserved.toNat ++
    ((List.range 11).map (fun i => leBytes 4 (par pk i))).flatten

/-- A packet read from 64 bytes. -/
def parsePacket (bs : List Byte) : Packet :=
  { opcode := BitVec.ofNat 16 (getLE bs 0 2), flags := BitVec.ofNat 16 (getLE bs 2 2), ctx := BitVec.ofNat 16 (getLE bs 4 2),
    tag := BitVec.ofNat 16 (getLE bs 6 2), extAddr := dw (getLE bs 8 8), extLen := BitVec.ofNat 16 (getLE bs 16 2),
    reserved := BitVec.ofNat 16 (getLE bs 18 2), ps := (List.range 11).map (fun i => wd (getLE bs (20 + 4 * i) 4)) }

/-- Flag `NOTIFY` of a packet. -/
def pkNotify (pk : Packet) : Bool := bitAt pk.flags.toNat 0

/-- The function a command comes from; 0 for MCTP, which has F0's rights by the register-access command (R407). -/
def srcFn : CmdSrc → Nat
  | .mailbox f => f.val
  | .ring f _ => f.val
  | .mctp _ => 0

/-- Whether a command came by MCTP. -/
def isMctp : CmdSrc → Bool
  | .mctp _ => true
  | _ => false

/-! ## Replies (R417, R418) -/

/-- The 64 bytes of a reply. -/
def replyBytes (status : Nat) (pk : Packet) (flags ring : Nat) (ys : List Word) : List Byte :=
  leBytes 2 status ++ leBytes 2 pk.tag.toNat ++ leBytes 2 pk.ctx.toNat ++ leBytes 2 pk.opcode.toNat ++
    leBytes 1 flags ++ leBytes 1 ring ++ leBytes 2 0 ++ ((List.range 13).map (fun i => leBytes 4 (ys.getD i 0).toNat)).flatten

/-- Entries of ring `r` of function `f`. -/
def ringSize (s : State) (f r : Nat) : Nat := 2 ^ fget s F.RING_CFG.SIZE_LOG2 f r

/-- Free entries of a completion ring, one entry always unused (R413). -/
def cqFree (s : State) (f r : Nat) : Nat :=
  let n := ringSize s f r
  (fget s F.RING_CQ_DB.INDEX f r + n - fget s F.RING_STAT.CQ_TAIL f r + n - 1) % n

/-- Replies that commands taken from a ring may still write. -/
def cqOwed (s : State) (f r : Nat) : Nat :=
  s.mgmt.taken.foldl (fun a t => match t.src with
    | .ring f' r' => if f'.val = f && r'.val = r && !t.mute then a + (if t.queued then 1 else 2) else a
    | _ => a) 0

/-- A completion entry written at the tail of a ring (R413, R414). -/
def writeCq (f r : Nat) (bs : List Byte) (notify : Bool) (s : State) : State :=
  let n := ringSize s f r
  let t := fget s F.RING_STAT.CQ_TAIL f r
  let base := (rget s .RING_CQ_LO f r).toNat + 2 ^ 32 * (rget s .RING_CQ_HI f r).toNat
  let t' := (t + 1) % n
  let s1 := hostWrite (base + 64 * (t % n)) bs (fun _ => false) s
  let s2 := fset F.RING_STAT.CQ_TAIL f r t' s1
  let s3 := if t' = 0 then fset F.RING_STAT.PHASE f r (1 - fget s F.RING_STAT.PHASE f r) s2 else s2
  if notify then raiseMsix f (4 + r) s3 else s3

/-- A reply placed in an outbound mailbox (R411, R418). -/
def writeMb (f : Nat) (bs : List Byte) (ys : List Word) (s : State) : State :=
  let len := if (ys.drop 5).all (· == 0) then 8 else 16
  let s1 := (List.range 16).foldl (fun a i => rset .MB_OUT f i (wd (if i < len then getLE bs (4 * i) 4 else 0)) a) s
  raiseMsix f 1 (fset F.MB_OSTAT.FULL f 0 1 (fset F.MB_OSTAT.LEN f 0 len s1))

/-- Whether a reply can be written now. -/
def replyRoom (s : State) (src : CmdSrc) : Bool :=
  match src with
  | .mailbox f => !fbit s F.MB_OSTAT.FULL f.val
  | .ring f r => 0 < cqFree s f.val r.val
  | .mctp _ => true

/-- A reply written on the path its command came by. -/
def writeReply (src : CmdSrc) (pk : Packet) (status : Nat) (final failover : Bool) (ys : List Word) (s : State) : State :=
  let fl := 2 * b2n failover + 4 * b2n final
  match src with
  | .mailbox f => writeMb f.val (replyBytes status pk fl 0xFF ys) ys s
  | .ring f r =>
    writeCq f.val r.val (replyBytes status pk (fl + fget s F.RING_STAT.PHASE f.val r.val) r.val ys) (pkNotify pk) s
  | .mctp e =>
    let s1 := modMgmt (fun m => { m with mctpBusy := if final then false else m.mctpBusy }) s
    if fbit s F.SB_STAT.SMB_OFF then s1
    else modMgmt (fun m =>
      { m with mctpOut := m.mctpOut ++ [⟨e, [0x7E#8, 0x0B#8, 0x5A#8] ++ replyBytes status pk fl 0xFF ys⟩] }) s1

/-- Whether a taken command is the one named. -/
def isTaken (src : CmdSrc) (tag : BitVec 16) (t : Taken) : Bool := t.src == src && t.pk.tag == tag

/-- The oldest taken command of a path and tag. -/
def findTaken (s : State) (src : CmdSrc) (tag : BitVec 16) : Option Taken := s.mgmt.taken.find? (isTaken src tag)

/-- `s` with the oldest taken command of a path and tag changed. -/
def modTaken (src : CmdSrc) (tag : BitVec 16) (f : Taken → Taken) (s : State) : State :=
  let go := fun (acc : Bool × List Taken) (t : Taken) =>
    if !acc.1 && isTaken src tag t then (true, acc.2 ++ [f t]) else (acc.1, acc.2 ++ [t])
  modMgmt (fun m => { m with taken := (m.taken.foldl go (false, [])).2 }) s

/-- The taken list without the oldest command of a path and tag. -/
def dropTaken (src : CmdSrc) (tag : BitVec 16) (s : State) : State :=
  match takeFirst? (isTaken src tag) s.mgmt.taken with
  | some (_, l) => modMgmt (fun m => { m with taken := l }) s
  | none => s

/-- The final reply of a taken command that is done: discarded where its replies are (R408), written at once where there is
room, else kept with the command until COMMAND_COMPLETE writes it. -/
def finishTaken (src : CmdSrc) (tag : BitVec 16) (status : Nat) (ys : List Word) (s : State) : State :=
  match findTaken s src tag with
  | none => s
  | some t =>
    if t.mute then dropTaken src tag s
    else if replyRoom s src then dropTaken src tag (writeReply src t.pk status true t.failedOver ys s)
    else modTaken src tag (fun t => { t with final := some (status, ys) }) s

end Sys2Proof.Machine
end

