-- ==== Sys2Proof/Machine/Fabric.lean ====
section
/-! DEFINITION. What the units of a context share: arrival slots, shelf accesses, queues and joins, update firing, tally
contributions, task failure, halts, terminations and replays, and the early end of collectives. -/

namespace Sys2Proof.Machine

/-! ## Cores and steps -/

/-- A physical core in the form of RDOBS selector 0x0001 (R171). -/
def coreCode (c : Nat) : Nat := dieOf c * 512 + c % 272

/-- `s` with the task a core runs changed. -/
def modRun (c : Nat) (f : Run → Run) (s : State) : State := modCore c (fun k => { k with run := k.run.map f }) s

/-- The open step `t` of a context. -/
def stepSt? (x : Ctx) (t : DWord) : Option StepSt := x.steps.find? (fun e => e.num == t)

/-- `s` with an open step of a context changed. -/
def modStep (k : Nat) (t : DWord) (f : StepSt → StepSt) (s : State) : State :=
  modCtx k (fun x => { x with steps := x.steps.map (fun e => if e.num == t then f e else e) }) s

/-- The registers of a context's window that each step reads as they stood when it began (R40, R232). -/
def winRegs : List Reg := [.RNG_SRKEY_LO, .RNG_SRKEY_HI, .RNG_LSKEY_LO, .RNG_LSKEY_HI, .RNG_LS_BASE, .RNG_LS_CNT]

/-- A register of a context's window in force for step `t` (R231, R232): as it stood when the step began. -/
def stepReg (s : State) (slot : Nat) (t : DWord) (r : Reg) : Word :=
  match (match ctxOf s slot with | some x => stepSt? x t | none => none) with
  | some e => (mapFind e.win (regOff r 0 0)).getD (rget s r slot)
  | none => rget s r slot

/-- A field of a register in force for step `t`. -/
def stepFld (s : State) (slot : Nat) (t : DWord) (f : Fld) : Nat := bitsOf (stepReg s slot t f.reg).toNat f.hi f.lo

/-- A 64-bit value of two registers in force for step `t`. -/
def stepReg64 (s : State) (slot : Nat) (t : DWord) (lo hi : Reg) : DWord :=
  dw ((stepReg s slot t lo).toNat + 2 ^ 32 * (stepReg s slot t hi).toNat)

/-- The registers of a context's window as they stand, for the step that begins. -/
def winNow (s : State) (slot : Nat) : SMap Word := winRegs.foldl (fun a r => mapPut a (regOff r 0 0) (rget s r slot)) []

/-- A write of step `t` carried into the cut versions of a context that are to hold what steps up to a later or the same one
leave (R342). -/
def cutPatch (slot : Nat) (t : DWord) (addr : Nat) (bs : List Byte) (poison : Nat → Bool) (s : State) : State :=
  if !s.held.any (fun h => h.isCut) then s else
  (linePieces addr bs.length).foldl (fun a p =>
    { a with held := a.held.map (fun h =>
        if h.isCut && h.slot == slot && t.toNat ≤ h.step.toNat && h.page == p.1 / 65536 then
          let l := p.1 % 65536 / 64
          { h with
            bytes := (List.range p.2).foldl (fun b i => mapSet 0 b (p.1 % 65536 + i) (bs.getD (p.1 - addr + i) 0)) h.bytes
            poison := mapSet false h.poison l (poison (p.1 / 64) || (p.2 < 64 && mapGet false h.poison l)) }
        else h) }) s

/-- Bytes written at a device address as part of step `t`. -/
def stepWrite (slot : Nat) (t : DWord) (addr : Nat) (bs : List Byte) (poison : Bool) (s : State) : State :=
  devWriteFor (some (slot, t)) addr bs poison (cutPatch slot t addr bs (fun _ => poison) s)

/-- Cores whose `CORE_STAT.CTX` names a context slot (R89). -/
def coresOf (s : State) (slot : Nat) : List Nat :=
  (List.range 2176).filter (fun c => fget s F.CORE_STAT.CTX (dieOf c) (c % 272) == slot)

/-- `CORE_STAT` field of a physical core. -/
def cstat (s : State) (f : Fld) (c : Nat) : Nat := fget s f (dieOf c) (c % 272)

/-- The logical core whose queue a core serves (R168, R176). -/
def servedL (s : State) (x : Ctx) (c : Nat) : Option Nat :=
  match lcoreOf x c with
  | some l => if cstat s F.CORE_STAT.LCORE c == l then some l else none
  | none => none

/-- `s` with a field of a core's window set. -/
def setCstat (f : Fld) (c v : Nat) (s : State) : State := fset f (dieOf c) (c % 272) v s

/-- A ready task returns an Idle die to Active (R454). -/
def wakeDie (d : Nat) (s : State) : State := if fget s F.DIE_PWR.STATE d = 1 then fset F.DIE_PWR.STATE d 0 0 s else s

/-- Constant lines of the image a context has bound (R173). -/
def constLines (s : State) (slot : Nat) : Nat :=
  match ctxOf s slot with
  | some x => match x.image with | some im => im.consts.length | none => 0
  | none => 0

/-- The context slot of the task a core runs. -/
def runSlot (k : Core) : Nat := match k.run with | some r => r.task.slot | none => 0xFF

/-! ## Arrival slots (R80) -/

/-- Pending items of an arrival slot. -/
def arrCount (k : Core) (a : Nat) : Nat := mapGet 0 k.arr a

/-- One more pending item. -/
def arrAdd (c a : Nat) (s : State) : State := modCore c (fun k => { k with arr := mapSet 0 k.arr a (arrCount k a + 1) }) s

/-- One item complete. -/
def arrDone (c a : Nat) (s : State) : State := modCore c (fun k => { k with arr := mapSet 0 k.arr a (arrCount k a - 1) }) s

/-! ## Tile-mover descriptors (R142) -/

/-- The fields of a tile-mover descriptor. -/
structure Tmv where
  op : Nat
  flags : Nat
  mfmt : Nat
  sfmt : Nat
  mem : Nat
  msaddr : Nat
  sh : Nat
  shs : Nat
  mstride : Nat
  msstride : Nat
  sstride : Nat
  ssstride : Nat
  rows : Nat
  cols : Nat
  axpos : Nat
  axlen : Nat
  lidx : Nat
  lpitch : Nat
  tag : Nat
  deriving DecidableEq, Repr

/-- A tile-mover descriptor read from its line. -/
def tmvOf (b : List Byte) : Tmv :=
  { op := byteAt b 0, flags := byteAt b 1, mfmt := byteAt b 2, sfmt := byteAt b 3, mem := getLE b 4 5
    msaddr := getLE b 9 5, sh := getLE b 14 2, shs := getLE b 16 2, mstride := getLE b 18 4, msstride := getLE b 22 4
    sstride := getLE b 26 2, ssstride := getLE b 28 2, rows := getLE b 30 4, cols := getLE b 34 4
    axpos := getLE b 38 5, axlen := getLE b 43 5, lidx := getLE b 48 5, lpitch := getLE b 53 5, tag := getLE b 58 3 }

/-- Whether the shelf side is transposed. -/
def Tmv.tr (t : Tmv) : Bool := bitAt t.flags 0
/-- Rows of the shelf side. -/
def Tmv.shRows (t : Tmv) : Nat := if t.tr then t.cols else t.rows
/-- Elements of a shelf-side row. -/
def Tmv.shCols (t : Tmv) : Nat := if t.tr then t.rows else t.cols

/-- Bytes of a row of `n` elements in a format; a block-scaled row holds whole blocks (R60, R143). -/
def rowBytes (f : Fmt) (n : Nat) : Nat :=
  if f.block = 0 then packedLen f.elem.bits n
  else (n + f.block - 1) / f.block * packedLen f.elem.bits f.block

/-- Blocks of a row. -/
def rowBlocks (f : Fmt) (n : Nat) : Nat := if f.block = 0 then 0 else (n + f.block - 1) / f.block

/-- The shelf byte ranges of a descriptor: codes and, where block-scaled, scales. -/
def Tmv.shelfRanges (t : Tmv) : List (Nat × Nat) :=
  match fmtOf (t.sfmt % 32) with
  | none => []
  | some f =>
    let span := fun (base stride len : Nat) => (base * 64, base * 64 + (t.shRows - 1) * stride + len)
    if f.block = 0 then [span t.sh t.sstride (rowBytes f t.shCols)]
    else [span t.sh t.sstride (rowBytes f t.shCols), span t.shs t.ssstride (rowBlocks f t.shCols)]

/-- The byte ranges that rows of `len` bytes take at a stride, without the gaps between them. -/
def rowRanges (base stride len rows : Nat) : List (Nat × Nat) :=
  if stride ≤ len then [(base, base + (rows - 1) * stride + len)]
  else (List.range rows).map (fun r => (base + r * stride, base + r * stride + len))

/-- The memory byte ranges of a descriptor, without stride gaps: codes and, where block-scaled, scales. -/
def Tmv.memRanges (t : Tmv) : List (Nat × Nat) :=
  match fmtOf (t.mfmt % 32) with
  | none => []
  | some f =>
    rowRanges t.mem t.mstride (rowBytes f t.cols) t.rows ++
      (if f.block = 0 then [] else rowRanges t.msaddr t.msstride (rowBlocks f t.cols) t.rows)

/-- Whether two byte ranges (start, end) overlap. -/
def rangesMeet (a b : Nat × Nat) : Bool := a.1 < b.2 && b.1 < a.2

/-! ## The shelf (R138, R149, R150, R152, R157) -/

/-- What a shelf read gives: bytes, poison, unmarked lines met, the first word that fails parity. -/
structure ShelfGot where
  bytes : List Byte
  poison : Bool
  hazards : Nat
  bad : Option Nat
  deriving DecidableEq, Repr

/-- Whether a line reads as written by the present task. -/
def lineMarked (k : Core) (consts line : Nat) : Bool := line < consts || mapGet false k.shelfMark line

/-- A read of shelf bytes; unmarked lines read zeros (R157). -/
def shelfGet (s : State) (c addr n : Nat) : ShelfGot :=
  let k := coreOf s c
  let nc := constLines s (runSlot k)
  let ps := linePieces addr n
  { bytes := (ps.map (fun p =>
      if lineMarked k nc (p.1 / 64) then (List.range p.2).map (fun i => mapGet 0 k.shelf (p.1 + i))
      else List.replicate p.2 0)).flatten
    poison := ps.any (fun p => lineMarked k nc (p.1 / 64) && mapGet false k.shelfPoison (p.1 / 64))
    hazards := (ps.filter (fun p => !lineMarked k nc (p.1 / 64))).length
    bad := (mapKeysIn k.shelfBad (addr / 4) ((addr + n + 3) / 4)).head? }

/-- Unmarked lines counted in `TASK_HAZ` (R157). -/
def countHaz (c n : Nat) (s : State) : State := fbumpBy F.TASK_HAZ.COUNT (dieOf c) 0 n s

/-- Whether a range touches a constant line (R173). -/
def hitsConst (s : State) (c addr n : Nat) : Bool :=
  0 < n && addr / 64 < constLines s (runSlot (coreOf s c))

/-- Bytes of one line written in a core: an unmarked line's other bytes become zero, the line is marked, its words'
parity is set right, and resident entries that hold the line are dropped. -/
def linePut (addr : Nat) (bs : List Byte) (poison : Bool) (consts : Nat) (k : Core) : Core :=
  let line := addr / 64
  if line < consts || 6144 ≤ line then k else
  let base := if mapGet false k.shelfMark line then k.shelf else mapClear k.shelf (64 * line) (64 * line + 64)
  { k with
    shelf := (List.range bs.length).foldl (fun a i => mapSet 0 a (addr + i) (bs.getD i 0)) base
    shelfMark := mapSet false k.shelfMark line true
    shelfPoison := mapSet false k.shelfPoison line poison
    shelfBad := mapClear k.shelfBad (addr / 4) ((addr + bs.length + 3) / 4)
    resident := k.resident.filter (fun r =>
      !((tmvOf r.desc).shelfRanges.any (fun g => rangesMeet g (64 * line, 64 * line + 64)))) }

/-- Bytes written on a core's shelf; constant lines keep their contents. -/
def shelfPut (c addr : Nat) (bs : List Byte) (poison : Bool) (s : State) : State :=
  let nc := constLines s (runSlot (coreOf s c))
  modCore c (fun k => (linePieces addr bs.length).foldl (fun a p =>
    linePut p.1 ((bs.drop (p.1 - addr)).take p.2) poison nc a) k) s

/-- The audit core that mirrors a core's task (R382). -/
def auditOf (s : State) (c : Nat) : Option Nat := match (coreOf s c).run with | some r => r.audit | none => none

/-- Bytes written on a shelf by an agent other than the task's bundles, mirrored on the audit core (R382). -/
def agentPut (c addr : Nat) (bs : List Byte) (poison : Bool) (s : State) : State :=
  let s1 := shelfPut c addr bs poison s
  match auditOf s c with
  | some a => shelfPut a addr bs poison s1
  | none => s1

/-- An item complete, on the audit core too (R382). -/
def agentDone (c a : Nat) (s : State) : State :=
  let s1 := arrDone c a s
  match auditOf s c with
  | some d => arrDone d a s1
  | none => s1

/-- The image's constants placed in a core's first lines (R173). -/
def placeConsts (consts : List (List Byte)) (k : Core) : Core :=
  { k with shelf := (consts.zipIdx).foldl (fun a (l, i) =>
      (List.range 64).foldl (fun b j => mapSet 0 b (64 * i + j) (l.getD j 0)) a) k.shelf }

/-- The shelf zeroed with correct parity, marks, poison and resident entries cleared, items that have not started leave
the queue (R151). -/
def clearShelf (k : Core) : Core :=
  { k with shelf := [], shelfPoison := [], shelfMark := [], shelfBad := [], resident := [], queue := [] }

/-! ## Tally contributions (R34 to R37, R42) -/

/-- A tensor with nothing contributed. -/
def TensorAcc.empty : TensorAcc :=
  { sum := 0, count := 0, firstNf := none, poisoned := false, raises := 0, blocks := [], tiles := [] }

/-- The tally term of an element (R34). -/
def tallyTerm (tag idx bits : Nat) : DWord :=
  mix64 (mix64 (dw (tag * 2 ^ 40) ^^^ dw (idx % 2 ^ 40)) ^^^ dw bits)

/-- The lower of two optional indices. -/
def minOpt (a b : Option Nat) : Option Nat :=
  match a, b with
  | none, y => y
  | x, none => x
  | some x, some y => some (min x y)

/-- One element added to a tensor's contributions. -/
def TensorAcc.add (term : DWord) (nf : Option Nat) (poison : Bool) (block : Option Nat) (a : TensorAcc) : TensorAcc :=
  { a with
    sum := a.sum + term, count := a.count + 1, firstNf := minOpt a.firstNf nf, poisoned := a.poisoned || poison
    blocks := match block with
      | some b => mapPut a.blocks b (mapGet 0 a.blocks b + term)
      | none => a.blocks }

/-- A block's first affected element noted: one tile slot per block, for the lowest index (R42, R116). -/
def addTile (m : List (Nat × Nat × Nat)) (t : Nat × Nat × Nat) : List (Nat × Nat × Nat) :=
  match mapFind m t.1 with
  | some o => if t.2.1 < o.1 then mapPut m t.1 t.2 else m
  | none => mapPut m t.1 t.2

/-- Two tensors' contributions together. -/
def TensorAcc.join (a b : TensorAcc) : TensorAcc :=
  { sum := a.sum + b.sum, count := a.count + b.count, firstNf := minOpt a.firstNf b.firstNf
    poisoned := a.poisoned || b.poisoned, raises := a.raises + b.raises
    blocks := b.blocks.foldl (fun (m : SMap DWord) e => mapPut m e.1 (mapGet 0 m e.1 + e.2)) a.blocks
    tiles := b.tiles.foldl addTile a.tiles }

/-- The contributions under a tag. -/
def accOf (m : SMap TensorAcc) (tag : Nat) : TensorAcc := (mapFind m tag).getD TensorAcc.empty

/-- Contributions of one map added to another. -/
def joinAccs (a b : SMap TensorAcc) : SMap TensorAcc :=
  b.foldl (fun (m : SMap TensorAcc) e => mapPut m e.1 ((accOf m e.1).join e.2)) a

/-- The logical block (R90) of an element of a tensor that a context's image declares (R174); none of another one, nor of a
companion tensor's scales (DESIGN CHOICE, log entry 69). -/
def declaredBlock (s : State) (slot tag idx : Nat) : Option Nat :=
  match (match ctxOf s slot with | some x => x.image | none => none) with
  | none => none
  | some im =>
    match mapFind im.tensors tag with
    | none => none
    | some e =>
      let n := getLE e 8 4
      if n = 0 then none else some (idx / n / 32 * ((n + 31) / 32) + idx % n / 32)

/-- An element written by a task: the task tally takes every write, the partial tally only owned ones (R36, R44, R147). -/
def runTally (own : Bool) (tag idx bits : Nat) (nf poison : Bool) (block : Option Nat) (r : Run) : Run :=
  let t := tallyTerm tag idx bits
  let r1 := { r with regionTally := r.regionTally + t }
  if own then
    let a := (accOf r.regionTens tag).add t (if nf then some idx else none) poison block
    { r1 with regionTens := mapPut r.regionTens tag a }
  else r1

/-- Contributions of the region since the repeat point joined to those that no repeat discards (R107). -/
def settleRegion (r : Run) : Run :=
  { r with tens := joinAccs r.tens r.regionTens, regionTens := [], taskTally := r.taskTally + r.regionTally, regionTally := 0 }

/-- Contributions dropped (R37, R179). -/
def dropTallies (r : Run) : Run := { r with tens := [], regionTens := [], taskTally := 0, regionTally := 0 }

/-- Contributions added to a step's partial tallies on this device. -/
def stepTally (slot : Nat) (t : DWord) (m : SMap TensorAcc) (s : State) : State :=
  modStep slot t (fun e => { e with tens := joinAccs e.tens m }) s

/-! ## Updates: firing (R203, R205, R206) -/

/-- The operand ranges of an update descriptor: start, end, high half of a split operand or low half (R203). -/
def updRanges (b : List Byte) : List (Nat × Nat × Nat) :=
  let n := byteAt b 2
  let e := getLE b 4 5
  ((List.range (min n 8)).map (fun i =>
    let a := getLE b (64 + 16 * i) 5
    let a2 := getLE b (69 + 16 * i) 5
    match fmtOf (byteAt b (74 + 16 * i)) with
    | some f => if f.split then [(a, a + 2 * e, 1), (a2, a2 + 2 * e, 2)] else [(a, a + f.elem.bits / 8 * e, 0)]
    | none => [])).flatten

/-- Resident entries that overlap a memory range dropped on every core (R150). -/
def dropResident (slot : Nat) (rs : List (Nat × Nat)) (s : State) : State :=
  { s with cores := s.cores.map (fun (e : Nat × Core) => (e.1, { e.2 with
      resident := e.2.resident.filter (fun r =>
        !(r.slot == slot && (tmvOf r.desc).memRanges.any (fun g => rs.any (rangesMeet g)))) })) }

/-- A trigger event of step `t` reaches a descriptor: it fires for its armed step, and one that awaits its re-arm keeps
the event of the next step (R205, R211). -/
def fireUpd (m num : Nat) (t : DWord) (s : State) : State :=
  match mapFind (stackOf s m).descs num with
  | none => s
  | some d =>
    if t = d.armed && !d.fired then
      let s1 := modStack m (fun k =>
        { k with descs := mapPut k.descs num { d with fired := true }, fires := k.fires ++ [num] }) s
      dropResident d.slot ((updRanges d.bytes).map (fun r => (r.1, r.2.1))) s1
    else if t = d.armed + 1 && bitAt (byteAt d.bytes 1) 0 then
      modStack m (fun k => { k with descs := mapPut k.descs num { d with keptFire := true } }) s
    else s

/-- Every descriptor of a context whose trigger `p` names fires, in stack and number order. -/
def fireWhere (slot : Nat) (t : DWord) (p : List Byte → Bool) (s : State) : State :=
  (List.range 16).foldl (fun a m =>
    (stackOf a m).descs.foldl (fun b e => if e.2.slot == slot && p e.2.bytes then fireUpd m e.1 t b else b) a) s

/-! ## Queues, gates and joins (R159 to R161) -/

/-- The queue of a logical core. -/
def queueOf (x : Ctx) (l : Nat) : List Task := (mapFind x.queues l).getD []

/-- The overflow tasks of a logical core. -/
def overOf (x : Ctx) (l : Nat) : List Task := (mapFind x.overflow l).getD []

/-- Tasks on the die for a queue, gate-pool entries among them. -/
def onDie (x : Ctx) (l : Nat) : Nat := (queueOf x l).length + (x.gated.filter (fun g => g.2.1 == l)).length

/-- All tasks in the overflow ring. -/
def overTotal (x : Ctx) : Nat := x.overflow.foldl (fun a e => a + e.2.length) 0

/-- A ready task placed on a queue, at its head or tail; beyond 256 tasks the last one is in the overflow ring. -/
def queueTask (l : Nat) (head : Bool) (t : Task) (x : Ctx) : Ctx :=
  let q := queueOf x l
  let o := overOf x l
  if head then
    if onDie x l < 256 then { x with queues := mapPut x.queues l (t :: q) }
    else match unsnoc? q with
      | some (q', z) => { x with queues := mapPut x.queues l (t :: q'), overflow := mapPut x.overflow l (z :: o) }
      | none => { x with overflow := mapPut x.overflow l (t :: o) }
  else if o.isEmpty && onDie x l < 256 then { x with queues := mapPut x.queues l (q ++ [t]) }
  else { x with overflow := mapPut x.overflow l (o ++ [t]) }

/-- The count of a join counter in the bank of a step. -/
def joinOf (x : Ctx) (t : DWord) (n : Nat) : Nat := mapGet 0 x.joins (4096 * (t.toNat % 2) + n)

/-- Whether the trigger of a descriptor has come already in its armed step (R203). -/
def alreadyFired (s : State) (x : Ctx) (d : UpdDesc) : Bool :=
  let n := getLE d.bytes 34 2
  let v := getLE d.bytes 36 4
  match byteAt d.bytes 3 with
  | 0 => s.collsDone.any (fun c => c.1 == d.slot && c.2.1 == d.armed && c.2.2.1 == n && c.2.2.2.toNat == v)
  | 1 => x.steps.any (fun e => e.num == d.armed && e.begun) && decide (v ≤ joinOf x d.armed n)
  | _ => false

/-- Whether a task's gate is satisfied. -/
def gateOpen (x : Ctx) (t : Task) : Bool := t.desc.gate == 0xFFFF || t.desc.gateN ≤ joinOf x t.step t.desc.gate

/-- Dies that hold the core bound to a logical core. -/
def dieOfL (x : Ctx) (l : Nat) : Nat := match x.image with | some im => dieOf (im.phys.getD l 0) | none => 0

/-- A task whose gate is unsatisfied placed in the gate pool, where it counts against its queue's 256 places on the die, or in the
overflow ring (R159, R160). -/
def gateTask (l : Nat) (head : Bool) (t : Task) (x : Ctx) : Ctx :=
  let pool := x.gated ++ [(t, l, head)]
  let q := queueOf x l
  let o := overOf x l
  if onDie x l < 256 && (head || o.isEmpty) then { x with gated := pool }
  else if !head then { x with overflow := mapPut x.overflow l (o ++ [t]) }
  else match unsnoc? q with
    | some (q', z) => { x with gated := pool, queues := mapPut x.queues l q', overflow := mapPut x.overflow l (z :: o) }
    | none => { x with overflow := mapPut x.overflow l (t :: o) }

/-- A task placed on its queue, or in the gate pool while its gate is unsatisfied (R160). -/
def placeTask (slot l : Nat) (head : Bool) (t : Task) (s : State) : State :=
  match ctxOf s slot with
  | none => s
  | some x =>
    if gateOpen x t then wakeDie (dieOfL x l) (setCtx slot (queueTask l head t x) s)
    else setCtx slot (gateTask l head t x) s

/-- Whether a task finds a place on the die or in the overflow ring (R177). -/
def taskFits (x : Ctx) (l : Nat) (head : Bool) : Bool :=
  (onDie x l < 256 && (head || (overOf x l).isEmpty)) ||
    overTotal x < (match x.image with | some im => im.ovfTasks | none => 0)

/-- A gate-pool entry enters its destination, in the place on the die that it has held. -/
def enterQueue (x : Ctx) (g : Task × Nat × Bool) : Ctx :=
  let q := queueOf x g.2.1
  { x with queues := mapPut x.queues g.2.1 (if g.2.2 then g.1 :: q else q ++ [g.1]) }

/-- Gate-pool entries whose gates have become satisfied enter their destinations. -/
def openGates (slot : Nat) (s : State) : State :=
  match ctxOf s slot with
  | none => s
  | some x =>
    let go := x.gated.filter (fun g => gateOpen x g.1)
    let x1 := { x with gated := x.gated.filter (fun g => !gateOpen x g.1) }
    go.foldl (fun a g => wakeDie (dieOfL x g.2.1) a) (setCtx slot (go.foldl enterQueue x1) s)

/-- A join counter increments: gates open and update descriptors of trigger kind 1 fire (R161, R203). -/
def joinBump (slot : Nat) (t : DWord) (n : Nat) (s : State) : State :=
  let s1 := modCtx slot (fun x =>
    { x with joins := mapSet 0 x.joins (4096 * (t.toNat % 2) + n) (satTo 65535 (joinOf x t n + 1)) }) s
  let v := match ctxOf s1 slot with | some x => joinOf x t n | none => 0
  fireWhere slot t (fun b => byteAt b 3 == 1 && getLE b 34 2 == n && getLE b 36 4 ≤ v) (openGates slot s1)

/-! ## Task descriptors (R155) -/

/-- A task descriptor read from its 192 bytes. -/
def taskDescOf (b : List Byte) : TaskDesc :=
  { entry := getLE b 0 2, threads := getLE b 2 2, lbase := BitVec.ofNat 40 (getLE b 4 5), steal := byteAt b 9 % 4
    gate := getLE b 10 2, gateN := getLE b 12 2, signal := getLE b 14 2, target := getLE b 16 2
    taskId := wd (getLE b 20 4), params := (List.range 32).map (fun n => wd (getLE b (64 + 4 * n) 4)) }

/-- The 192 bytes of a task descriptor. -/
def taskDescBytes (d : TaskDesc) : List Byte :=
  leBytes 2 d.entry ++ leBytes 2 d.threads ++ leBytes 5 d.lbase.toNat ++ leBytes 1 d.steal ++ leBytes 2 d.gate ++
    leBytes 2 d.gateN ++ leBytes 2 d.signal ++ leBytes 2 d.target ++ leBytes 2 0 ++ leBytes 4 d.taskId.toNat ++
    leBytes 40 0 ++ (d.params.map (fun (p : Word) => leBytes 4 p.toNat)).flatten

/-- Whether a descriptor's bytes are in range (R155). -/
def taskDescOk (bundles : Nat) (b : List Byte) : Bool :=
  let d := taskDescOf b
  d.entry < bundles && 1 ≤ d.threads && d.threads ≤ 512 && byteAt b 9 < 3 &&
    (d.gate < 4096 || d.gate == 0xFFFF) && (d.gate == 0xFFFF || 1 ≤ d.gateN) &&
    (d.signal < 4096 || d.signal == 0xFFFF) && getLE b 18 2 == 0 && getLE b 24 40 == 0

/-! ## Collectives: records and early ends (R330, R332) -/

/-- The fields of a collective descriptor (R317). -/
structure CollDesc where
  op : Nat
  red : Nat
  flags : Nat
  kinds : Nat
  ifmt : Nat
  ofmt : Nat
  localN : Nat
  cctx : Nat
  root : Nat
  seq : Nat
  count : Nat
  inAddr : Nat
  outAddr : Nat
  segKib : Nat
  anchor : Int
  lidx : Nat
  tag : Nat
  stage : Nat
  deriving DecidableEq, Repr

/-- A collective descriptor read from its line. -/
def collDescOf (b : List Byte) : CollDesc :=
  { op := byteAt b 0, red := byteAt b 1, flags := byteAt b 2, kinds := byteAt b 3, ifmt := byteAt b 4, ofmt := byteAt b 5
    localN := getLE b 6 2, cctx := getLE b 8 2, root := getLE b 10 2, seq := getLE b 12 4, count := getLE b 16 5
    inAddr := getLE b 21 5, outAddr := getLE b 26 5, segKib := getLE b 32 4, anchor := sInt 16 (getLE b 36 2)
    lidx := getLE b 38 5, tag := getLE b 43 3, stage := getLE b 48 5 }

/-- The members of a collective's context, ascending. -/
def collMembers (s : State) (k : Coll) : List Nat := match mapFind s.cctxs k.cctx with | some x => x.members | none => []

/-- Rank of a node among members. -/
def rankOf (ms : List Nat) (node : Nat) : Nat := ms.findIdx (· == node)

/-- The descriptor of a collective: that of its first contributor. -/
def collDesc (k : Coll) : CollDesc := match k.contribs with | c :: _ => collDescOf c.desc | [] => collDescOf (leBytes 64 7)

/-- Members of one group and number of groups (R315). -/
def cctxShape (ms : List Nat) : Nat × Nat :=
  let g := (ms.map (· / 32)).eraseDups.length
  (if g = 0 then 0 else ms.length / g, g)

/-- Effective segment size in KiB. -/
def segKib (d : CollDesc) : Nat := if d.segKib = 0 then 256 else d.segKib

/-- A collective as this device sees it: members ascending, members per group, groups, own rank, group rank and position,
descriptor, kind of reduction (0 FP32 fold, 1 anchored, 2 max, 3 min, 4 none, 5 agreement sequence), shard length. -/
structure CView where
  ms : List Nat
  sz : Nat
  gn : Nat
  r : Nat
  q : Nat
  pos : Nat
  d : CollDesc
  red : Nat
  len : Nat
  deriving DecidableEq, Repr

/-- The view of an open collective. `agree` asks for the view as an agreement sequence. -/
def collView (s : State) (k : Coll) (agree : Bool) : CView :=
  let ms := collMembers s k
  let sh := cctxShape ms
  let r := rankOf ms (ownNode s)
  let d := collDesc k
  let reduces := d.op == 0 || d.op == 1 || d.op == 5
  let red := if agree then 5 else if !reduces then 4 else if d.red = 1 then 2 else if d.red = 2 then 3
    else if portable s k.slot || bitAt d.flags 2 || d.kinds % 4 == 1 then 1 else 0
  { ms := ms, sz := sh.1, gn := sh.2, r := r, q := r / (max sh.1 1), pos := r % (max sh.1 1), d := d, red := red
    len := (d.count + ms.length - 1) / (max ms.length 1) }

/-- Ranks of the other members of the own group. -/
def CView.inPeers (v : CView) : List Nat := ((List.range v.sz).filter (· != v.pos)).map (fun p => v.q * v.sz + p)

/-- Ranks of the members of equal position in the other groups. -/
def CView.railPeers (v : CView) : List Nat := ((List.range v.gn).filter (· != v.q)).map (fun g => g * v.sz + v.pos)

/-- The elements of shards `j` up to `j + n`. -/
def CView.shards (v : CView) (j n : Nat) : Nat × Nat := (min (j * v.len) v.d.count, min ((j + n) * v.len) v.d.count)

/-- The own shard. -/
def CView.own (v : CView) : Nat × Nat := v.shards (v.pos * v.gn + v.q) 1

/-- In-group shard `p`. -/
def CView.inShard (v : CView) (p : Nat) : Nat × Nat := v.shards (p * v.gn) v.gn

/-- Whether the anchors of the blocks are agreed first (R324). -/
def CView.coded (v : CView) : Bool := v.red == 1 && v.d.kinds % 4 == 0

/-- Blocks of 32 elements. -/
def CView.blocks (v : CView) : Nat := (v.d.count + 31) / 32

/-- Group rank and position of the root. -/
def CView.root (v : CView) : Nat × Nat := (v.d.root / (max v.sz 1), v.d.root % (max v.sz 1))

/-- The phases in the order in which they follow one another: block codes in the group (4) and along the rail (5), then the
phases 0 to 3 of R327. -/
def phaseOrder : List Nat := [4, 5, 0, 1, 2, 3]

/-- What this device receives in a phase: rank, first element key, end (R327). -/
def CView.expects (v : CView) (p : Nat) : List (Nat × Nat × Nat) :=
  let from_ := fun (l : List Nat) (g : Nat × Nat) => l.map (fun r => (r, g.1, g.2))
  let n := v.d.count
  let b := n / (max v.ms.length 1)
  let (rq, rp) := v.root
  if v.red = 5 then (if p = 0 || p = 3 then from_ v.inPeers (0, 1) else if p = 1 || p = 2 then from_ v.railPeers (0, 1) else [])
  else if p = 4 then (if v.coded then from_ v.inPeers (0, v.blocks) else [])
  else if p = 5 then (if v.coded then from_ v.railPeers (0, v.blocks) else [])
  else match v.d.op with
    | 2 =>
      if p = 2 then v.railPeers.map (fun r => let j := v.pos * v.gn + r / v.sz; (r, j * n, (j + 1) * n))
      else if p = 3 then v.inPeers.map (fun r => let j := r % v.sz * v.gn; (r, j * n, (j + v.gn) * n)) else []
    | 3 => if p = 0 then from_ v.inPeers (0, v.gn * b) else if p = 1 then from_ v.railPeers (0, v.sz * b) else []
    | 4 =>
      if p = 2 then (if v.pos = rp && v.q != rq then [(v.d.root, 0, n)] else [])
      else if p = 3 then (if v.pos != rp then [(v.q * v.sz + rp, 0, n)] else []) else []
    | 6 => if p = 0 || p = 3 then from_ v.inPeers (0, 0) else from_ v.railPeers (0, 0)
    | 7 => []
    | op =>
      if p = 0 then from_ v.inPeers (v.inShard v.pos)
      else if p = 1 then from_ v.railPeers v.own
      else if op = 1 || (op = 5 && v.q != rq) || (op = 5 && p = 3 && v.r != v.d.root) then []
      else if p = 2 then v.railPeers.map (fun r => (r, v.shards (v.pos * v.gn + r / v.sz) 1))
      else v.inPeers.map (fun r => (r, v.inShard (r % v.sz)))

/-- What this device sends in a phase: rank, first element key, end (R327). -/
def CView.sends (v : CView) (p : Nat) : List (Nat × Nat × Nat) :=
  let dest := fun (l : List Nat) (g : Nat × Nat) => l.map (fun r => (r, g.1, g.2))
  let n := v.d.count
  let b := n / (max v.ms.length 1)
  let (rq, rp) := v.root
  if v.red = 5 then (if p = 0 || p = 3 then dest v.inPeers (0, 1) else if p = 1 || p = 2 then dest v.railPeers (0, 1) else [])
  else if p = 4 then (if v.coded then dest v.inPeers (0, v.blocks) else [])
  else if p = 5 then (if v.coded then dest v.railPeers (0, v.blocks) else [])
  else match v.d.op with
    | 2 =>
      if p = 2 then (let j := v.pos * v.gn + v.q; dest v.railPeers (j * n, (j + 1) * n))
      else if p = 3 then dest v.inPeers (v.pos * v.gn * n, (v.pos + 1) * v.gn * n) else []
    | 3 => if p = 0 then dest v.inPeers (0, v.gn * b) else if p = 1 then dest v.railPeers (0, v.sz * b) else []
    | 4 =>
      if p = 2 then (if v.r = v.d.root then dest v.railPeers (0, n) else [])
      else if p = 3 then (if v.pos = rp then dest v.inPeers (0, n) else []) else []
    | 6 => if p = 0 || p = 3 then dest v.inPeers (0, 0) else dest v.railPeers (0, 0)
    | 7 => []
    | op =>
      if p = 0 then v.inPeers.map (fun r => (r, v.inShard (r % v.sz)))
      else if p = 1 then v.railPeers.map (fun r => (r, v.shards (v.pos * v.gn + r / v.sz) 1))
      else if op = 1 then []
      else if op = 5 then
        (if p = 2 then (if v.q != rq then dest [rq * v.sz + v.pos] v.own else [])
         else if v.q = rq && v.pos != rp then dest [v.d.root] (v.inShard v.pos) else [])
      else if p = 2 then dest v.railPeers v.own
      else dest v.inPeers (v.inShard v.pos)

/-- The data of a phase from a rank. -/
def peerOf (k : Coll) (p r : Nat) : Option PeerData := k.peers.find? (fun d => d.phase == p && d.rank == r)

/-- Bytes of an element on the wire. -/
def CView.wireBytes (v : CView) (p : Nat) : Nat :=
  if v.red = 5 || p = 4 || p = 5 then 1 else
  match v.red with
  | 0 => 4
  | 1 => 12
  | 4 => (match fmtOf v.d.ifmt with | some f => f.elem.bits / 8 | none => 1)
  | _ => 16

/-- Data segments that a collective has received from every peer in every phase: full ones, and the last of each stream with
its end (R328, R330). -/
def segmentsGot (v : CView) (k : Coll) : Nat :=
  if v.d.op = 6 || v.d.op = 7 || v.red = 5 then 0 else
  let unit := segKib v.d * 1024
  [0, 1, 2, 3].foldl (fun a p => (v.expects p).foldl (fun b x =>
    let got := (match peerOf k p x.1 with | some d => d.elems.length | none => 0) * v.wireBytes p
    b + (if x.2.2 - x.2.1 ≤ got / max (v.wireBytes p) 1 then (got + unit - 1) / unit else got / unit)) a) 0

/-- The device's arrival stamp: the latest issue of a contributor. -/
def collArrival (k : Coll) : DWord := k.contribs.foldl (fun a c => if a.toNat < c.stamp.toNat then c.stamp else a) 0

/-- The slowest stamp with its rank, the lower rank on a tie, and the earliest stamp. -/
def collTimes (s : State) (k : Coll) : DWord × Nat × DWord :=
  let me := rankOf (collMembers s k) (ownNode s)
  let a := collArrival k
  k.peers.foldl (fun acc p =>
    let slow := if acc.1.toNat < p.stamp.toNat || (acc.1 == p.stamp && p.stampRank < acc.2.1) then (p.stamp, p.stampRank)
      else (acc.1, acc.2.1)
    (slow.1, slow.2, if p.earliest.toNat < acc.2.2.toNat then p.earliest else acc.2.2)) (a, me, a)

/-- The 64 bytes of a completion record (R330). -/
def collRecord (s : State) (k : Coll) (flags status : Nat) (firstNf : Option Nat) : List Byte :=
  let t := collTimes s k
  leBytes 2 k.cctx ++ leBytes 4 k.seq.toNat ++ leBytes 1 (collDesc k).op ++ leBytes 1 flags ++ leBytes 2 status ++
    leBytes 2 ((collMembers s k).getD t.2.1 0) ++ leBytes 2 t.2.1 ++ leBytes 2 0 ++ leBytes 8 t.2.2.toNat ++
    leBytes 8 t.1.toNat ++ leBytes 8 s.time.now.toNat ++ leBytes 4 (satTo 0xFFFFFFFF (t.1.toNat - t.2.2.toNat)) ++
    leBytes 5 (firstNf.getD 0xFFFFFFFFFF) ++ leBytes 1 0 ++ leBytes 2 (satTo 65535 k.resent) ++ leBytes 4 (segmentsGot (collView s k false) k) ++
    leBytes 8 0

/-- A completion record written for one contributor, and its arrival slot completed; a saved task takes both into its
image (R397). -/
def giveRecord (recd : List Byte) (poison : Bool) (k : Contrib) (s : State) : State :=
  match k.saved with
  | some n =>
    match mapFind s.saves n with
    | some co =>
      let co1 := linePut (64 * (k.line + 1)) recd poison (constLines s (runSlot co))
        { co with arr := mapSet 0 co.arr k.slot (arrCount co k.slot - 1) }
      { s with saves := mapPut s.saves n co1 }
    | none => s
  | none => agentDone k.core k.slot (agentPut k.core (64 * (k.line + 1)) recd poison s)

/-- The contributors whose completion record would lie on a constant line (R173). -/
def constRecords (s : State) (k : Coll) : List Contrib :=
  k.contribs.filter (fun c =>
    let n := match c.saved with
      | some i => (match mapFind s.saves i with | some co => constLines s (runSlot co) | none => 0)
      | none => constLines s (runSlot (coreOf s c.core))
    c.line + 1 < n)

/-- A collective taken off the list of open ones. -/
def dropColl (k : Coll) (s : State) : State :=
  { s with colls := s.colls.filter (fun e => !(e.cctx == k.cctx && e.seq == k.seq && e.step == k.step && e.slot == k.slot)) }

/-- Whether an agree collective declares a sequence (R326). -/
def declares (a k : Coll) : Bool :=
  a.cctx == k.cctx && a.step == k.step && !a.contribs.isEmpty && (collDesc a).op == 7 &&
    a.seq.toNat ≤ k.seq.toNat && k.seq.toNat < a.seq.toNat + (collDesc a).count

/-- The sequences that an agree collective has declared end with it. -/
def dropSeqs (k : Coll) (s : State) : State := { s with colls := s.colls.filter (fun e => !declares k e) }

/-- The body of a COLL_ABORT (R310). -/
def abortBody (k : Coll) (status node : Nat) : List Byte :=
  padTo 128 (leBytes 2 0x25 ++ leBytes 2 k.cctx ++ leBytes 4 k.seq.toNat ++ leBytes 8 k.step.toNat ++ leBytes 2 status ++
    leBytes 2 node)

/-- A collective ended early here with a status: records, event record, count, and the abort sent to `targets` (R332). -/
def endColl (status node : Nat) (targets : List Nat) (k : Coll) (s : State) : State :=
  let recd := collRecord s k (2 * b2n (decide (0 < k.resent)) + 8 * b2n k.offSched) status none
  let s1 := dropSeqs k (dropColl k s)
  let s2 := k.contribs.foldl (fun a c => giveRecord recd false c a) s1
  let s3 := targets.foldl (fun a n => if n = ownNode s then a else sendCtl n (abortBody k status node) a) s2
  sendEvent 0 0x08 1 (det [(k.slot, 1), (k.cctx, 2), (k.seq.toNat, 4), (status, 2), (node, 2)]) (some k.slot)
    (fbump F.COL_ABORTS.COUNT 0 0 s3)

/-- Whether a sequence is one of the integrity unit's agreements (R372). -/
def isStepSeq (q : Word) : Bool := q == 0xFFFFFFFF || q == 0xFFFFFFFE

/-- Whether a context's collective contexts span more than one device (R372). -/
def multiDevice (s : State) (slot : Nat) : Bool :=
  s.cctxs.any (fun (e : Nat × Cctx) => e.2.slot == slot && 1 < e.2.members.eraseDups.length)

/-- The step context of a tenant context (R373). -/
def stepCctx (s : State) (slot : Nat) : Option Nat :=
  (s.cctxs.find? (fun (e : Nat × Cctx) => e.2.slot == slot && e.2.isStep)).map (·.1)

/-- A collective opened with nothing in it. -/
def Coll.fresh (cctx : Nat) (seq : Word) (step : DWord) (slot : Nat) : Coll :=
  { cctx := cctx, seq := seq, step := step, slot := slot, contribs := [], started := false, waited := false, banks := 0
    peers := [], sent := [], todo := [], flying := [], own := none, prepass := [], agreed := none, ate := false, wrote := false, resent := 0
    offSched := false }

/-- An open collective by its names. -/
def findColl (s : State) (cctx : Nat) (seq : Word) (step : DWord) : Option Coll :=
  s.colls.find? (fun e => e.cctx == cctx && e.seq == seq && e.step == step)

/-- An open collective changed, or opened. -/
def modColl (cctx : Nat) (seq : Word) (step : DWord) (slot : Nat) (f : Coll → Coll) (s : State) : State :=
  match findColl s cctx seq step with
  | some _ => { s with colls := s.colls.map (fun e =>
      if e.cctx == cctx && e.seq == seq && e.step == step then f e else e) }
  | none => { s with colls := s.colls ++ [f (Coll.fresh cctx seq step slot)] }

/-- The integrity unit's own code to a step agreement; the highest of its codes stands (R372, R374). -/
def agreeOwn (slot : Nat) (t : DWord) (seq : Word) (code : Nat) (s : State) : State :=
  match stepCctx s slot with
  | none => s
  | some c => modColl c seq t slot (fun k => { k with own := some (max code (k.own.getD 0)) }) s

/-! ## Promise breaches (R403) -/

/-- A promise-breach record: breached level, prevailing level, cause, phase (0 begins, 1 ends), start stamp, context,
element, from an origin (R473). -/
def breachAt (origin level prevails cause phase : Nat) (start : DWord) (slot element : Nat) (s : State) : State :=
  sendEvent origin 0x0C level
    (det [(slotNo s slot, 1), (prevails, 1), (cause, 1), (phase, 1), (start.toNat, 8), (element, 4)]) (some slot) s

/-! ## Halts, terminations, failures, replays -/

/-- Commit replies still owed to a context's posts end with TERMINATED (log entry 14). -/
def failPosts (slot : Nat) (s : State) : State :=
  match ctxOf s slot with
  | none => s
  | some x => x.posts.foldl (fun a p => if p.notify then finishTaken p.src p.tag stTerminated [] a else a)
      (setCtx slot { x with posts := x.posts.map (fun p => { p with notify := false }) } s)

/-- A context halts: no further task starts, its running tasks freeze, its open collectives end (R180, R332). -/
def haltBase (keepAgree : Bool) (slot : Nat) (s : State) : State :=
  if ctxState s slot != 1 then s else
  let s1 := fset F.CTX_STAT.STATE slot 0 2 s
  (s1.colls.filter (fun k => k.slot == slot && !(keepAgree && isStepSeq k.seq) &&
      (!k.contribs.isEmpty || !s1.colls.any (fun a => declares a k)))).foldl (fun a k =>
    endColl stTerminated (ownNode a) (collMembers a k) k a) s1

/-- A context is terminated (R377): event, count, P1 breach record, the code 0xFF where the step close is still open, and
the halt. -/
def terminateCtx (slot cause : Nat) (t : DWord) (s : State) : State :=
  match ctxOf s slot with
  | none => s
  | some x =>
    if x.terminated then s else
    let s1 := setCtx slot { x with terminated := true } s
    let s2 := sendEvent 0 0x02 4 (det [(slot, 1), (cause, 1), (0, 6), (t.toNat, 8)]) (some slot)
      (fbump F.FLT_TERMS.COUNT 0 0 s1)
    let s3 := breachAt 0 1 0 1 1 (stampAt s2 0) slot (t.toNat % 2 ^ 32) s2
    let open0 := match stepSt? x t with | some e => !e.closed | none => false
    let agree := multiDevice s slot && open0
    let s4 := if agree then agreeOwn slot t 0xFFFFFFFF 0xFF s3 else s3
    failPosts slot (haltBase agree slot s4)

/-- A context halts under R180; one whose open step has consumed poison is terminated with cause 3 (R377). -/
def haltCtx (slot : Nat) (s : State) : State :=
  match ctxOf s slot with
  | none => s
  | some x =>
    if ctxState s slot != 1 then s else
    match x.steps.find? (fun e => e.consumed) with
    | some e => terminateCtx slot 3 e.num s
    | none => haltBase false slot s

/-- The detail of a task event (R366). -/
def taskDetail (s : State) (c : Nat) (t : Task) (d : Nat) (extra : List Byte) : List Byte :=
  det [(t.slot, 1), (cstat s F.CORE_STAT.LCORE c, 2), (t.desc.taskId.toNat, 4), (d, 1), (coreCode c, 2)] ++ extra

/-- The failure of a task on a die under a logical core: recorded as the first since the last cleared halt; one that its
context meets while it is halted is counted (R179, R180, R181). -/
def noteFail (die lcore reason d : Nat) (t : Task) (s : State) : State :=
  let s1 := if fget s F.TASK_FAIL.REASON die = 0 then
      rset .TASK_FAIL_ID die 0 t.desc.taskId
        (rset .TASK_FAIL die 0 (wd (reason * 2 ^ 28 + t.slot % 64 * 2 ^ 22 + lcore % 2048 * 2 ^ 11 + d)) s)
    else s
  if ctxState s t.slot = 2 then modCtx t.slot (fun x => { x with haltFails := x.haltFails + 1 }) s1 else s1

/-- A task failure (R179): recorded as the first since the last cleared halt, reported, its contributions discarded. -/
def recordFail (c reason code d : Nat) (extra : List Byte) (s : State) : State :=
  match (coreOf s c).run with
  | none => s
  | some r =>
    if r.isAudit then s else
    let die := dieOf c
    let s1 := noteFail die (cstat s F.CORE_STAT.LCORE c) reason d r.task s
    modRun c dropTallies (sendEvent die 0x03 code (taskDetail s c r.task d extra) (some r.task.slot) s1)

/-- The failure of a task that is saved (R179, R396): recorded and reported on the die of its home core, its contributions
discarded, and its context halts. -/
def savedFail (n reason : Nat) (s : State) : State :=
  match mapFind s.saves n with
  | none => s
  | some co =>
    match co.run with
    | none => s
    | some r =>
      let t := r.task
      let die := match ctxOf s t.slot with | some x => dieOfL x t.home | none => 0
      let s1 := noteFail die t.home reason 0 t
        { s with saves := mapPut s.saves n { co with run := some (dropTallies r) } }
      haltCtx t.slot (sendEvent die 0x03 reason
        (det [(t.slot, 1), (t.home, 2), (t.desc.taskId.toNat, 4), (0, 1), (0xFFFF, 2)]) (some t.slot) s1)

/-- The task failures that a context recorded on its dies cleared (R181). -/
def clearFails (k : Nat) (s : State) : State :=
  (List.range 8).foldl (fun a d =>
    if fget a F.TASK_FAIL.REASON d != 0 && fget a F.TASK_FAIL.CTX d == slotNo s k then
      rset .TASK_FAIL_ID d 0 0 (rset .TASK_FAIL d 0 0 a) else a) s

/-- A task failure that halts its context; on an audit core the re-execution just ends (R382). -/
def taskFail (c reason d : Nat) (s : State) : State :=
  match (coreOf s c).run with
  | none => s
  | some r =>
    if r.isAudit then modRun c (fun r => { r with ended := true }) s
    else haltCtx r.task.slot (recordFail c reason reason d [] s)

/-- Tasks whose completion record would lie on a constant line fail (R173). -/
def constFails (l : List Contrib) (s : State) : State :=
  l.foldl (fun a c => match c.saved with
    | some n => savedFail n 4 a
    | none => taskFail c.core 4 0 a) s

/-- BAD_PARAM as a task failure. -/
def failParam (c : Nat) (s : State) : State := taskFail c 2 0 s

/-- A schedule fault: recorded in the core's window; the task fails with reason 1 (R85, R89). -/
def schedFault (c code : Nat) (s : State) : State :=
  let s1 := setCstat F.CORE_FAULT.BUNDLE c ((coreOf s c).pc % 4096) (setCstat F.CORE_FAULT.CODE c code s)
  taskFail c 1 code (fbump F.CORE_FAULT.COUNT (dieOf c) (c % 272) s1)

/-- Arrival slots that a replay completes at once on a core: armed boxes (R374 step 1). -/
def releaseBoxes (k : Core) : Core :=
  { k with
    armed := []
    arr := k.armed.foldl (fun (a : SMap Nat) e => mapSet 0 a e.2.slot (mapGet 0 a e.2.slot - 1)) k.arr }

/-- The anchor an agreed code gives (R100); the formats' largest exponents come from the matrix descriptor (R59). -/
def autoAnchor (code ea eb : Int) : Int := (if code = 0xFF then 381 else code) + ea + eb - 174

/-- The emax of an operand of the pre-pass: 0 for plain and S16 operands (R100). -/
def preEmax (code : Nat) : Int :=
  match fmtOf code with
  | some f => if f.block = 0 then 0 else f.elem.emax
  | none => 0

/-- A pre-pass ends with a code in a core or an image: the tile's anchor is known and its arrival slot completes. An open raise
entry of the block overrides the source (R99, R107). -/
def prepassEnd (p : Prepass) (code : Nat) (k : Core) : Core :=
  let ea := preEmax (getLE p.md 8 4 / 2 ^ 8 % 32)
  let eb := preEmax (getLE p.md 8 4 / 2 ^ 16 % 32)
  let tiles := match mapFind k.tiles p.tile with
    | some t =>
      let a := match mapFind k.raises p.tile with
        | some e => if e.tag == t.tag && e.block == t.block then e.anchor else autoAnchor code ea eb
        | none => autoAnchor code ea eb
      mapPut k.tiles p.tile { t with anchor := some a }
    | none => k.tiles
  { k with
    tiles := tiles, arr := mapSet 0 k.arr p.slot (arrCount k p.slot - 1)
    run := k.run.map (fun r =>
      { r with prepasses := r.prepasses.filter (fun q => !(q.tile == p.tile && q.slot == p.slot)) }) }

/-- A pre-pass ends with a code, on the audit core too (R382). -/
def finishPrepass (c : Nat) (p : Prepass) (code : Nat) (s : State) : State :=
  let s1 := modCore c (prepassEnd p code) s
  match auditOf s c with
  | some a => modCore a (prepassEnd p code) s1
  | none => s1

/-- A stolen task on its way dropped (R374 step 1). -/
def dropProbe (slot : Nat) (hit : DWord → Bool) (k : Core) : Core :=
  match k.probe with
  | some p => match p.reply with
    | some (some t) => if t.slot == slot && hit t.step then { k with probe := some { p with reply := some none } } else k
    | _ => k
  | none => k

/-- Replay of step `t` begins (R374 step 1): the records, the queued and gated tasks of `t` and `t` + 1 dropped, the slots
that wait on collectives, agreements and boxes completed, and the collectives of both steps forgotten. -/
def startReplay (slot : Nat) (t : DWord) (cause : Nat) (s : State) : State :=
  match ctxOf s slot with
  | none => s
  | some x =>
    let s1 := sendEvent 0 0x02 2 (det [(slot, 1), (cause, 1), (0, 6), (t.toNat, 8)]) (some slot) s
    let now := stampAt s1 0
    let s2 := breachAt 0 4 1 2 0 now slot (t.toNat % 2 ^ 32) s1
    let hit := fun (n : DWord) => n == t || n == t + 1
    let x1 := { x with
      queues := x.queues.map (fun (e : Nat × List Task) => (e.1, e.2.filter (fun k => !hit k.step)))
      overflow := x.overflow.map (fun (e : Nat × List Task) => (e.1, e.2.filter (fun k => !hit k.step)))
      gated := x.gated.filter (fun g => !hit g.1.step)
      steps := x.steps.map (fun e => if e.num == t then { e with replaying := true, stampBegin := now } else e) }
    let s3 := setCtx slot x1 s2
    let mine := s3.colls.filter (fun k => k.slot == slot && hit k.step)
    let s4 := mine.foldl (fun a k => k.contribs.foldl (fun b c =>
      match c.saved with
      | none => arrDone c.core c.slot b
      | some _ => b) (dropColl k a)) s3
    let cs := (coresOf s4 slot).filter (fun c => match (coreOf s4 c).run with
      | some r => r.task.slot == slot && hit r.task.step
      | none => false)
    let s5 := cs.foldl (fun a c =>
      let b := modCore c releaseBoxes a
      match (coreOf b c).run with
      | some r => r.prepasses.foldl (fun d p => match p.code with
        | some code => finishPrepass c p code d
        | none => d) b
      | none => b) s4
    let gone := fun (k : Core) => match k.run with | some r => r.task.slot == slot && hit r.task.step | none => false
    { s5 with
      saves := s5.saves.filter (fun (e : Nat × Core) => !gone e.2)
      msgOut := s5.msgOut.filter (fun m => match m.saved with
        | some n => (match mapFind s5.saves n with | some k => !gone k | none => true)
        | none => true)
      collsDone := s5.collsDone.filter (fun e => !(e.1 == slot && hit e.2.1))
      cores := s5.cores.map (fun (e : Nat × Core) => (e.1, dropProbe slot hit e.2)) }

/-- Step `t` replays, or the context ends with cause 0 where a replay would read its own poison again (R377). -/
def replayOrEnd (slot : Nat) (t : DWord) (cause : Nat) (s : State) : State :=
  let hit := match ctxOf s slot with
    | some x => (match stepSt? x t with
      | some e => e.poisonedLines.any (fun l => e.heldRanges.any (fun r => r.1 < 64 * l + 64 && 64 * l < r.2))
      | none => false)
    | none => false
  if hit then terminateCtx slot 0 t s else startReplay slot t cause s

/-- The oldest open step of a context. -/
def oldestStep (x : Ctx) : Option StepSt := minBy? (fun e => e.num.toNat) x.steps

/-- Poison is consumed (R369, R374, R377): the record, the mark on the step, and for a single-device context the replay at
once; in a replay, the termination with cause 1, in a halted context that with cause 3. `far` says that the data came from
another node. -/
def consume (origin slot consumer addr : Nat) (far : Bool) (t : DWord) (s : State) : State :=
  let fl := b2n far + (if consumer = 0 then 2 else 0)
  let s1 := sendEvent origin 0x02 1
    (det [(slot, 1), (consumer, 1), (addr, 5), (fl, 1), (t.toNat, 8)]) (some slot) s
  let s2 := modStep slot t (fun e => { e with consumed := true }) s1
  match ctxOf s2 slot with
  | none => s2
  | some x =>
    match stepSt? x t with
    | none => s2
    | some e =>
      if ctxState s2 slot = 2 then terminateCtx slot 3 t s2
      else if e.replayed then terminateCtx slot 1 t s2
      else if e.replaying || multiDevice s2 slot then s2
      else match oldestStep x with
        | some o => if o.num == t then replayOrEnd slot t 0 s2 else s2
        | none => s2

/-- A core consumes poison: once per task (R369). -/
def coreConsumes (c : Nat) (s : State) : State :=
  match (coreOf s c).run with
  | none => s
  | some r =>
    if r.poisonUsed then s
    else if r.isAudit then modRun c (fun r => { r with poisonUsed := true }) s
    else consume (dieOf c) r.task.slot 0 0 false r.task.step (modRun c (fun r => { r with poisonUsed := true }) s)

/-! ## Parity errors (R152, R153, R380) -/

/-- Another active core of the context by the rule of R153, outside `tried`: the lowest-numbered one with an empty queue
on the die, else the lowest-numbered one; else the same on the next die in the remote order. -/
def parityTarget (s : State) (slot : Nat) (x : Ctx) (dies : List Nat) (tried : List Nat) : Option Nat :=
  match x.image with
  | none => none
  | some im => dies.findSome? (fun d =>
      let cs := im.phys.filter (fun c => dieOf c == d && !(tried.contains c) &&
        cstat s F.CORE_STAT.CTX c == slot && (cstat s F.CORE_STAT.STATE c == 1 || cstat s F.CORE_STAT.STATE c == 2))
      let cs := (List.range 272).filterMap (fun n => if cs.contains (272 * d + n) then some (272 * d + n) else none)
      match cs.find? (fun c => match lcoreOf x c with | some l => (queueOf x l).isEmpty | none => false) with
      | some c => some c
      | none => cs.head?)

/-- Hops between two dies on the 4 × 2 grid (R11, R12). -/
def hops (a b : Nat) : Nat :=
  let dx := if a % 4 < b % 4 then b % 4 - a % 4 else a % 4 - b % 4
  dx + (if a / 4 = b / 4 then 0 else 1)

/-- The other dies in ascending hop distance, ties to the lower index (R163). -/
def remoteOrder (d : Nat) : List Nat :=
  ((List.range 5).map (fun h => (List.range 8).filter (fun e => e != d && hops d e == h))).flatten

/-- The started items of a core whose task leaves it: they complete all the same (R151, R180); one that a fence still holds
counts as not started (R394). -/
def leftItems (k : Core) : SMap EngineItem :=
  (k.engines.filter (fun (e : Nat × EngineItem) => !e.2.fenced)).map (fun (e : Nat × EngineItem) =>
    (e.1, { e.2 with left := match e.2.left, k.run with
      | some l, _ => some l
      | none, some r => some (r.task.slot, r.task.step)
      | none, none => none }))

/-- A core with no task: nothing in flight, every arrival slot complete, and only started mover items under way. -/
def idleCore (k : Core) : Core :=
  { k with
    run := none, pend := [], arr := [], armed := [], repeatDue := false, slowDue := none, branch := none, queue := []
    engines := leftItems k }

/-- A core is left by its task; an audit core goes back to the spares. -/
def freeCore (c : Nat) (s : State) : State :=
  let st := cstat s F.CORE_STAT.STATE c
  let s1 := setCstat F.CORE_STAT.FRZ c 0 (modCore c idleCore s)
  if st = 2 then setCstat F.CORE_STAT.STATE c (if cstat s1 F.CORE_STAT.CTX c = 0xFF then 0 else 1) s1 else s1

/-- The audit of a core's task given up (R382). -/
def dropAudit (c : Nat) (s : State) : State :=
  match auditOf s c with
  | some a => freeCore a (modRun c (fun r => { r with audit := none }) s)
  | none => s

/-- The contributions of core `c`'s task to a collective now those of the saved image `n` (R396). -/
def collToSaved (c n : Nat) (q : Coll) : Coll :=
  let cs : List Contrib := q.contribs.map (fun e => if e.core == c && e.saved.isNone then { e with saved := some n } else e)
  let ps : List Agreer := q.prepass.map (fun e => if e.core == c && e.saved.isNone then { e with saved := some n } else e)
  { q with contribs := cs, prepass := ps }

/-- The contributions of the saved image `n` to a collective now those of the task on core `c` (R397). -/
def collToCore (n c : Nat) (q : Coll) : Coll :=
  let cs : List Contrib := q.contribs.map (fun e => if e.saved == some n then { e with core := c, saved := none } else e)
  let ps : List Agreer := q.prepass.map (fun e => if e.saved == some n then { e with core := c, saved := none } else e)
  { q with contribs := cs, prepass := ps }

/-- What a task that leaves core `c` to run again from its start has contributed to open collectives: withdrawn where the
collective has not started, so that the new run contributes once (R33); else kept, with no core to take its record (the
save number is one that no image has; DESIGN CHOICE, log entry 70). -/
def dropContribs (c : Nat) (s : State) : State :=
  { s with colls := s.colls.map (fun q =>
      if q.started then { q with contribs := q.contribs.map (fun e =>
        if e.core == c && e.saved.isNone then { e with saved := some 0xFFFFFFFF } else e) }
      else { q with contribs := q.contribs.filter (fun e => !(e.core == c && e.saved.isNone))
                    prepass := q.prepass.filter (fun e => !(e.core == c && e.saved.isNone)) }) }

/-- A parity error on a core's shelf (R152): the task fails at the cycle boundary and goes to the head of a queue again, of
the same core the first time, of another core the second and third times (R153, R380), and then to nobody. An error of an
audit core, or of an item whose task has left the core, is counted and recorded and fails no task. -/
def parityError (c port addr : Nat) (s : State) : State :=
  let d := dieOf c
  let line := addr / 64
  let word := addr / 4 % 16
  let paddr := fun (re : Bool) (st : State) => rset .SHELF_PADDR d 0
    (wd (c % 272 * 2 ^ 23 + port * 2 ^ 21 + b2n re * 2 ^ 20 + line * 16 + word)) st
  let note := fun (st : State) => fbump F.SHELF_PERR.COUNT d 0 (modCore c (fun k => { k with resident := [] }) st)
  match (coreOf s c).run with
  | none => paddr false (note s)
  | some r =>
    if r.isAudit then freeCore c (modRun r.orig (fun q => { q with audit := none }) (paddr false (note s)))
    else
    let slot := r.task.slot
    let tried := r.task.tried ++ [c]
    let n := tried.length
    let s1 := note s
    let s2 := recordFail c 7 7 0 (det [(line, 2), (word, 1)]) s1
    let s3 := if 1 < n then modCore c (fun k => { k with suspect := true, retireDue := some 2 }) s2 else s2
    match ctxOf s3 slot with
    | none => s3
    | some x =>
      let target := if n = 1 then some c else if n < 4 then parityTarget s3 slot x (d :: remoteOrder d) tried else none
      match target with
      | none =>
        haltCtx slot (sendEvent d 0x03 0x10 (taskDetail s3 c r.task 0 (det [(line, 2), (word, 1)])) (some slot)
          (paddr false s3))
      | some c2 =>
        let l := (lcoreOf x c2).getD r.task.home
        let s4 := dropContribs c (freeCore c (dropAudit c s3))
        placeTask slot l true { r.task with tried := tried } (paddr (c2 != c) s4)

end Sys2Proof.Machine
end

