-- ==== Sys2Proof/Machine/FpFun.lean ====
section
/-! DEFINITION. The correctly rounded functions (R126 to R129). Each value is enclosed between two fixed-point bounds, the
precision is raised until both bounds round alike, and the rounding midpoint's band decides whether the slow path is
taken. -/

namespace Sys2Proof.Machine

/-- An enclosure by two integers in units of 2^-`p`, `p` being carried by the caller. -/
structure Iv where
  lo : Int
  hi : Int
  deriving DecidableEq, Repr

/-- `⌈a / b⌉` for positive `b`. -/
def cdiv (a : Int) (b : Int) : Int := -((-a) / b)

/-- A sum of enclosures. -/
def Iv.add (a b : Iv) : Iv := ⟨a.lo + b.lo, a.hi + b.hi⟩
/-- An enclosure negated. -/
def Iv.neg (a : Iv) : Iv := ⟨-a.hi, -a.lo⟩
/-- A difference of enclosures. -/
def Iv.sub (a b : Iv) : Iv := a.add b.neg
/-- An enclosure times an integer. -/
def Iv.mulZ (a : Iv) (k : Int) : Iv := if 0 ≤ k then ⟨a.lo * k, a.hi * k⟩ else ⟨a.hi * k, a.lo * k⟩
/-- An enclosure divided by a positive number. -/
def Iv.divN (a : Iv) (k : Nat) : Iv := ⟨a.lo / (k : Int), cdiv a.hi (k : Int)⟩
/-- A product of enclosures. -/
def Iv.mul (p : Nat) (a b : Iv) : Iv :=
  let w := [a.lo * b.lo, a.lo * b.hi, a.hi * b.lo, a.hi * b.hi]
  let mn := w.foldl min (a.lo * b.lo)
  let mx := w.foldl max (a.lo * b.lo)
  ⟨mn / (2 ^ p : Nat), cdiv mx (2 ^ p : Nat)⟩
/-- The reciprocal of a positive enclosure. -/
def Iv.recip (p : Nat) (a : Iv) : Iv := ⟨(2 ^ (2 * p) : Nat) / a.hi, cdiv (2 ^ (2 * p) : Nat) (max a.lo 1)⟩
/-- The square root of a nonnegative enclosure. -/
def Iv.sqrt (p : Nat) (a : Iv) : Iv := ⟨isqrt (a.lo.toNat * 2 ^ p), isqrt (a.hi.toNat * 2 ^ p) + 1⟩
/-- An enclosure widened by `d` on both sides. -/
def Iv.widen (a : Iv) (d : Int) : Iv := ⟨a.lo - d, a.hi + d⟩
/-- The largest magnitude. -/
def Iv.mag (a : Iv) : Int := max a.hi.natAbs a.lo.natAbs
/-- An enclosure times 2^`k`. -/
def Iv.shift (p : Nat) (a : Iv) (k : Int) : Iv :=
  if 0 ≤ k then a.mulZ (2 ^ k.toNat : Nat)
  else if (p : Int) + 8 < -k then ⟨if a.lo < 0 then -1 else 0, if a.hi < 0 then 0 else 1⟩
  else a.divN (2 ^ (-k).toNat)
/-- The integer `k`. -/
def Iv.int (p : Nat) (k : Int) : Iv := ⟨k * (2 ^ p : Nat), k * (2 ^ p : Nat)⟩
/-- The quotient of an integer by a positive one. -/
def Iv.frac (p : Nat) (a : Int) (b : Nat) : Iv := Iv.divN (Iv.int p a) b
/-- The dyadic value ± `m` × 2^`e`. -/
def Iv.dyadic (p : Nat) (neg : Bool) (m : Nat) (e : Int) : Iv :=
  let k := e + (p : Int)
  let a : Iv := if 0 ≤ k then ⟨(m <<< k.toNat : Nat), (m <<< k.toNat : Nat)⟩
    else if (bitLen m : Int) + 1 < -k then ⟨0, 1⟩
    else Iv.divN ⟨m, m⟩ (2 ^ (-k).toNat)
  if neg then a.neg else a

/-- Terms of `Σ ±z^(2i+1)/(2i+1)`: `t` is the present power, `w` the square of `z` with the sign of the series. -/
def oddSeries : Nat → Nat → Nat → Iv → Iv → Iv → Iv
  | 0, _, _, t, _, acc => acc.widen (t.mag + 1)
  | fuel + 1, p, i, t, w, acc => oddSeries fuel p (i + 1) (t.mul p w) w (acc.add (t.divN (2 * i + 1)))

/-- Inverse hyperbolic tangent for a magnitude below 1/5. -/
def atanhIv (p : Nat) (z : Iv) : Iv := oddSeries (p / 4 + 4) p 0 z (z.mul p z) ⟨0, 0⟩

/-- Inverse tangent for a magnitude of at most 1/5. -/
def atanIv (p : Nat) (z : Iv) : Iv := oddSeries (p / 4 + 4) p 0 z (z.mul p z).neg ⟨0, 0⟩

/-- ln 2. -/
def ln2Iv (p : Nat) : Iv :=
  (((atanhIv p (Iv.frac p 1 26)).mulZ 18).add ((atanhIv p (Iv.frac p 1 4801)).mulZ (-2))).add
    ((atanhIv p (Iv.frac p 1 8749)).mulZ 8)

/-- π. -/
def piIv (p : Nat) : Iv := ((atanIv p (Iv.frac p 1 5)).mulZ 16).add ((atanIv p (Iv.frac p 1 239)).mulZ (-4))

/-- Terms of `Σ t_i` with `t_(i+1) = t_i × y / d_i`, where `d_i = a + i × b`. -/
def factSeries : Nat → Nat → Nat → Nat → Iv → Iv → Iv → Iv
  | 0, _, _, _, t, _, acc => acc.widen (2 * t.mag + 1)
  | fuel + 1, p, a, b, t, y, acc => factSeries fuel p (a + b) b ((t.mul p y).divN a) y (acc.add t)

/-- e^r for a small `r`. -/
def expSmall (p : Nat) (r : Iv) : Iv := factSeries (p / 4 + 16) p 1 1 (Iv.int p 1) r ⟨0, 0⟩

/-- Terms of the sine or cosine series: `t_(i+1) = t_i × (−r²) / (d × (d + 1))`. -/
def trigSeries : Nat → Nat → Nat → Iv → Iv → Iv → Iv
  | 0, _, _, t, _, acc => acc.widen (t.mag + 1)
  | fuel + 1, p, d, t, w, acc => trigSeries fuel p (d + 2) ((t.mul p w).divN (d * (d + 1))) w (acc.add t)

/-- e^x for a dyadic `x`, as an enclosure in [1/2, 4] and a power of two. -/
def expIv (p : Nat) (neg : Bool) (m : Nat) (e : Int) : Iv × Int :=
  let q := p + (max (expOf m e) 0).toNat + 16
  let x := Iv.dyadic q neg m e
  let l := ln2Iv q
  let n := x.lo / l.lo
  let r := (x.sub (l.mulZ n)).divN (2 ^ (q - p))
  (expSmall p r, n)

/-- A value the function has: exactly known, or enclosed as magnitudes `lo` to `hi` times 2^`e`. -/
inductive FunVal where
  | exact (v : Num)
  | near (neg : Bool) (lo hi : Int) (e : Int)
  deriving DecidableEq, Repr

/-- An enclosure in units of 2^-`p`, times 2^`k`, with its sign. -/
def FunVal.ofIv (p : Nat) (a : Iv) (k : Int) : FunVal :=
  if a.hi < 0 then .near true (-a.hi) (-a.lo) (k - (p : Int)) else .near false a.lo a.hi (k - (p : Int))

/-- The functions of R126. -/
inductive FunKind where
  | exp | exp2 | log | log2 | rcp | rsq | sqrt | tanh | sig | erf | sin | cos
  deriving DecidableEq, Repr

/-- ln of a positive dyadic value. -/
def logIv (p : Nat) (m : Nat) (e : Int) : Iv :=
  let b := bitLen m
  let c := if 5 * m < 7 * 2 ^ (b - 1) then b - 1 else b
  let z := Iv.frac p ((m : Int) - (2 ^ c : Nat)) (m + 2 ^ c)
  let l := (atanhIv p z).mulZ 2
  let k := e + (c : Int)
  if k = 0 then l else l.add ((ln2Iv p).mulZ k)

/-- sin or cos of a dyadic value. -/
def trigIv (p : Nat) (cosine neg : Bool) (m : Nat) (e : Int) : Iv :=
  let q := p + 40
  let x := Iv.dyadic q neg m e
  let h := (piIv q).divN 2
  let j := (2 * x.lo + h.lo) / (2 * h.lo)
  let r := (x.sub (h.mulZ j)).divN (2 ^ 40)
  let w := (r.mul p r).neg
  let sn := trigSeries (p / 4 + 16) p 2 r w ⟨0, 0⟩
  let cs := trigSeries (p / 4 + 16) p 1 (Iv.int p 1) w ⟨0, 0⟩
  match ((if cosine then j + 1 else j) % 4).toNat with
  | 0 => sn
  | 1 => cs
  | 2 => sn.neg
  | _ => cs.neg

/-- `x` − `x`³ ≤ f(x) ≤ `x` for a tiny `x`: sine and hyperbolic tangent. -/
def tinyOdd (neg : Bool) (m : Nat) (e : Int) : FunVal :=
  .near neg ((m * 2 ^ 80 : Nat) - (m * 2 ^ 20 : Nat)) (m * 2 ^ 80 : Nat) (e - 80)

/-- The value of a function at a nonzero finite input inside its domain, at working precision `p`. -/
def funAt (p : Nat) (k : FunKind) (neg : Bool) (m : Nat) (e : Int) : FunVal :=
  match k with
  | .exp => let (v, n) := expIv p neg m e; .ofIv p v n
  | .exp2 =>
    if 0 ≤ e then .exact (.fin false 1 (signed neg (m <<< e.toNat)))
    else
      let d : Nat := 2 ^ (-e).toNat
      let x := signed neg m
      let n := x / (d : Int)
      let f := x % (d : Int)
      if f = 0 then .exact (.fin false 1 n)
      else .ofIv p (expSmall p (((ln2Iv p).mulZ f).divN d)) n
  | .log => if ltDy m e 1 0 || ltDy 1 0 m e then .ofIv p (logIv p m e) 0 else .exact (.zero false)
  | .log2 =>
    let x := expOf m e
    if m = 2 ^ (bitLen m - 1) then .exact (ofSigned x 0)
    else .ofIv p ((logIv p m e).mul p ((ln2Iv p).recip p)) 0
  | .rcp => .exact (numDiv (.fin false 1 0) (.fin neg m e))
  | .rsq =>
    let m1 := if e % 2 = 0 then m else 2 * m
    let e1 := if e % 2 = 0 then e else e - 1
    let t := 2 ^ (2 * (p + bitLen m1))
    let r := isqrt (t / m1)
    .near false r (r + (if r * r * m1 = t then 0 else 1)) (-(e1 / 2) - ((p + bitLen m1 : Nat) : Int))
  | .sqrt => .exact (numSqrt (.fin neg m e))
  | .tanh =>
    if expOf m e < -30 then tinyOdd neg m e
    else
      let (v, n) := expIv p true m (e + 1)
      let u := v.shift p n
      let t := ((Iv.int p 1).sub u).mul p (((Iv.int p 1).add u).recip p)
      .ofIv p (if neg then t.neg else t) 0
  | .sig =>
    let (v, n) := expIv p true m e
    let t := ((Iv.int p 1).add (v.shift p n)).recip p
    if neg then .ofIv p (v.mul p t) n else .ofIv p t 0
  | .erf =>
    if 3 ≤ expOf m e || !ltDy m e 6 0 then .near neg ((2 ^ 80 : Nat) - (2 ^ 30 : Nat)) (2 ^ 80 : Nat) (-80)
    else
      let y := Iv.dyadic p false (m * m) (2 * e)
      let sm := factSeries (p / 2 + 160) p 3 2 (Iv.int p 1) (y.mulZ 2) ⟨0, 0⟩
      let (v, n) := expIv p true (m * m) (2 * e)
      let c := (((piIv p).sqrt p).recip p).mulZ 2
      let f := (c.mul p ((v.shift p n).mul p sm)).mulZ m
      .near neg f.lo f.hi (e - (p : Int))
  | .sin => if expOf m e < -30 then tinyOdd neg m e else .ofIv p (trigIv p false neg m e) 0
  | .cos => .ofIv p (trigIv p true neg m e) 0

/-- The rounding of a positive enclosure bound `v` × 2^`e` on the 24-bit grid: mantissa, exponent of its unit, and
whether it lies within 2^-`band` of a midpoint (R128). -/
def gridRound (band : Nat) (v : Int) (e : Int) : Option (Nat × Int × Bool) :=
  let v := v.toNat
  let b := bitLen v
  if b < 48 then none else
  let s := b - 24
  let r := v % 2 ^ s
  let half := 2 ^ (s - 1)
  let d := if half < r then r - half else half - r
  let n := v / 2 ^ s + b2n (decide (half < r))
  if n = 2 ^ 24 then some (2 ^ 23, e + s + 1, decide (d ≤ 2 ^ (s - band)))
  else some (n, e + s, decide (d ≤ 2 ^ (s - band)))

/-- The rounded value and the slow-path mark, at the first of the precisions at which both bounds agree. -/
def funRound (band : Nat) (k : FunKind) (neg : Bool) (m : Nat) (e : Int) : List Nat → Word × Bool
  | [] => (0x7FC00000, false)
  | p :: rest =>
    match funAt p k neg m e with
    | .exact v => (round32 v, false)
    | .near sg lo hi g =>
      match gridRound band lo g, gridRound band hi g with
      | some a, some b =>
        if a = b then (round32 (.fin sg a.1 a.2.1), a.2.2) else funRound band k neg m e rest
      | _, _ => funRound band k neg m e rest

/-- A function of R126 on a code: its result, and whether its lane takes the slow path (R127, R128). -/
def fFun (k : FunKind) (w : Word) : Word × Bool :=
  let qnan : Word := 0x7FC00000
  match decode32 w with
  | .nan => (qnan, false)
  | .inf s =>
    (match k with
     | .exp => if s then 0 else 0x7F800000
     | .exp2 => if s then 0 else 0x7F800000
     | .log => if s then qnan else 0x7F800000
     | .log2 => if s then qnan else 0x7F800000
     | .rcp => if s then 0x80000000 else 0
     | .rsq => if s then qnan else 0
     | .sqrt => if s then qnan else 0x7F800000
     | .tanh => if s then 0xBF800000 else 0x3F800000
     | .sig => if s then 0 else 0x3F800000
     | .erf => if s then 0xBF800000 else 0x3F800000
     | .sin => qnan
     | .cos => qnan, false)
  | .zero s =>
    (match k with
     | .exp => 0x3F800000
     | .exp2 => 0x3F800000
     | .log => 0xFF800000
     | .log2 => 0xFF800000
     | .rcp => if s then 0xFF800000 else 0x7F800000
     | .rsq => if s then 0xFF800000 else 0x7F800000
     | .sig => 0x3F000000
     | .cos => 0x3F800000
     | _ => round32 (.zero s), false)
  | .fin s m e =>
    let positive := k = .log || k = .log2 || k = .rsq || k = .sqrt
    let trig := k = .sin || k = .cos
    if (positive && s) || (trig && ltDy 65536 0 m e) then (qnan, false)
    else funRound (if trig then 17 else 18) k s m e [112, 192, 384, 768, 1536]

/-- Slow-path cycles of one lane (R129). -/
def slowCycles : FunKind → Nat
  | .exp => 48
  | .exp2 => 48
  | .log => 64
  | .log2 => 64
  | .rsq => 40
  | .tanh => 72
  | .sig => 72
  | .erf => 96
  | .sin => 128
  | .cos => 128
  | _ => 0

end Sys2Proof.Machine
end

