-- ==== Sys2Proof/Machine/Slots.lean ====
section
/-! DEFINITION. The four slots of a bundle (R67, R71, R73 to R76), read from its 128 bits, with the forms that a load
refuses (R70, R131, R133, R117, R171, R217). -/

namespace Sys2Proof.Machine

/-- Register-layout and immediate arithmetic of the control slot (R71). -/
inductive AluOp where
  | add | sub | and | or | xor | shl | shr | sra | mul | cmplt | cmpltu | cmpeq
  deriving DecidableEq, Repr

/-- A control slot. -/
inductive Ctl where
  | nop
  | alu (op : AluOp) (xd xa xb : Nat)
  | addi (xd xa imm : Nat)
  | li (xd imm : Nat)
  | shli (xd xa imm : Nat)
  | lih (xd xa imm : Nat)
  | br (off : Int)
  | bz (xa : Nat) (off : Int)
  | bnz (xa : Nat) (off : Int)
  | loop (xa : Nat) (off : Int)
  | wait (half : Bool) (mask : Nat)
  | fence (imm : Nat)
  | mark
  | fin
  | spawn (xa imm : Nat)
  | lidx (xd imm : Nat)
  | rdcnt (xd : Nat)
  | rdobs (xd imm : Nat)
  | rdpar (xd imm : Nat)
  | bad
  deriving DecidableEq, Repr

/-- Vector opcodes (R73). -/
inductive VOp where
  | nop | vmov | vand | vor | vxor | viadd | visub | vshl | vshr | vsel | vsplat | vlidx | vperm
  | fadd | fsub | fmul | ffma | fmin | fmax | fsgn | fdiv | fcmp
  | fexp | fexp2 | flog | flog2 | frcp | frsq | fsqrt | ftanh | fsig | ferf | fsin | fcos
  | cvtin | cvtout | rsuma | rsumt | rmaxi | rmini | rngi | rngl | bad
  deriving DecidableEq, Repr

/-- A vector slot (R73). -/
structure Vec where
  op : VOp
  grp : Nat
  mask : Nat
  vd : Nat
  va : Nat
  vb : Nat
  vc : Nat
  md : Nat
  deriving DecidableEq, Repr

/-- Move opcodes (R74). -/
inductive XOp where
  | nop | ldv | stv | ldx | stx | mdl | tmv | fill | scopy | msg | coll | recv | bad
  deriving DecidableEq, Repr

/-- A move slot (R74). -/
structure Mov where
  op : XOp
  grp : Nat
  reg : Nat
  lfmt : Nat
  xb : Nat
  off : Nat
  deriving DecidableEq, Repr

/-- Matrix opcodes (R76). -/
inductive MOp where
  | nop | mma | mpre | mout | mspill | manch | csave | cload | bad
  deriving DecidableEq, Repr

/-- A matrix slot (R75). -/
structure Mat where
  op : MOp
  md : Nat
  ct : Nat
  k16 : Nat
  flags : Nat
  deriving DecidableEq, Repr

/-- A bundle (R67). -/
structure Bundle where
  ctl : Ctl
  vec : Vec
  mov : Mov
  mat : Mat
  deriving DecidableEq, Repr

/-- An empty vector slot. -/
def Vec.none : Vec := { op := .nop, grp := 0, mask := 0, vd := 0, va := 0, vb := 0, vc := 0, md := 0 }
/-- An empty move slot. -/
def Mov.none : Mov := { op := .nop, grp := 0, reg := 0, lfmt := 0, xb := 0, off := 0 }
/-- An empty matrix slot. -/
def Mat.none : Mat := { op := .nop, md := 0, ct := 0, k16 := 0, flags := 0 }
/-- A bundle of four empty slots. -/
def Bundle.none : Bundle := { ctl := .nop, vec := Vec.none, mov := Mov.none, mat := Mat.none }

/-- The control slot that 32 bits spell (R71). -/
def ctlOf (w : Nat) : Ctl :=
  let d := bitsOf w 25 21
  let a := bitsOf w 20 16
  let b := bitsOf w 15 11
  let i := bitsOf w 15 0
  let o := sInt 21 (bitsOf w 20 0)
  match bitsOf w 31 26 with
  | 0x00 => .nop
  | 0x01 => .alu .add d a b
  | 0x02 => .alu .sub d a b
  | 0x03 => .alu .and d a b
  | 0x04 => .alu .or d a b
  | 0x05 => .alu .xor d a b
  | 0x06 => .alu .shl d a b
  | 0x07 => .alu .shr d a b
  | 0x08 => .alu .sra d a b
  | 0x09 => .alu .mul d a b
  | 0x0A => .alu .cmplt d a b
  | 0x0B => .alu .cmpltu d a b
  | 0x0C => .alu .cmpeq d a b
  | 0x10 => .addi d a i
  | 0x11 => .li d i
  | 0x12 => .shli d a i
  | 0x13 => .lih d a i
  | 0x20 => .br o
  | 0x21 => .bz d o
  | 0x22 => .bnz d o
  | 0x23 => .loop d o
  | 0x28 => .wait (bitAt w 16) i
  | 0x29 => .fence i
  | 0x2A => .mark
  | 0x2B => .fin
  | 0x2C => .spawn a i
  | 0x30 => .lidx d i
  | 0x31 => .rdcnt d
  | 0x32 => .rdobs d i
  | 0x33 => .rdpar d i
  | _ => .bad

/-- The vector opcode of a code (R73). -/
def vopOf (n : Nat) : VOp :=
  match n with
  | 0x00 => .nop
  | 0x01 => .vmov
  | 0x02 => .vand
  | 0x03 => .vor
  | 0x04 => .vxor
  | 0x05 => .viadd
  | 0x06 => .visub
  | 0x07 => .vshl
  | 0x08 => .vshr
  | 0x09 => .vsel
  | 0x0A => .vsplat
  | 0x0B => .vlidx
  | 0x0C => .vperm
  | 0x10 => .fadd
  | 0x11 => .fsub
  | 0x12 => .fmul
  | 0x13 => .ffma
  | 0x14 => .fmin
  | 0x15 => .fmax
  | 0x16 => .fsgn
  | 0x17 => .fdiv
  | 0x18 => .fcmp
  | 0x20 => .fexp
  | 0x21 => .fexp2
  | 0x22 => .flog
  | 0x23 => .flog2
  | 0x24 => .frcp
  | 0x25 => .frsq
  | 0x26 => .fsqrt
  | 0x27 => .ftanh
  | 0x28 => .fsig
  | 0x29 => .ferf
  | 0x2A => .fsin
  | 0x2B => .fcos
  | 0x30 => .cvtin
  | 0x31 => .cvtout
  | 0x40 => .rsuma
  | 0x41 => .rsumt
  | 0x42 => .rmaxi
  | 0x43 => .rmini
  | 0x50 => .rngi
  | 0x51 => .rngl
  | _ => .bad

/-- The move opcode of a code (R74). -/
def xopOf (n : Nat) : XOp :=
  match n with
  | 0x0 => .nop
  | 0x1 => .ldv
  | 0x2 => .stv
  | 0x3 => .ldx
  | 0x4 => .stx
  | 0x5 => .mdl
  | 0x6 => .tmv
  | 0x7 => .fill
  | 0x8 => .scopy
  | 0x9 => .msg
  | 0xA => .coll
  | 0xB => .recv
  | _ => .bad

/-- The matrix opcode of a code (R76). -/
def mopOf (n : Nat) : MOp :=
  match n with
  | 0x0 => .nop
  | 0x1 => .mma
  | 0x2 => .mpre
  | 0x3 => .mout
  | 0x4 => .mspill
  | 0x5 => .manch
  | 0x6 => .csave
  | 0x7 => .cload
  | _ => .bad

/-- The vector slot that 40 bits spell. -/
def vecOf (w : Nat) : Vec :=
  { op := vopOf (bitsOf w 39 33), grp := bitsOf w 32 30, mask := bitsOf w 29 27, vd := bitsOf w 26 22
    va := bitsOf w 21 17, vb := bitsOf w 16 12, vc := bitsOf w 11 7, md := bitsOf w 6 0 }

/-- The move slot that 28 bits spell. -/
def movOf (w : Nat) : Mov :=
  { op := xopOf (bitsOf w 27 24), grp := bitsOf w 23 21, reg := bitsOf w 20 16, lfmt := bitsOf w 15 13
    xb := bitsOf w 12 8, off := bitsOf w 7 0 }

/-- The matrix slot that 28 bits spell. -/
def matOf (w : Nat) : Mat :=
  { op := mopOf (bitsOf w 27 24), md := bitsOf w 23 20, ct := bitsOf w 19 18, k16 := bitsOf w 17 10
    flags := bitsOf w 9 0 }

/-- The bundle that 128 bits spell (R67). -/
def bundleOf (w : BitVec 128) : Bundle :=
  let v := w.toNat
  { ctl := ctlOf (bitsOf v 127 96), vec := vecOf (bitsOf v 95 56), mov := movOf (bitsOf v 55 28), mat := matOf (bitsOf v 27 0) }

/-- The observation selectors (R171). -/
def obsSelectors : List Nat := [0x0000, 0x0001, 0x0002, 0x0003, 0x0004, 0x0005, 0x0010, 0x0011, 0x0012, 0x0013]

/-- Why a load refuses a control slot, other than its targets: 1 BAD_OPCODE, 2 BAD_PARAM. -/
def ctlBad : Ctl → Nat
  | .bad => 1
  | .fence imm => if imm % 4 = 3 then 2 else 0
  | .spawn _ imm => if imm % 4 = 3 then 2 else 0
  | .rdobs _ imm => if obsSelectors.contains imm then 0 else 2
  | .loop _ off => if off < 1 then 2 else 0
  | _ => 0

/-- Why a load refuses a vector slot. -/
def vecBad (v : Vec) : Nat :=
  let bad := match v.op with
    | .vlidx => v.vd == 31
    | .fcmp => v.md % 8 == 0 || 6 < v.md / 8
    | .cvtin => 6 < v.md % 32
    | .cvtout => 6 < v.md % 32
    | .rsuma => 2 < v.md || (v.md == 1 && (29 < v.vd || 29 < v.vc)) || (v.md == 2 && 29 < v.vc)
    | .rmaxi => 29 < v.vd
    | .rmini => 29 < v.vd
    | .rngi => 4 < v.md % 8 || 63 < v.md || (v.md % 8 == 3 && v.md / 8 % 8 == 0) ||
        ((v.md % 8 == 0 || v.md % 8 == 4) && v.vd == 31) || v.vc == 31
    | .rngl => 4 < v.md % 8 || 63 < v.md || (v.md % 8 == 3 && v.md / 8 % 8 == 0) ||
        ((v.md % 8 == 0 || v.md % 8 == 4) && v.vd == 31)
    | _ => false
  if v.op = .bad then 1 else if bad then 2 else 0

/-- Why a load refuses a move slot. -/
def movBad (m : Mov) : Nat :=
  match m.op with
  | .bad => 1
  | .ldv => if m.lfmt = 7 then 2 else 0
  | .stv => if m.lfmt = 7 then 2 else 0
  | .mdl => if 15 < m.reg then 2 else 0
  | _ => 0

/-- Why a load refuses a matrix slot. -/
def matBad (m : Mat) : Nat := if m.op = .bad then 1 else 0

/-- Why a load refuses a bundle's slots, whatever stands around it. Of two reasons the opcode's is given first: R70 does not
say which (DESIGN CHOICE, log entry 73). -/
def bundleBad (b : Bundle) : Nat :=
  let l := [ctlBad b.ctl, vecBad b.vec, movBad b.mov, matBad b.mat]
  if l.contains 1 then 1 else if l.contains 2 then 2 else 0

end Sys2Proof.Machine
end

