-- ==== Sys2Proof/Machine/VecUnit.lean ====
section
/-! DEFINITION. The vector unit: lanes, element-wise operations, reductions and draws (R64, R65, R73, R117, R118, R122 to
R135, R213 to R222), and the 96-bit anchored entries (R93, R96, R97). -/

namespace Sys2Proof.Machine

/-! ## Anchored entries -/

/-- Merge of two states: 0 finite, 1 +∞, 2 −∞, 3 NaN (R96). -/
def mergeSt (a b : Nat) : Nat := if a = 0 then b else if b = 0 then a else if a = b then a else 3

/-- The state and value of a 96-bit entry (R97). -/
def s96Of (b : BitVec 96) : Nat × Int :=
  match bitsOf b.toNat 95 92 with
  | 0x0 => (0, sInt 96 b.toNat)
  | 0xF => (0, sInt 96 b.toNat)
  | 0x4 => (1, 0)
  | 0x5 => (2, 0)
  | _ => (3, 0)

/-- A 96-bit entry from a state and value; a finite value outside [−2^91, 2^91) is NaN (R97, R133, R324). -/
def s96Enc (st : Nat) (v : Int) : BitVec 96 :=
  match st with
  | 0 => if v < -(2 ^ 91 : Nat) || ((2 ^ 91 : Nat) : Int) ≤ v then BitVec.ofNat 96 (6 * 2 ^ 92) else BitVec.ofNat 96 (uInt 96 v)
  | 1 => BitVec.ofNat 96 (4 * 2 ^ 92)
  | 2 => BitVec.ofNat 96 (5 * 2 ^ 92)
  | _ => BitVec.ofNat 96 (6 * 2 ^ 92)

/-- Exact sum of two entries. -/
def s96Add (a b : BitVec 96) : BitVec 96 :=
  let x := s96Of a
  let y := s96Of b
  let st := mergeSt x.1 y.1
  if st = 0 then s96Enc 0 (x.2 + y.2) else s96Enc st 0

/-- The value of an entry at an anchor. -/
def s96Num (b : BitVec 96) (a : Int) : Num :=
  match s96Of b with
  | (0, v) => ofSigned v a
  | (1, _) => .inf false
  | (2, _) => .inf true
  | _ => .nan

/-- The state a non-finite value brings (R115). -/
def numSt : Num → Nat
  | .inf s => if s then 2 else 1
  | .nan => 3
  | _ => 0

/-- A finite value aligned to an anchor, truncated toward −∞ (R93). -/
def alignNum (a : Int) : Num → Int
  | .fin s m e => if a ≤ e then signed s (m <<< (e - a).toNat) else signed s m / (2 ^ (a - e).toNat : Nat)
  | _ => 0

/-! ## Lanes -/

/-- Lane `j` of group `g`, register `r`. -/
def vGet (k : Core) (g j r : Nat) : Word := mapGet 0 k.v ((64 * g + j) * 32 + r)

/-- Whether that lane's register carries poison. -/
def vPois (k : Core) (g j r : Nat) : Bool := mapGet false k.vPoison ((64 * g + j) * 32 + r)

/-- Scalar register `r`; X0 reads 0 (R63). -/
def xGet (k : Core) (r : Nat) : DWord := if r = 0 then 0 else mapGet 0 k.x r

/-- Whether a lane is enabled: K0 AND the named mask (R64, R65). -/
def laneOn (k : Core) (r : Run) (g m j : Nat) : Bool :=
  64 * g + j < r.task.desc.threads && (m = 0 || (mapGet 0 k.k (8 * g + m)).getLsbD j)

/-- The enabled lanes, ascending. -/
def lanesOn (k : Core) (r : Run) (g m : Nat) : List Nat := (List.range 64).filter (laneOn k r g m)

/-- The logical index of a thread (R64). -/
def threadIdx (r : Run) (th : Nat) : Nat := (r.task.desc.lbase.toNat + th) % 2 ^ 40

/-- What a vector instruction does: results to write, latency, slow-path lanes and their charge, whether it consumes
poison, whether it fails its task, and the generator states it leaves. -/
structure VecOut where
  wbs : List Wb
  lat : Nat
  slow : List Nat
  cost : Nat
  consumed : Bool
  fails : Bool
  gen : Option (SMap DWord × SMap Bool)
  wraps : Bool
  deriving DecidableEq, Repr

/-- Results with nothing else to report. -/
def VecOut.plain (wbs : List Wb) (lat : Nat) (consumed : Bool) : VecOut :=
  { wbs := wbs, lat := lat, slow := [], cost := 0, consumed := consumed, fails := false, gen := none, wraps := false }

/-- An element-wise operation over the enabled lanes, from the registers `src`. -/
def vEach (k : Core) (r : Run) (v : Vec) (src : List Nat) (lat : Nat) (f : Nat → Word) : VecOut :=
  let ls := lanesOn k r v.grp v.mask
  let p := fun j => src.any (vPois k v.grp j)
  VecOut.plain [.v v.grp v.vd (ls.map (fun j => (j, f j, p j)))] lat (ls.any p)

/-- One value and its two index words written to every enabled lane. -/
def vSplat3 (v : Vec) (ls : List Nat) (ws : List Word) (p : Bool) : List Wb :=
  ws.zipIdx.map (fun (w, i) => Wb.v v.grp (v.vd + i) (ls.map (fun j => (j, w, p))))

/-- A function of R126 over the enabled lanes; lanes on the slow path are named with their cycles (R128, R129). -/
def vFun (k : Core) (r : Run) (v : Vec) (f : FunKind) (lat : Nat) : VecOut :=
  let ls := lanesOn k r v.grp v.mask
  let rs := ls.map (fun j => (j, fFun f (vGet k v.grp j v.va), vPois k v.grp j v.va))
  let slow := (rs.filter (fun x => x.2.1.2)).map (·.1)
  { VecOut.plain [.v v.grp v.vd (rs.map (fun x => (x.1, x.2.1.1, x.2.2)))] lat (rs.any (·.2.2)) with
    slow := slow, cost := slow.length * slowCycles f }

/-- The three words of an entry. -/
def s96Words (b : BitVec 96) : List Word := [wd b.toNat, wd (b.toNat / 2 ^ 32), wd (b.toNat / 2 ^ 64)]

/-- RSUMA (R131 to R134). -/
def vRsuma (k : Core) (r : Run) (v : Vec) : VecOut :=
  let ls := lanesOn k r v.grp v.mask
  let g := v.grp
  match ls with
  | [] => VecOut.plain [] 10 false
  | l0 :: _ =>
    let anchor := sInt 16 (vGet k g l0 v.vb).toNat
    let part := BitVec.ofNat 96 ((vGet k g l0 v.vc).toNat + 2 ^ 32 * (vGet k g l0 (v.vc + 1)).toNat +
      2 ^ 64 * (vGet k g l0 (v.vc + 2)).toNat)
    let pa := ls.any (fun j => vPois k g j v.va)
    let ph := [v.vb, v.vc, v.vc + 1, v.vc + 2].any (vPois k g l0)
    match v.md % 4 with
    | 0 =>
      let xs := ls.map (fun j => decode32 (vGet k g j v.va))
      VecOut.plain (vSplat3 v ls [round32 (xs.foldl (fun (a : Option Num) x => match a with
        | none => some x
        | some y => some (numAdd y x)) none |>.getD (.zero false))] pa) 10 pa
    | 1 =>
      let xs := ls.map (fun j => decode32 (vGet k g j v.va))
      let big := xs.any (fun x => match x with
        | .fin _ m e => anchor + 91 ≤ expOf m e
        | _ => false)
      let st := xs.foldl (fun a x => mergeSt a (numSt x)) (s96Of part).1
      let sum := xs.foldl (fun a x => a + alignNum anchor x) (s96Of part).2
      let p := pa || ph
      VecOut.plain (vSplat3 v ls (s96Words (if big then s96Enc 3 0 else s96Enc st sum)) p) 10 p
    | _ =>
      VecOut.plain (vSplat3 v ls [wd (encodeElem .fp32 .rne (s96Num part anchor))] ph) 10 ph

/-- One level of the pairwise tree (R135). -/
def treeLevel : List (Option Word) → List (Option Word)
  | a :: b :: t => (match a, b with
      | none, y => y
      | x, none => x
      | some x, some y => some (fAdd x y)) :: treeLevel t
  | l => l

/-- RSUMT (R135). -/
def vRsumt (k : Core) (r : Run) (v : Vec) : VecOut :=
  let ls := lanesOn k r v.grp v.mask
  let leaves := (List.range 64).map (fun j => if laneOn k r v.grp v.mask j then some (vGet k v.grp j v.va) else none)
  match treeLevel (treeLevel (treeLevel (treeLevel (treeLevel (treeLevel leaves))))) with
  | [some w] =>
    let p := ls.any (fun j => vPois k v.grp j v.va)
    VecOut.plain (vSplat3 v ls [w] p) 24 p
  | _ => VecOut.plain [] 24 false

/-- The pair that prevails (R118): `mini` selects the minimum. -/
def maxPair (mini : Bool) (x y : Word × Nat) : Word × Nat :=
  let a := decode32 x.1
  let b := decode32 y.1
  let low := if x.2 < y.2 then x else y
  if a = .nan && b = .nan then low
  else if a = .nan then x
  else if b = .nan then y
  else if (if mini then numLt false a b else numLt false b a) then x
  else if (if mini then numLt false b a else numLt false a b) then y
  else low

/-- The value of a winning pair as written: a NaN is canonical, other bits are kept (R118). -/
def pairBits (w : Word) : Word := if decode32 w = .nan then 0x7FC00000 else w

/-- RMAXI and RMINI (R117). -/
def vMaxi (k : Core) (r : Run) (v : Vec) (mini : Bool) : VecOut :=
  let ls := lanesOn k r v.grp v.mask
  let g := v.grp
  let cont := v.md % 2 = 1
  let pairs := ls.map (fun j => (vGet k g j v.va,
    if cont then (vGet k g j v.vb).toNat + 2 ^ 32 * ((vGet k g j v.vc).toNat % 256) else threadIdx r (64 * g + j)))
  let p := ls.any (fun j => vPois k g j v.va || (cont && (vPois k g j v.vb || vPois k g j v.vc)))
  match pairs with
  | [] => VecOut.plain [] 8 false
  | x :: t =>
    let w := t.foldl (maxPair mini) x
    VecOut.plain (vSplat3 v ls [pairBits w.1, wd w.2, wd (w.2 / 2 ^ 32)] p) 8 p

/-! ## Draws (R213 to R222) -/

/-- The generator (R213). -/
def gen (key : DWord) (stream index draw : Nat) : DWord :=
  mix64 (mix64 (key ^^^ dw (stream * 2 ^ 40) ^^^ dw index) + dw draw)

/-- What an output gives in a shape: the words for VD and VD + 1, and for shape 3 the keep bit (R216). -/
def rngShape (shape t : Nat) (o : DWord) : Word × Option Word × Option Bool :=
  let v := o.toNat
  let uni := fun (n : Nat) => round32 (ofSigned n (-24))
  match shape with
  | 0 => (wd v, some (wd (v / 2 ^ 32)), none)
  | 1 => (uni (v / 2 ^ 40), none, none)
  | 2 => (uni (2 * (v / 2 ^ 41) + 1), none, none)
  | 3 => let keep := v / 2 ^ 40 < t; (if keep then 0x3F800000 else 0, none, some keep)
  | _ => (uni (2 * (v / 2 ^ 41) + 1), some (uni (v % 2 ^ 24)), none)

/-- The writes of a draw from each lane's output. -/
def rngWbs (v : Vec) (t : Nat) (os : List (Nat × DWord)) : List Wb :=
  let rs := os.map (fun x => (x.1, rngShape (v.md % 8) t x.2))
  let a := Wb.v v.grp v.vd (rs.map (fun x => (x.1, x.2.1, false)))
  match v.md % 8 with
  | 0 => [a, .v v.grp (v.vd + 1) (rs.map (fun x => (x.1, x.2.2.1.getD 0, false)))]
  | 4 => [a, .v v.grp (v.vd + 1) (rs.map (fun x => (x.1, x.2.2.1.getD 0, false)))]
  | 3 => [a, .k v.grp (v.md / 8 % 8) (rs.map (fun x => (x.1, x.2.2.2.getD false)))]
  | _ => [a]

/-- Whether a stream is reserved for the device (R218). -/
def streamReserved (n : Nat) : Bool := 0xFFFF00 ≤ n

/-- RNGI (R215, R218). -/
def vRngi (k : Core) (r : Run) (v : Vec) : VecOut :=
  let xb := (xGet k v.vb).toNat
  let stream := bitsOf xb 39 16
  let ls := lanesOn k r v.grp v.mask
  let idx := fun j => (vGet k v.grp j v.vc).toNat + 2 ^ 32 * ((vGet k v.grp j (v.vc + 1)).toNat % 256)
  let p := ls.any (fun j => vPois k v.grp j v.vc || vPois k v.grp j (v.vc + 1))
  if streamReserved stream then { VecOut.plain [] 6 false with fails := true }
  else
    let os := ls.map (fun j => (j, gen (xGet k v.va) stream (idx j) (xb % 2 ^ 16)))
    let wbs := (rngWbs v (bitsOf xb 63 40) os).map (fun w => match w with
      | .v g reg vals => Wb.v g reg (vals.map (fun (x : Nat × Word × Bool) =>
          (x.1, x.2.1, vPois k v.grp x.1 v.vc || vPois k v.grp x.1 (v.vc + 1))))
      | w => w)
    VecOut.plain wbs 6 p

/-- The next lane-state entry, and whether it moved to the next stream (R221). -/
def genNext (e : DWord) : DWord × Bool :=
  let draw := e.toNat % 2 ^ 16
  let stream := e.toNat / 2 ^ 16 % 2 ^ 24
  if draw = 0xFFFF then (dw ((if stream = 0xFFFEFF then 0 else stream + 1) * 2 ^ 16), true) else (e + 1, false)

/-- RNGL (R215, R218, R221); `key` is the context's lane-state key. -/
def vRngl (key : DWord) (k : Core) (r : Run) (v : Vec) : VecOut :=
  let xb := (xGet k v.vb).toNat
  let ls := lanesOn k r v.grp v.mask
  let ent := fun j => mapGet 0 k.gen (64 * v.grp + j)
  let stream := fun j => (ent j).toNat / 2 ^ 16 % 2 ^ 24
  if ls.any (fun j => streamReserved (stream j)) then { VecOut.plain [] 6 false with fails := true }
  else
    let os := ls.map (fun j => (j, gen key (stream j) (threadIdx r (64 * v.grp + j)) ((ent j).toNat % 2 ^ 16)))
    let g := ls.foldl (fun (a : SMap DWord) j => mapSet 0 a (64 * v.grp + j) (genNext (ent j)).1) k.gen
    let d := ls.foldl (fun (a : SMap Bool) j => mapSet false a (64 * v.grp + j) true) k.genDrew
    { VecOut.plain (rngWbs v (bitsOf xb 63 40) os) 6 false with
      gen := some (g, d), wraps := ls.any (fun j => (genNext (ent j)).2) }

/-- The storage format of a conversion's code, codes 0x00 to 0x06 (R73). -/
def cvtElem (code : Nat) : Elem := match fmtOf code with | some f => f.elem | none => .fp32

/-- What a vector slot does (R73). -/
def vecExec (lskey : DWord) (k : Core) (r : Run) (v : Vec) : VecOut :=
  let g := v.grp
  let a := fun j => vGet k g j v.va
  let b := fun j => vGet k g j v.vb
  let c := fun j => vGet k g j v.vc
  let ab := [v.va, v.vb]
  match v.op with
  | .nop => VecOut.plain [] 1 false
  | .bad => VecOut.plain [] 1 false
  | .vmov => { vEach k r v [v.va] 1 a with consumed := false }
  | .vand => vEach k r v ab 1 (fun j => a j &&& b j)
  | .vor => vEach k r v ab 1 (fun j => a j ||| b j)
  | .vxor => vEach k r v ab 1 (fun j => a j ^^^ b j)
  | .viadd => vEach k r v ab 1 (fun j => a j + b j)
  | .visub => vEach k r v ab 1 (fun j => a j - b j)
  | .vshl => vEach k r v ab 1 (fun j => a j <<< ((b j).toNat % 32))
  | .vshr => vEach k r v ab 1 (fun j => a j >>> ((b j).toNat % 32))
  | .vsel =>
    let m := mapGet 0 k.k (8 * g + v.md % 8)
    let t := fun j => if v.md % 8 = 0 then 64 * g + j < r.task.desc.threads else m.getLsbD j
    vEach k r v ab 1 (fun j => if t j then a j else b j)
  | .vsplat => vEach k r v [] 2 (fun _ => wd (xGet k v.va).toNat)
  | .vlidx =>
    let ls := lanesOn k r g v.mask
    VecOut.plain [.v g v.vd (ls.map (fun j => (j, wd (threadIdx r (64 * g + j)), false))),
      .v g (v.vd + 1) (ls.map (fun j => (j, wd (threadIdx r (64 * g + j) / 2 ^ 32), false)))] 1 false
  | .vperm =>
    let ls := lanesOn k r g v.mask
    let q := fun j => (b j).toNat % 64
    let p := fun j => vPois k g j v.vb || vPois k g (q j) v.va
    VecOut.plain [.v g v.vd (ls.map (fun j => (j, vGet k g (q j) v.va, p j)))] 3 (ls.any p)
  | .fadd => vEach k r v ab 4 (fun j => fAdd (a j) (b j))
  | .fsub => vEach k r v ab 4 (fun j => fSub (a j) (b j))
  | .fmul => vEach k r v ab 4 (fun j => fMul (a j) (b j))
  | .ffma => vEach k r v [v.va, v.vb, v.vc] 4 (fun j => fFma (a j) (b j) (c j))
  | .fmin => vEach k r v ab 2 (fun j => fMin (a j) (b j))
  | .fmax => vEach k r v ab 2 (fun j => fMax (a j) (b j))
  | .fsgn => vEach k r v [v.va] 1 (fun j => if v.md % 2 = 0 then a j ^^^ 0x80000000 else a j &&& 0x7FFFFFFF)
  | .fdiv => vEach k r v ab 14 (fun j => fDiv (a j) (b j))
  | .fcmp =>
    let ls := lanesOn k r g v.mask
    VecOut.plain [.k g (v.md % 8) (ls.map (fun j => (j, fCmp (v.md / 8) (a j) (b j))))] 2
      (ls.any (fun j => ab.any (vPois k g j)))
  | .fexp => vFun k r v .exp 12
  | .fexp2 => vFun k r v .exp2 12
  | .flog => vFun k r v .log 14
  | .flog2 => vFun k r v .log2 14
  | .frcp => vFun k r v .rcp 10
  | .frsq => vFun k r v .rsq 10
  | .fsqrt => vFun k r v .sqrt 12
  | .ftanh => vFun k r v .tanh 16
  | .fsig => vFun k r v .sig 16
  | .ferf => vFun k r v .erf 18
  | .fsin => vFun k r v .sin 20
  | .fcos => vFun k r v .cos 20
  | .cvtin =>
    let t := cvtElem (v.md % 32)
    vEach k r v [v.va] 3 (fun j => wd (encodeElem .fp32 .rne (decodeElem t ((a j).toNat % 2 ^ t.bits))))
  | .cvtout => vEach k r v [v.va] 3 (fun j => wd (encodeElem (cvtElem (v.md % 32)) .rne (decode32 (a j))))
  | .rsuma => vRsuma k r v
  | .rsumt => vRsumt k r v
  | .rmaxi => vMaxi k r v false
  | .rmini => vMaxi k r v true
  | .rngi => vRngi k r v
  | .rngl => vRngl lskey k r v

end Sys2Proof.Machine
end

