-- ==== Sys2Proof/Machine/MatUnit.lean ====
section
/-! DEFINITION. The matrix array, crates and output conversion (R75 to R77, R90 to R116). -/

namespace Sys2Proof.Machine

/-! ## Descriptors (R77, R110) -/

/-- Word `i` of a matrix descriptor. -/
def mdW (md : List Byte) (i : Nat) : Nat := getLE md (4 * i) 4

/-- The fields of a matrix descriptor. -/
structure Md where
  aAddr : Nat
  bAddr : Nat
  aScale : Nat
  bScale : Nat
  aFmt : Nat
  bFmt : Nat
  aStride : Nat
  bStride : Nat
  anchor : Int
  ppAddr : Nat
  brow : Nat
  bcol : Nat
  ncols : Nat
  mrows : Nat
  own : Bool
  tally : Bool
  ofmt : Nat
  sr : Bool
  sclKind : Nat
  biasKind : Nat
  biasS16 : Bool
  clip : Bool
  axisCol : Bool
  sclP2 : Int
  scale : Word
  clipLo : Word
  clipHi : Word
  outAddr : Nat
  outStride : Nat
  biasAddr : Nat
  preAddr : Nat
  tag : Nat
  deriving DecidableEq, Repr

/-- A matrix descriptor read from its 64 bytes. -/
def mdOf (b : List Byte) : Md :=
  let w := mdW b
  { aAddr := bitsOf (w 0) 15 0, bAddr := bitsOf (w 0) 31 16, aScale := bitsOf (w 1) 15 0, bScale := bitsOf (w 1) 31 16
    aFmt := bitsOf (w 2) 12 8, bFmt := bitsOf (w 2) 20 16, aStride := bitsOf (w 3) 15 0, bStride := bitsOf (w 3) 31 16
    anchor := sInt 16 (bitsOf (w 4) 31 16), ppAddr := bitsOf (w 4) 15 0, brow := w 5, bcol := w 6, ncols := w 7, mrows := w 8
    own := bitAt (w 9) 31, tally := bitAt (w 9) 30, ofmt := bitsOf (w 9) 29 25, sr := bitAt (w 9) 24
    sclKind := bitsOf (w 9) 23 22, biasKind := bitsOf (w 9) 21 20, biasS16 := bitAt (w 9) 19, clip := bitAt (w 9) 18
    axisCol := bitAt (w 9) 17, sclP2 := sInt 8 (bitsOf (w 9) 15 8), scale := wd (w 10), clipLo := wd (w 11), clipHi := wd (w 12)
    outAddr := bitsOf (w 13) 31 16, outStride := bitsOf (w 13) 15 0, biasAddr := bitsOf (w 14) 31 16
    preAddr := bitsOf (w 14) 15 0, tag := bitsOf (w 15) 31 8 }

/-- Whether a word is a finite FP32 code. -/
def finite32 (w : Word) : Bool := bitsOf w.toNat 30 23 != 255

/-- Whether the reserved bits of words 4 to 15 are 0 (R110). -/
def mdPlain (b : List Byte) : Bool := !bitAt (mdW b 9) 16 && bitsOf (mdW b 9) 7 0 == 0 && bitsOf (mdW b 15) 7 0 == 0

/-- Whether the fields that MANCH uses lie in their ranges and the block touches the tensor (R35, R91, R110). -/
def manchOk (b : List Byte) : Bool :=
  let d := mdOf b
  mdPlain b && 1 ≤ d.ncols && 1 ≤ d.mrows && d.mrows * d.ncols ≤ 2 ^ 40 && 32 * d.brow < d.mrows && 32 * d.bcol < d.ncols &&
    d.tag < 0x7FFFFF

/-- Whether the fields that MOUT uses lie in their ranges (R110). -/
def moutOk (b : List Byte) : Bool :=
  let d := mdOf b
  mdPlain b && (fmtOf d.ofmt).isSome && d.ofmt != 7 && d.sclKind != 3 && d.biasKind != 3 &&
    (d.sclKind != 2 || finite32 d.scale && (bitsOf d.scale.toNat 30 23 != 0 || bitsOf d.scale.toNat 22 0 == 0)) &&
    (!d.clip || finite32 d.clipLo && finite32 d.clipHi && !numLt false (decode32 d.clipHi) (decode32 d.clipLo))

/-- The logical block index (R90). -/
def Md.block (d : Md) : Nat := d.brow * ((d.ncols + 31) / 32) + d.bcol

/-- The logical index of an element of the block (R90). -/
def elemIdx (ncols brow bcol i j : Nat) : Nat := ((32 * brow + i) * ncols + 32 * bcol + j) % 2 ^ 40

/-- Reduction steps of an instruction (R75). -/
def kSteps (k16 : Nat) : Nat := (k16 + 1) * 16

/-! ## Operands -/

/-- Codes packed in bytes, in order (R60). -/
def codesOf (bits : Nat) (bs : List Byte) : List Nat :=
  match bits with
  | 32 => (chunksOf 4 (bs.length + 1) bs).map ofLE
  | 16 => (chunksOf 2 (bs.length + 1) bs).map ofLE
  | 8 => bs.map (·.toNat)
  | 6 => ((chunksOf 3 (bs.length + 1) bs).map (fun g =>
      let w := ofLE g
      [w % 64, w / 64 % 64, w / 4096 % 64, w / 262144 % 64])).flatten
  | _ => (bs.map (fun b => [b.toNat % 16, b.toNat / 16])).flatten

/-- Values of `n` stored codes of a format with the scale bytes of their blocks. -/
def rowValues (f : Fmt) (n : Nat) (codes scales : List Byte) : List Num :=
  if f.block = 0 then ((codesOf f.elem.bits codes).take n).map (decodeElem f.elem)
  else
    let pb := packedLen f.elem.bits f.block
    (((chunksOf pb (codes.length + 1) codes).zipIdx.map (fun (c, i) =>
      ((codesOf f.elem.bits c).take f.block).map (decodeScaled f.elem (byteAt scales i)))).flatten).take n

/-- The byte ranges of an operand: 32 rows of codes at its stride, and its scales row after row (log entry 15). -/
def operandRanges (f : Fmt) (addr scale stride k : Nat) : List (Nat × Nat) :=
  let codes := (64 * addr, 64 * addr + 31 * stride + rowBytes f k)
  if f.block = 0 then [codes] else [codes, (64 * scale, 64 * scale + 32 * rowBlocks f k)]

/-- What reading shelf pieces gave beside the values. -/
structure ReadNote where
  poison : Bool
  hazards : Nat
  bad : Option Nat
  deriving DecidableEq, Repr

/-- Notes of several reads together. -/
def ReadNote.join (a b : ReadNote) : ReadNote :=
  { poison := a.poison || b.poison, hazards := a.hazards + b.hazards, bad := match a.bad with | some x => some x | none => b.bad }

/-- Nothing to note. -/
def ReadNote.none : ReadNote := { poison := false, hazards := 0, bad := Option.none }

/-- The notes of a shelf read. -/
def ShelfGot.note (g : ShelfGot) : ReadNote := { poison := g.poison, hazards := g.hazards, bad := g.bad }

/-- The 32 rows of an operand (R75, R76). The padding codes a bit-for-bit copy brought to the shelf are multiplied as they
are stored: the descriptor holds no reduction length, and R58 does not say how they are read (DESIGN CHOICE, log entry 72).
-/
def operandRows (s : State) (c : Nat) (f : Fmt) (addr scale stride k : Nat) : List (List Num) × ReadNote :=
  let rows := (List.range 32).map (fun r =>
    let g := shelfGet s c (64 * addr + r * stride) (rowBytes f k)
    let h := if f.block = 0 then shelfGet s c 0 0 else shelfGet s c (64 * scale + r * rowBlocks f k) (rowBlocks f k)
    (rowValues f k g.bytes h.bytes, g.note.join h.note))
  (rows.map (·.1), rows.foldl (fun a x => a.join x.2) ReadNote.none)

/-! ## Accumulation (R93 to R96, R104, R105) -/

/-- What a stream of terms does to one element at an anchor: value, state, the largest ⌊log2⌋ of its finite terms. -/
structure AccStep where
  v : Int
  st : Nat
  top : Option Int
  deriving DecidableEq, Repr

/-- The larger of two optional exponents. -/
def maxOpt (a b : Option Int) : Option Int :=
  match a, b with
  | none, y => y
  | x, none => x
  | some x, some y => some (max x y)

/-- One term added. -/
def accTerm (anchor : Int) (a : AccStep) (p : Num) : AccStep :=
  { v := a.v + alignNum anchor p, st := mergeSt a.st (numSt p)
    top := match p with
      | .fin _ m e => maxOpt a.top (some (expOf m e))
      | _ => a.top }

/-- The dot product of two rows of values added to an element. -/
def accRow (anchor : Int) (a : AccStep) : List Num → List Num → AccStep
  | x :: xs, y :: ys => accRow anchor (accTerm anchor a (numMul x y)) xs ys
  | _, _ => a

/-- The block's accumulators after one MMA: 1,024 elements. -/
def mmaRun (anchor : Int) (acc : SMap DWord) (st : SMap Nat) (as bs : List (List Num)) : List AccStep :=
  (as.zipIdx.map (fun (ra, i) => bs.zipIdx.map (fun (rb, j) =>
    accRow anchor { v := sInt 64 (mapGet 0 acc (32 * i + j)).toNat, st := mapGet 0 st (32 * i + j), top := none } ra rb))).flatten

/-- Accumulators put back into the core. -/
def accStore (l : List AccStep) (k : Core) : Core :=
  { k with
    acc := l.zipIdx.foldl (fun (a : SMap DWord) x => mapSet 0 a x.2 (dw (uInt 64 x.1.v))) []
    accSt := l.zipIdx.foldl (fun (a : SMap Nat) x => mapSet 0 a x.2 x.1.st) [] }

/-- The largest exponent met in a block. -/
def blockTop (l : List AccStep) : Option Int := l.foldl (fun a x => maxOpt a x.top) none

/-- The raise entry of a tile's present block. -/
def raiseOf (k : Core) (ct : Nat) (t : Tile) : Option Raise :=
  match mapFind k.raises ct with
  | some e => if e.tag = t.tag && e.block = t.block then some e else none
  | none => none

/-- A trip: the block's anchor rises by the excess + 1; the fourth trip asks for the measuring pass. The core is to repeat
from its repeat point (R104, R105, R107). -/
def tripTile (ct : Nat) (t : Tile) (anchor excess : Int) (k : Core) : Core :=
  let n := (match raiseOf k ct t with | some e => e.count | none => 0) + 1
  let a := if n = 4 then anchor else anchor + excess + 1
  { k with raises := mapPut k.raises ct { tag := t.tag, block := t.block, anchor := a, count := min n 5 }, repeatDue := true }

/-- Whether the last trip of a tile counted as an anchor raise (R108). -/
def tripRaises (k : Core) (ct : Nat) (t : Tile) : Bool :=
  (match raiseOf k ct t with | some e => e.count | none => 0) + 1 != 4

/-- Tensor accumulators with one more anchor raise under a tag. -/
def raiseTag (tag : Nat) (r : Run) : Run :=
  { r with tens := mapPut r.tens tag { accOf r.tens tag with raises := satTo 65535 ((accOf r.tens tag).raises + 1) } }

/-- One anchor raise counted in the step and under its block's tag (R108); a re-execution for an audit counts nothing. -/
def countRaise (c : Nat) (tag : Nat) (s : State) : State :=
  match (coreOf s c).run with
  | none => s
  | some r =>
    if r.isAudit then s else
    modRun c (raiseTag tag) (modStep r.task.slot r.task.step (fun e => { e with raises := e.raises + 1 }) s)

/-- The largest exponent among the finite products of rows of A with rows of B. -/
def prodTop (as bs : List (List Num)) : Option Int :=
  as.foldl (fun a ra => bs.foldl (fun b rb => maxOpt b (accRow 0 { v := 0, st := 0, top := none } ra rb).top) a) none

/-- The largest exponents of the terms of an MMA, cycle by cycle (R76, R104): `k` reduction steps, two in each cycle of the
4-bit class, one in each of the 8-bit class; in S16 each step takes four cycles, eight rows of the array in each (log
entry 34). -/
def mmaTops (occ k : Nat) (as bs : List (List Num)) : List (Option Int) :=
  let col := fun (i n : Nat) (rows : List (List Num)) => rows.map (fun r => (r.drop i).take n)
  if occ = 4 * k then
    ((List.range k).map (fun i => (chunksOf 8 5 (col i 1 as)).map (fun q => prodTop q (col i 1 bs)))).flatten
  else
    let n := k / (max occ 1)
    (List.range occ).map (fun i => prodTop (col (n * i) n as) (col (n * i) n bs))

/-- What comes of the terms of an MMA or MPRE: stored, measured, or tripped by the largest term of the first cycle in which
one trips (R94, R104, R105). `tops` gives the largest exponent of each cycle. -/
def macResult (c ct : Nat) (t : Tile) (anchor : Int) (l : List AccStep) (tops : List (Option Int)) (k : Core) (s : State) : State :=
  let top := blockTop l
  if t.measuring then
    setCore c { k with tiles := mapPut k.tiles ct { t with maxExp := maxOpt t.maxExp top } } s
  else match top with
    | some x =>
      if anchor + 50 ≤ x then
        let first := (tops.findSome? (fun y => match y with
          | some y => if anchor + 50 ≤ y then some y else none
          | none => none)).getD x
        let s1 := setCore c (tripTile ct t anchor (first - anchor - 50) k) s
        if tripRaises k ct t then countRaise c t.tag s1 else s1
      else setCore c (accStore l k) s
    | none => setCore c (accStore l k) s

/-- Accumulators at value 0, state finite. -/
def accClear (k : Core) : Core := { k with acc := [], accSt := [], accPoison := false, accTile := none, steps := 0 }

/-- A block's anchor poisoned by its pre-pass (R101). -/
def anchorPoison (ct : Nat) (k : Core) : Core :=
  match mapFind k.tiles ct with
  | some t => { k with tiles := mapPut k.tiles ct { t with anchPoison := true } }
  | none => k

/-- A block's poison noted in its tile. -/
def tilePoison (ct : Nat) (p : Bool) (k : Core) : Core :=
  match mapFind k.tiles ct with
  | some t => if p then { k with tiles := mapPut k.tiles ct { t with poison := true } } else k
  | none => k

/-- Accumulators added exactly into the entries of a crate tile (R98). -/
def spillInto (ct : Nat) (acc : SMap DWord) (st : SMap Nat) (p : Bool) (k : Core) : Core :=
  let keys := (acc.map (·.1) ++ st.map (·.1)).eraseDups
  let all := (keys ++ (mapKeysIn k.crate (1024 * ct) (1024 * ct + 1024)).map (· - 1024 * ct)).eraseDups
  let cr := all.foldl (fun (a : SMap (BitVec 96)) i =>
    let old := mapGet 0 a (1024 * ct + i)
    let e := mapGet 0 st i
    let add := if e = 0 then s96Enc 0 (sInt 64 (mapGet 0 acc i).toNat) else s96Enc e 0
    mapSet 0 a (1024 * ct + i) (s96Add old add)) k.crate
  tilePoison ct p { k with crate := cr }

/-- The accumulators added into a crate tile at once, and cleared (R394 phase 3). -/
def spill (ct : Nat) (k : Core) : Core := accClear (spillInto ct k.acc k.accSt k.accPoison k)

/-- The 12 KiB image of a crate tile (R97). -/
def crateBytes (ct : Nat) (k : Core) : List Byte :=
  ((List.range 1024).map (fun i => leBytes 12 (mapGet 0 k.crate (1024 * ct + i)).toNat)).flatten

/-- A crate tile's entries replaced from an image (R91). -/
def crateLoad (ct : Nat) (bs : List Byte) (k : Core) : Core :=
  { k with crate := ((chunksOf 12 (bs.length + 1) bs).zipIdx).foldl (fun (a : SMap (BitVec 96)) x =>
      mapSet 0 a (1024 * ct + x.2) (BitVec.ofNat 96 (ofLE x.1))) (mapClear k.crate (1024 * ct) (1024 * ct + 1024)) }

/-! ## MANCH (R91, R99, R107, R174) -/

/-- Whether a MANCH differs from the declared grid, in modes 0 and 1 (R174). -/
def gridBad (im : Image) (d : Md) (auto : Bool) : Bool :=
  match mapFind im.tensors d.tag with
  | none => true
  | some e =>
    let mode := byteAt e 3 / 2 % 4
    getLE e 4 4 != d.mrows || getLE e 8 4 != d.ncols ||
      (mode == 0 && !auto) || (mode == 1 && (auto || sInt 16 (getLE e 12 2) != d.anchor))

/-- The memory check that a MANCH under mode 2 starts. -/
def gridTable (im : Image) (d : Md) (auto : Bool) : Option GridCheck :=
  match mapFind im.tensors d.tag with
  | none => none
  | some e => if byteAt e 3 / 2 % 4 = 2 then some ⟨getLE e 16 5 + 2 * d.block, auto, d.anchor⟩ else none

/-- A block bound to a crate tile: entries kept for the same block, else cleared; a raise entry of the block overrides the
anchor source, one of another block closes. In its measuring pass a block keeps the largest exponent it has met (R105). -/
def bindTile (ct : Nat) (d : Md) (auto : Bool) (arr : Nat) (k : Core) : Core :=
  let same := match mapFind k.tiles ct with
    | some t => t.tag = d.tag && t.block = d.block
    | none => false
  let e := match mapFind k.raises ct with
    | some e => if e.tag = d.tag && e.block = d.block then some e else none
    | none => none
  let anchor := match e with
    | some e => if auto then none else some e.anchor
    | none => if auto then none else some d.anchor
  let poison := match mapFind k.tiles ct with | some t => same && t.poison | none => false
  let anchPoison := match mapFind k.tiles ct with | some t => same && t.anchPoison | none => false
  let measuring := match e with | some e => e.count = 4 | none => false
  let top := match mapFind k.tiles ct with | some t => if same && measuring then t.maxExp else none | none => none
  let t : Tile :=
    { tag := d.tag, block := d.block, brow := d.brow, bcol := d.bcol, ncols := d.ncols, mrows := d.mrows, anchor := anchor
      autoSlot := arr, poison := poison, anchPoison := anchPoison, measuring := measuring, maxExp := top }
  { k with
    crate := if same then k.crate else mapClear k.crate (1024 * ct) (1024 * ct + 1024)
    raises := if e.isSome then k.raises else mapDel k.raises ct
    tiles := mapPut k.tiles ct t }

/-! ## Output conversion (R111 to R116) -/

/-- Trailing zeros of a mantissa moved into its exponent; `fuel` bounds them. -/
def oddPart : Nat → Nat → Int → Nat × Int
  | 0, m, e => (m, e)
  | fuel + 1, m, e => if m % 2 = 0 && m != 0 then oddPart fuel (m / 2) (e + 1) else (m, e)

/-- compress (R112). -/
def compress (v : Num) : Num :=
  match v with
  | .fin s m e =>
    let (m, e) := oddPart (bitLen m) m e
    let b := bitLen m
    if b ≤ 63 then .fin s m e
    else
      let d := b - 63
      let top := m / 2 ^ d
      .fin s (if m % 2 ^ d != 0 && top % 2 = 0 then top + 1 else top) (e + (d : Int))
  | v => v

/-- The bias value of an element. -/
def biasAt (d : Md) (vals : List Word) (i j : Nat) : Num :=
  match d.biasKind with
  | 1 => decode32 (vals.getD j 0)
  | 2 => decode32 (vals.getD i 0)
  | _ => .zero true

/-- The value of an output element up to the clip step (R111). -/
def outValue (d : Md) (anchor : Int) (bias : List Word) (e : BitVec 96) (i j : Nat) : Num :=
  let v := s96Num e anchor
  let v := match d.sclKind with
    | 1 => v.scale d.sclP2
    | 2 => numMul v (decode32 d.scale)
    | _ => v
  let v := if d.biasKind = 0 then v else numAdd v (biasAt d bias i j)
  let v := if v.special || !d.clip then v
    else if numLt false v (decode32 d.clipLo) then decode32 d.clipLo
    else if numLt false (decode32 d.clipHi) v then decode32 d.clipHi
    else v
  match v with
  | .zero _ => .zero false
  | v => compress v

/-- An output of MOUT: the shelf writes, and for each element written its position, code bits, value and whether it counts
as non-finite; for each scale its block's logical index and code. -/
structure MoutOut where
  writes : List (Nat × List Byte)
  elems : List (Nat × Nat × Bool × Nat)
  scales : List (Nat × Nat)
  deriving DecidableEq, Repr

/-- The kind of an affected element: 0 NaN, 1 +∞, 2 −∞ (R42, R116). -/
def nfKind (v : Num) : Nat := match v with | .inf s => if s then 2 else 1 | _ => 0

/-- The rounding of an output element: RNE, or the stochastic draw of its index (R113, R229). -/
def outRnd (srkey : DWord) (step : DWord) (d : Md) (idx : Nat) : Rnd :=
  if d.sr then .sr (gen (mix64 (srkey ^^^ mix64 step) ^^^ dw (d.tag * 2 ^ 40)) 0xFFFFF0 idx 0) else .rne

/-- The conversion of a crate tile (R111 to R114, R92). -/
def moutRun (srkey step : DWord) (d : Md) (f : Fmt) (anchor : Int) (bias : List Word) (entry : Nat → BitVec 96) : MoutOut :=
  let axis := d.axisCol && f.block != 0
  let base := 64 * d.outAddr
  let rows := (List.range 32).map (fun r =>
    let es : List (Nat × Nat) := ((List.range 32).map (fun e => if axis then (e, r) else (r, e))).filter (fun p =>
      32 * d.brow + p.1 < d.mrows && 32 * d.bcol + p.2 < d.ncols)
    let vs : List (Nat × Num) := es.map (fun (i, j) => (elemIdx d.ncols d.brow d.bcol i j, outValue d anchor bias (entry (32 * i + j)) i j))
    let addr := base + r * d.outStride
    if f.block = 0 then
      let cs := vs.map (fun (x, v) => encodeElem f.elem (outRnd srkey step d x) v)
      ((if cs.isEmpty then [] else [(addr, packCodes f.elem.bits cs)]),
       (vs.zip cs).map (fun (x : (Nat × Num) × Nat) => (x.1.1, x.2, encodeNonfinite f.elem x.1.2, nfKind x.1.2)), [])
    else
      let pb := packedLen f.elem.bits f.block
      let blocks := (chunksOf f.block 33 vs).zipIdx.map (fun (q : List (Nat × Num) × Nat) =>
        let bl := q.1
        let b := q.2
        let n := bl.length
        let (sc, cs) := encodeBlock f.elem (fun i => outRnd srkey step d (bl.getD i (0, .nan)).1) (bl.map (·.2))
        let (i0, j0) := es.getD (b * f.block) (0, 0)
        let bidx := if axis then (32 * d.brow + i0) / f.block * d.ncols + 32 * d.bcol + j0
          else (32 * d.brow + i0) * ((d.ncols + f.block - 1) / f.block) + (32 * d.bcol + j0) / f.block
        ([(addr + b * pb, packCodes f.elem.bits (cs ++ List.replicate (f.block - n) 0)),
          (base + 32 * d.outStride + r * (32 / f.block) + b, [by8 sc])],
         (bl.zip cs).map (fun (x : (Nat × Num) × Nat) => (x.1.1, x.2, encodeNonfinite f.elem x.1.2, nfKind x.1.2)), [(bidx, sc)]))
      ((blocks.map (·.1)).flatten, (blocks.map (·.2.1)).flatten, (blocks.map (·.2.2)).flatten))
  { writes := (rows.map (·.1)).flatten, elems := (rows.map (·.2.1)).flatten, scales := (rows.map (·.2.2)).flatten }

/-- The elements and scales of a MOUT contributed to its tensors, where the tensor is tallied at MOUT (R35, R36, R147). -/
def moutTally (d : Md) (block : Nat) (poison : Bool) (o : MoutOut) (r : Run) : Run :=
  if !d.tally then r else
  let r1 := o.elems.foldl (fun a e => runTally d.own d.tag e.1 e.2.1 false poison (some block) a) r
  o.scales.foldl (fun a e => runTally d.own (d.tag + 0x800000) e.1 e.2 false poison none a) r1

/-- The first affected element of an owned block, for its tile slot and its tensor slot (R116). -/
def moutReport (d : Md) (block : Nat) (o : MoutOut) (r : Run) : Run :=
  if !d.own then r else
  match minBy? (fun e => e.1) (o.elems.filter (fun e => e.2.2.1)) with
  | some e =>
    let a := accOf r.regionTens d.tag
    let b := { a with firstNf := minOpt a.firstNf (some e.1), tiles := addTile a.tiles (block, e.1, e.2.2.2) }
    { r with regionTens := mapPut r.regionTens d.tag b }
  | none => r

/-- A MOUT's descriptor with the place of the block of the tile it names (R91). -/
def Md.placed (d : Md) (t : Tile) : Md := { d with brow := t.brow, bcol := t.bcol, ncols := t.ncols, mrows := t.mrows, tag := t.tag }

/-- Occupancy of MOUT (R76). -/
def moutOcc (f : Fmt) : Nat := (if f.elem = .fp32 then 64 else 32) + (if f.block = 0 then 0 else 1)

/-- Array class of an MMA: occupancy and ticks a cycle (R52, R76, R86); none where the pair is refused. -/
def mmaClass (d : Md) (k : Nat) : Option (Nat × Nat) :=
  match fmtClass d.aFmt, fmtClass d.bFmt with
  | 1, 1 => some (4 * k, 3)
  | 3, 3 => some (k / 2, 5)
  | 2, 2 => some (k, 4)
  | 2, 3 => some (k, 4)
  | 3, 2 => some (k, 4)
  | _, _ => none

/-- The shelf ranges that a matrix instruction reads or writes. -/
def matRanges (m : Mat) (d : Md) : List (Nat × Nat) :=
  match m.op with
  | .mma =>
    match fmtOf d.aFmt, fmtOf d.bFmt with
    | some fa, some fb =>
      operandRanges fa d.aAddr d.aScale d.aStride (kSteps m.k16) ++ operandRanges fb d.bAddr d.bScale d.bStride (kSteps m.k16)
    | _, _ => []
  | .mpre => [(64 * d.preAddr, 64 * d.preAddr + 2048)]
  | .mout =>
    match fmtOf d.ofmt with
    | some f =>
      let rows := min 32 (if d.axisCol && f.block != 0 then d.ncols - 32 * d.bcol else d.mrows - 32 * d.brow)
      [(64 * d.outAddr, 64 * d.outAddr + (rows - 1) * d.outStride + rowBytes f 32)] ++
        (if f.block = 0 then [] else [(64 * d.outAddr + 32 * d.outStride, 64 * d.outAddr + 32 * d.outStride + rows * (32 / f.block))]) ++
        (if d.biasKind = 0 then [] else [(64 * d.biasAddr, 64 * d.biasAddr + (if d.biasS16 then 64 else 128))])
    | none => []
  | .csave => [(64 * d.outAddr, 64 * d.outAddr + 12288)]
  | .cload => [(64 * d.outAddr, 64 * d.outAddr + 12288)]
  | .manch => if bitAt m.flags 9 then [(64 * d.ppAddr, 64 * d.ppAddr + 64)] else []
  | _ => []

end Sys2Proof.Machine
end

