-- ==== Sys2Proof/Machine/CoreIssue.lean ====
section
/-! DEFINITION. Issue of bundles: landing of results, freezes, schedule faults, power tokens, and what each slot does
(R67 to R88, R139 to R141, R155 to R171, R317 to R321, R477). -/

namespace Sys2Proof.Machine

/-! ## Results in flight (R68, R69) -/

/-- A result lands. X0 stays 0; K0 is read-only. -/
def landOne (consts : Nat) (k : Core) (p : Pend) : Core :=
  match p.wb with
  | .x r v => if r = 0 then k else { k with x := mapSet 0 k.x r v }
  | .v g r vals => vals.foldl (fun a e =>
      { a with
        v := mapSet 0 a.v ((64 * g + e.1) * 32 + r) e.2.1
        vPoison := mapSet false a.vPoison ((64 * g + e.1) * 32 + r) e.2.2 }) k
  | .k g n vals =>
    if n = 0 then k else
    let old := mapGet 0 k.k (8 * g + n)
    let new := vals.foldl (fun a e => if e.2 then a ||| dw (2 ^ e.1) else a &&& ~~~ dw (2 ^ e.1)) old
    { k with k := mapSet 0 k.k (8 * g + n) new }
  | .md n bytes => { k with md := mapPut k.md n bytes }
  | .shelf addr bytes poison => (linePieces addr bytes.length).foldl (fun a q =>
      linePut q.1 ((bytes.drop (q.1 - addr)).take q.2) poison consts a) k
  | .spill ct acc st poison => spillInto ct acc st poison k
  | .crate ct bytes poison => tilePoison ct poison (crateLoad ct bytes k)

/-- Results due by cycle `t` land: the move slot's after the others (R69), scalar registers too (DESIGN CHOICE, log entry 63). -/
def landDue (consts t : Nat) (k : Core) : Core :=
  let due := k.pend.filter (fun p => p.due ≤ t)
  let order := due.filter (fun p => p.slot != 2) ++ due.filter (fun p => p.slot == 2)
  { order.foldl (landOne consts) k with pend := k.pend.filter (fun p => !(decide (p.due ≤ t))) }

/-- Every result in flight lands, in order of its due cycle (R83). `fuel` bounds the cycles. -/
def landAll (consts : Nat) : Nat → Core → Core
  | 0, k => landDue consts (k.pend.foldl (fun a p => max a p.due) 0) k
  | fuel + 1, k => match minBy? (fun p => p.due) k.pend with
    | some p => landAll consts fuel (landDue consts p.due k)
    | none => k

/-- A result put in flight. -/
def push (c slot lat : Nat) (w : Wb) (s : State) : State :=
  modCore c (fun k => { k with pend := k.pend ++ [{ due := k.cyc + lat, slot := slot, wb := w, slowLanes := [], slowCost := 0 }] }) s

/-- A scalar result of the control slot. -/
def pushX (c lat r : Nat) (v : DWord) (s : State) : State := push c 0 lat (.x r v) s

/-- A word that failed parity in a read, if any: the reading operation has completed, the task fails (R152). -/
def parityNote (c port : Nat) (bad : Option Nat) (s : State) : State :=
  match bad with
  | some w => parityError c port (4 * w) s
  | none => s

/-- A read of the shelf by a bundle: unmarked lines counted, poison consumed where `eats`, parity checked. -/
def noteRead (c port : Nat) (eats : Bool) (n : ReadNote) (s : State) : State :=
  let s1 := countHaz c n.hazards s
  parityNote c port n.bad (if eats && n.poison then coreConsumes c s1 else s1)

/-! ## Collectives at issue (R317 to R321, R477) -/

/-- Bytes of the reduction buffer a collective holds (R328); barrier and agree hold none. -/
def collBytes (ms : List Nat) (d : CollDesc) : Nat :=
  if d.op = 6 || d.op = 7 then 0 else
  let (sz, g) := cctxShape ms
  2 * max (sz - 1) (g - 1) * segKib d * 1024

/-- DCHK (R320). -/
def dchk (b : List Byte) : Nat :=
  let d := collDescOf b
  ((mix64 (dw (getLE b 0 6 + d.root * 2 ^ 48)) + mix64 (dw d.count) + mix64 (dw (segKib d))).toNat) % 2 ^ 32

/-- Whether kinds and formats fit the operation (R318); a format field that its kind does not use is not read (log entry
45). -/
def collFits (d : CollDesc) : Bool :=
  let ik := d.kinds % 4
  let ok := d.kinds / 4 % 4
  let flt := fun (c : Nat) => c == 0 || c == 1
  match d.op with
  | 6 => d.red == 0 && d.kinds == 0 && d.ifmt == 0 && d.ofmt == 0 && d.count == 0 && d.localN == 1
  | 7 => d.red == 0 && d.kinds == 0 && d.ifmt == 0 && d.ofmt == 0
  | _ =>
    if d.op == 2 || d.op == 3 || d.op == 4 then
      d.red == 0 && ik == 0 && ok == 0 && d.ifmt ≤ 6 && d.ofmt == d.ifmt && d.localN == 1
    else if d.op == 0 || d.op == 1 || d.op == 5 then
      1 ≤ d.localN && d.localN ≤ 2048 &&
      (if d.red == 0 then ((ik == 0 && flt d.ifmt) || ik == 1) && ((ok == 0 && flt d.ofmt) || (ok == 1 && ik == 1))
      else (d.red == 1 || d.red == 2) && ((ik == 0 && flt d.ifmt) || ik == 2) && ok == 2)
    else false

/-- The refusal of a collective's staging area (R187, R188): its address and cause. -/
def stageFault (s : State) (slot : Nat) (d : CollDesc) (sh : Nat × Nat) : Option (Nat × Nat) :=
  let entry := if d.red != 0 then 16 else if portable s slot || bitAt d.flags 2 || d.kinds % 4 = 1 then 12 else 4
  if !(d.op == 0 || d.op == 1 || d.op == 5) || sh.2 ≤ 1 then none
  else accessCause s slot .coll d.stage ((d.count + sh.1 - 1) / (max sh.1 1) * entry)

/-- A refused staging area recorded (R188). -/
def recordStage (slot : Nat) (b : List Byte) (s : State) : State :=
  let d := collDescOf b
  match mapFind s.cctxs d.cctx with
  | none => s
  | some x => match stageFault s slot d (cctxShape x.members) with
    | some (a, cause) => recordAfault a slot 2 cause s
    | none => s

/-- The cases of R319 that end a collective with BAD_PARAM before anything is sent. -/
def collBad (s : State) (slot : Nat) (b : List Byte) : Bool :=
  let d := collDescOf b
  let reserved := byteAt b 31 != 0 || getLE b 46 2 != 0 || getLE b 53 8 != 0 || getLE b 61 3 != 0 ||
    d.flags / 8 != 0 || d.kinds / 16 != 0
  let seg := d.segKib != 0 && (d.segKib < 16 || 1024 < d.segKib || d.segKib % 16 != 0)
  let hiSeq := if d.op = 7 then max d.count 1 else 1
  let seqBad := 0xFFFFFFFE < d.seq + hiSeq
  match mapFind s.cctxs d.cctx with
  | none => true
  | some x =>
    let n := x.members.length
    let stage := (stageFault s slot d (cctxShape x.members)).isSome
    x.slot != slot || reserved || seg || !collFits d || (bitAt d.flags 1 && d.kinds / 4 % 4 == 1) ||
      n ≤ d.root || (d.op == 3 && d.count % (max n 1) != 0) || stage ||
      2 ^ 25 < collBytes x.members d || seqBad || (bitAt d.flags 1 && 0x7FFFFF ≤ d.tag)

/-- A collective, or a contributor alone, ended with BAD_PARAM here: record, event and abort, and the context halts. -/
def collRefuse (slot : Nat) (k : Coll) (abort : Bool) (s : State) : State :=
  haltCtx slot (constFails (constRecords s k) (endColl stBadParam (ownNode s) (if abort then collMembers s k else []) k s))

/-- A task's collective noted: the one a FENCE may wait for, and the tensor its results belong to (R45, R476). -/
def noteColl (d : CollDesc) (r : Run) : Run :=
  let tags := if d.op = 6 || d.op = 7 then r.tags else d.tag :: r.tags.filter (· != d.tag)
  { r with issued := (d.cctx, d.seq) :: r.issued, tags := tags }

/-- COLL (R321, R477). -/
def collIssue (c arr addr : Nat) (s : State) : State :=
  match (coreOf s c).run with
  | none => s
  | some r =>
    let g := shelfGet s c addr 64
    let b := g.bytes
    let d := collDescOf b
    let slot := r.task.slot
    let t := r.task.step
    let s1 := modRun c (noteColl d) (arrAdd c arr (countHaz c g.hazards (touchCtx slot s)))
    let me : Contrib :=
      { core := c, saved := none, slot := arr, line := addr / 64, home := r.task.home, taskId := r.task.desc.taskId
        desc := b, stamp := stampAt s (dieOf c) }
    let alone : Coll := { Coll.fresh d.cctx (wd d.seq) t slot with contribs := [me] }
    let bound := match mapFind s.cctxs d.cctx with | some x => x.slot == slot | none => false
    let past := s.collsDone.any (fun e => e.1 == slot && e.2.1 == t && e.2.2.1 == d.cctx && e.2.2.2 == wd d.seq)
    let bad := collBad s slot b
    parityNote c 1 g.bad <|
    if !bound || past then collRefuse slot alone false s1
    else match findColl s d.cctx (wd d.seq) t with
      | none => if bad then collRefuse slot alone true (recordStage slot b s1) else { s1 with colls := s1.colls ++ [alone] }
      | some k =>
        let k' := { k with contribs := k.contribs ++ [me] }
        let s2 := modColl d.cctx (wd d.seq) t slot (fun _ => k') s1
        match k.contribs with
        | [] => if bad then collRefuse slot k' true (recordStage slot b s2) else s2
        | f :: _ =>
          let n := (collDescOf f.desc).localN
          if (if d.op = 7 then 1 else n) ≤ k.contribs.length then
            collRefuse slot k true (giveRecord (collRecord s1 alone 0 stBadParam none) false me s1)
          else if bad then collRefuse slot k' true (recordStage slot b s2)
          else if dchk f.desc != dchk b || n != d.localN ||
              k.contribs.any (fun e => e.home == me.home && e.taskId == me.taskId) then collRefuse slot k' true s2
          else s2

/-! ## Messages (R169, R170) -/

/-- The nodes of a context: the members of its collective contexts, and this device. -/
def ctxNodes (s : State) (slot : Nat) : List Nat :=
  (ownNode s :: ((s.cctxs.filter (fun (e : Nat × Cctx) => e.2.slot == slot)).map (fun (e : Nat × Cctx) => e.2.members)).flatten).eraseDups

/-- Bytes of a message on the wire: the line, the source logical core, the message's number and the slot (log entry 16). -/
def msgWire (line : List Byte) (src id slot : Nat) : List Byte :=
  padTo 64 line ++ leBytes 2 src ++ leBytes 4 id ++ leBytes 1 slot

/-- MSG (R169). -/
def msgSend (c arr addr : Nat) (s : State) : State :=
  match (coreOf s c).run with
  | none => s
  | some r =>
    let g := shelfGet s c addr 64
    let b := g.bytes
    let slot := r.task.slot
    let dst := getLE b 0 2
    let cls := byteAt b 5
    let s1 := countHaz c g.hazards (touchCtx slot s)
    parityNote c 1 g.bad <|
    if !(ctxNodes s slot).contains dst then taskFail c 9 0 s1
    else if 4 < cls || 15 < byteAt b 4 || getLE b 8 8 != 0 then failParam c s1
    else
      let id := s1.msgNext
      let src := match ctxOf s slot with | some x => (lcoreOf x c).getD r.task.home | none => 0
      let s2 := modRun c (fun r => { r with sent := id :: r.sent }) <| arrAdd c arr { s1 with
        msgNext := id + 1, msgOut := s1.msgOut ++ [{ id := id, core := c, saved := none, slot := arr, dst := dst, refused := false }] }
      sendData 0x01 (3 + cls) dst (getLE b 6 2) (msgWire b src id slot) (fun i => g.poison && i < 64) none s2

/-- A message landed in an inbox line (R170); an inbox on a constant line fails the task (R173). -/
def landMsg (c : Nat) (a : Armed) (m : Msg) (s : State) : State :=
  let s1 := agentDone c a.slot (agentPut c (64 * a.line) m.bytes m.poison s)
  if hitsConst s c (64 * a.line) 64 then taskFail c 4 0 s1 else s1

/-- The box a message is for. -/
def msgBox (m : Msg) : Nat := byteAt m.bytes 4 % 16

/-- The oldest armed receive of a box. -/
def armedFor (k : Core) (box : Nat) : Option (Nat × Armed) := k.armed.find? (fun (e : Nat × Armed) => e.1 % 16 == box)

/-- A box's source of the step noted; a second source counts once (R170). -/
def noteBoxSrc (c slot : Nat) (t : DWord) (box src : Nat) (s : State) : State :=
  match ctxOf s slot with
  | none => s
  | some x =>
    match stepSt? x t with
    | none => s
    | some e =>
      let key := 16 * c + box
      if e.boxSrcs.contains (key, src) then s
      else
        let n := (e.boxSrcs.filter (fun p => p.1 == key)).length
        let s1 := modStep slot t (fun e => { e with boxSrcs := e.boxSrcs ++ [(key, src)] }) s
        if n = 1 then fbump F.TASK_MIXRECV.COUNT (dieOf c) 0 s1 else s1

/-- The source of a landed message: node and logical core. -/
def msgSrc (m : Msg) : Nat := getLE m.bytes 0 4

/-- RECV (R170). -/
def recvArm (c arr addr : Nat) (s : State) : State :=
  match (coreOf s c).run with
  | none => s
  | some r =>
    let g := shelfGet s c addr 64
    let box := byteAt g.bytes 4 % 16
    let slot := r.task.slot
    let s1 := arrAdd c arr (countHaz c g.hazards s)
    let l := match ctxOf s slot with | some x => lcoreOf x c | none => none
    let waiting := match ctxOf s slot, l with
      | some x, some l => takeFirst? (fun m => msgBox m == box) ((mapFind x.bufs l).getD [])
      | _, _ => none
    parityNote c 1 g.bad <| match waiting, l with
    | some (m, rest), some l =>
      landMsg c ⟨addr / 64, arr⟩ m (noteBoxSrc c slot r.task.step box (msgSrc m)
        (modCtx slot (fun x => { x with bufs := mapPut x.bufs l rest }) s1))
    | _, _ => modCore c (fun k =>
        let top := k.armed.foldl (fun a (e : Nat × Armed) => max a (e.1 / 16 + 1)) 0
        { k with armed := mapPut k.armed (16 * top + box) ⟨addr / 64, arr⟩ }) s1

/-! ## Move slot (R74, R141, R149) -/

/-- The lanes and access width of an LFMT (R74). -/
def lfmtLanes (lfmt : Nat) : List Nat × Nat :=
  match lfmt with
  | 4 => (List.range 32, 2)
  | 5 => ((List.range 32).map (· + 32), 2)
  | 6 => (List.range 64, 1)
  | n => ((List.range 16).map (· + 16 * n), 4)

/-- A resident load that matches an entry (R149). -/
def residentHit (s : State) (c : Nat) (r : Run) (desc : List Byte) : Bool :=
  byteAt desc 0 == 0 && bitAt (byteAt desc 1) 1 &&
    (coreOf s c).resident.any (fun e => e.desc == desc && e.slot == r.task.slot && e.step == r.task.step)

/-- A matched entry becomes the most recent, and its lines count as written by the task. -/
def residentUse (r : Run) (desc : List Byte) (k : Core) : Core :=
  let hit := fun (e : Resident) => e.desc == desc && e.slot == r.task.slot && e.step == r.task.step
  let lines := ((tmvOf desc).shelfRanges.map (fun g => (List.range ((g.2 + 63) / 64 - g.1 / 64)).map (· + g.1 / 64))).flatten
  { k with
    resident := k.resident.filter hit ++ k.resident.filter (fun e => !hit e)
    shelfMark := lines.foldl (fun a l => mapSet false a l true) k.shelfMark }

/-- A resident hit: the entry becomes the most recent, its lines count as written, and the audit core's shelf takes the
tile too (R149, R157, R382). -/
def residentHitDo (c : Nat) (r : Run) (desc : List Byte) (s : State) : State :=
  let k := coreOf s c
  let s1 := modCore c (residentUse r desc) s
  match r.audit with
  | none => s1
  | some a => (tmvOf desc).shelfRanges.foldl (fun b g => (linePieces g.1 (g.2 - g.1)).foldl (fun d p =>
      shelfPut a p.1 ((List.range p.2).map (fun i => mapGet 0 k.shelf (p.1 + i)))
        (mapGet false k.shelfPoison (p.1 / 64)) d) b) s1

/-- TMV, FILL or SCOPY enters the mover queue (R141); a resident hit moves nothing and its slot is complete in the cycle after
(R149). -/
def queueItem (c kind arr addr : Nat) (s : State) : State :=
  match (coreOf s c).run with
  | none => s
  | some r =>
    let g := shelfGet s c addr 64
    let desc := g.bytes
    let unsafeItem := kind = 0 && byteAt desc 0 == 1
    let s0 := modRun c (fun r => { r with unsafeRegion := r.unsafeRegion || unsafeItem }) s
    if r.isAudit then arrAdd c arr s0
    else if kind = 0 && residentHit s c r desc then residentHitDo c r desc s0
    else arrAdd c arr (modCore c (fun k => { k with queue := k.queue ++ [⟨kind, addr / 64, arr⟩] }) s0)

/-- What a move slot does at shelf byte `addr`, read from the core as it stood at issue. -/
def movExec (c : Nat) (k : Core) (r : Run) (m : Mov) (addr : Nat) (s : State) : State :=
  match m.op with
  | .nop => s
  | .bad => s
  | .ldv =>
    let g := shelfGet s c addr 64
    let (ls, w) := lfmtLanes m.lfmt
    let vals := (ls.zipIdx.filter (fun e => laneOn k r m.grp 0 e.1)).map (fun e =>
      (e.1, wd (getLE g.bytes (w * e.2) w), g.poison))
    noteRead c 1 false g.note (push c 2 6 (.v m.grp m.reg vals) s)
  | .stv =>
    let (ls, w) := lfmtLanes m.lfmt
    let on := ls.zipIdx.filter (fun e => laneOn k r m.grp 0 e.1)
    let p := on.any (fun e => vPois k m.grp e.1 m.reg)
    if on.isEmpty then s
    else if hitsConst s c addr 64 then taskFail c 4 0 s
    else
      let full := on.length * w = 64
      let pieces : List (Nat × List Byte) :=
        if full then [(addr, (on.map (fun e => leBytes w (vGet k m.grp e.1 m.reg).toNat)).flatten)]
        else on.map (fun e => (addr + w * e.2, leBytes w (vGet k m.grp e.1 m.reg).toNat))
      pieces.foldl (fun a q => push c 2 2 (.shelf q.1 q.2 p) a) s
  | .ldx =>
    let g := shelfGet s c addr 8
    noteRead c 1 true g.note (push c 2 6 (.x m.reg (dw (ofLE g.bytes))) s)
  | .stx =>
    if hitsConst s c addr 8 then taskFail c 4 0 s
    else push c 2 2 (.shelf addr (leBytes 8 (xGet k m.reg).toNat) false) s
  | .mdl =>
    let g := shelfGet s c addr 64
    noteRead c 1 true g.note (push c 2 6 (.md m.reg g.bytes) s)
  | .tmv => queueItem c 0 m.reg addr s
  | .fill => queueItem c 1 m.reg addr s
  | .scopy => queueItem c 2 m.reg addr s
  | .msg => if r.isAudit then arrAdd c m.reg s else msgSend c m.reg addr (modRun c (fun r => { r with unsafeRegion := true }) s)
  | .coll => if r.isAudit then arrAdd c m.reg s else collIssue c m.reg addr (modRun c (fun r => { r with unsafeRegion := true }) s)
  | .recv => if r.isAudit then arrAdd c m.reg s else recvArm c m.reg addr (modRun c (fun r => { r with unsafeRegion := true }) s)

/-! ## Control slot (R71, R72, R155 to R160, R171) -/

/-- Arithmetic of the control slot. -/
def aluVal (op : AluOp) (a b : DWord) : DWord :=
  match op with
  | .add => a + b
  | .sub => a - b
  | .and => a &&& b
  | .or => a ||| b
  | .xor => a ^^^ b
  | .shl => a <<< (b.toNat % 64)
  | .shr => a >>> (b.toNat % 64)
  | .sra => a.sshiftRight (b.toNat % 64)
  | .mul => a * b
  | .cmplt => if a.toInt < b.toInt then 1 else 0
  | .cmpltu => if a.toNat < b.toNat then 1 else 0
  | .cmpeq => if a = b then 1 else 0

/-- Sign extension of an immediate. -/
def sext16 (imm : Nat) : DWord := dw (uInt 64 (sInt 16 imm))

/-- Ready tasks of a context in the queues homed on a die. -/
def readyOnDie (x : Ctx) (d : Nat) : Nat := x.queues.foldl (fun a e => if dieOfL x e.1 = d then a + e.2.length else a) 0

/-- The value of an observation read (R171). -/
def obsValue (s : State) (c : Nat) (k : Core) (r : Run) (sel : Nat) : DWord :=
  match ctxOf s r.task.slot with
  | none => 0
  | some x =>
    match sel with
    | 0x0000 => stampAt s (dieOf c)
    | 0x0001 => dw (coreCode c)
    | 0x0002 => dw (ownNode s)
    | 0x0003 => dw (match stepCctx s r.task.slot with
        | some n => (match mapFind s.cctxs n with | some y => y.members.eraseDups.length | none => 1)
        | none => 1)
    | 0x0004 => dw (match lcoreOf x c with | some l => (queueOf x l).length | none => 0)
    | 0x0005 => dw (readyOnDie x (dieOf c))
    | 0x0010 => dw (k.cyc - r.startCyc)
    | 0x0011 => dw r.frozen
    | 0x0012 => dw (if x.lastPosted = some k.countStep then k.tasksRun else 0)
    | _ => dw (if x.lastPosted = some k.countStep then k.tasksStolen else 0)

/-- RDOBS counted in a portable-mode context, and the step flagged (R29). -/
def countObs (r : Run) (s : State) : State :=
  let k := r.task.slot
  if portable s k then
    modStep k r.task.step (fun e => { e with obs := true })
      (fset F.RPR_STAT.OBS k 0 1 (fbump F.RPR_OBS_COUNT.COUNT k 0 s))
  else s

/-- SPAWN (R155, R160). -/
def spawnTask (c : Nat) (r : Run) (addr imm : Nat) (s : State) : State :=
  match ctxOf s r.task.slot with
  | none => s
  | some x =>
    let g := shelfGet s c addr 192
    let d := taskDescOf g.bytes
    let s1 := noteRead c 1 false g.note s
    let bundles := match x.image with | some im => im.code.length | none => 0
    let own := (lcoreOf x c).getD r.task.home
    let l := if imm % 4 = 2 then d.target else own
    let t : Task :=
      { desc := d, slot := r.task.slot, step := r.task.step, home := l, tried := [], saved := none, poison := g.poison, posted := false }
    if !taskDescOk bundles g.bytes || (imm % 4 = 2 && boundCount x ≤ d.target) then failParam c s1
    else if !taskFits x l (imm % 4 = 1) then taskFail c 6 0 s1
    else
      let s2 := placeTask r.task.slot l (imm % 4 = 1) t s1
      if g.poison then consume (dieOf c) r.task.slot 5 0 false r.task.step s2 else s2

/-- What a control slot does, read from the core as it stood at issue. -/
def ctlExec (c : Nat) (k : Core) (r : Run) (i : Ctl) (s : State) : State :=
  match i with
  | .nop => s
  | .bad => s
  | .alu op xd xa xb => pushX c (if op = .mul then 3 else 1) xd (aluVal op (xGet k xa) (xGet k xb)) s
  | .addi xd xa imm => pushX c 1 xd (xGet k xa + sext16 imm) s
  | .li xd imm => pushX c 1 xd (sext16 imm) s
  | .shli xd xa imm => pushX c 1 xd (xGet k xa <<< (imm % 64)) s
  | .lih xd xa imm => pushX c 1 xd ((xGet k xa <<< 16) ||| dw (imm % 2 ^ 16)) s
  | .br _ => s
  | .bz _ _ => s
  | .bnz _ _ => s
  | .loop _ _ => s
  | .wait _ _ => s
  | .fence _ => s
  | .mark => s
  | .fin => modRun c (fun r => { r with ended := true }) s
  | .spawn xa imm =>
    if r.isAudit then s
    else spawnTask c r ((xGet k xa).toNat / 64 * 64) imm (modRun c (fun r => { r with unsafeRegion := true }) s)
  | .lidx xd imm => pushX c 1 xd (dw ((r.task.desc.lbase.toNat + imm) % 2 ^ 40)) s
  | .rdcnt xd => pushX c 1 xd (dw (match ctxOf s r.task.slot with | some x => boundCount x | none => 0)) s
  | .rdobs xd imm => (if r.isAudit then id else countObs r) (pushX c 2 xd (obsValue s c k r imm) s)
  | .rdpar xd imm => pushX c 1 xd (dw ((r.task.desc.params.getD (imm % 32) 0).toNat)) s

/-- The target of a branch that is taken (R72). -/
def branchTo (k : Core) (i : Ctl) : Option Nat :=
  let dest := fun (off : Int) => ((k.pc : Int) + off).toNat
  match i with
  | .br off => some (dest off)
  | .bz xa off => if xGet k xa = 0 then some (dest off) else none
  | .bnz xa off => if xGet k xa = 0 then none else some (dest off)
  | _ => none

/-- The bundle after the one at `p`, and the loop stack: a body's last bundle goes back while passes are left, be it a delay
bundle too; a branch that leaves a body leaves its entry (DESIGN CHOICE, log entry 65). -/
def loopStep (p : Nat) : List (Nat × Nat × Nat) → Nat × List (Nat × Nat × Nat)
  | [] => (p + 1, [])
  | (b, e, n) :: t => if e = p then (if 1 < n then (b, (b, e, n - 1) :: t) else loopStep p t) else (p + 1, (b, e, n) :: t)

/-- The core moves past a bundle: schedule cycle, program counter, loops and pending branch (R71, R72); LOOP takes its count
unsigned (DESIGN CHOICE, log entry 64). MARK saves the state it resumes with (R83): not the scalar results still in flight,
nor a branch that is pending (DESIGN CHOICE, log entry 66). -/
def advance (k0 : Core) (i : Ctl) (k : Core) : Core :=
  let loops := match i with
    | .loop xa off => (k0.pc + 1, ((k0.pc : Int) + off).toNat, max (xGet k0 xa).toNat 1) :: k0.loops
    | _ => k0.loops
  let (p, ls) := loopStep k0.pc loops
  let (pc, br) := match branchTo k0 i, k0.branch with
    | some t, _ => (p, some (2, t))
    | none, some (n, t) => if n ≤ 1 then (t, none) else (p, some (n - 1, t))
    | none, none => (p, none)
  let k1 := { k with cyc := k0.cyc + 1, pc := pc, loops := ls, branch := br }
  match i with
  | .mark =>
    let run := k1.run.map (fun r => { settleRegion r with
      repeatPc := pc, repeatX := k0.x, repeatLoops := ls, unsafeRegion := false, regionTiles := [] })
    { k1 with run := run }
  | _ => k1

/-! ## Vector slot -/

/-- The lane-state key of a context for step `t` (R229, R232). -/
def lskey (s : State) (slot : Nat) (t : DWord) : DWord := stepReg64 s slot t .RNG_LSKEY_LO .RNG_LSKEY_HI

/-- The stochastic-rounding key of a context for step `t`. -/
def srkey (s : State) (slot : Nat) (t : DWord) : DWord := stepReg64 s slot t .RNG_SRKEY_LO .RNG_SRKEY_HI

/-- What a vector slot does. -/
def vecIssue (c : Nat) (k : Core) (r : Run) (v : Vec) (s : State) : State :=
  if v.op = .nop then s else
  let o := vecExec (lskey s r.task.slot r.task.step) k r v
  if o.fails then failParam c s
  else
    let ps := o.wbs.zipIdx.map (fun (w, i) =>
      ({ due := k.cyc + o.lat, slot := 1, wb := w, slowLanes := if i = 0 then o.slow else [],
         slowCost := if i = 0 then o.cost else 0 } : Pend))
    let s1 := modCore c (fun q => { q with pend := q.pend ++ ps }) s
    let s2 := match o.gen with
      | some (g, d) => modCore c (fun q => { q with gen := g, genDrew := d }) s1
      | none => s1
    let s3 := if o.wraps then fset F.RNG_STAT.STREAM_ADV r.task.slot 0 1 s2 else s2
    if o.consumed then coreConsumes c s3 else s3

/-! ## Matrix slot -/

/-- Whether the named tile bars an MMA without CLR or an MSPILL: the accumulators hold another tile's block (R91). -/
def otherTile (k : Core) (ct : Nat) : Bool := match k.accTile with | some t => t != ct | none => false

/-- Occupancy of the MAC stage begun. -/
def macBusy (occ ticks : Nat) (ranges : List (Nat × Nat)) (k : Core) : Core :=
  { k with macFree := k.cyc + occ, macClass := ticks, macRanges := ranges }

/-- MMA (R91 to R95). -/
def mmaExec (c : Nat) (k : Core) (m : Mat) (d : Md) (t : Tile) (anchor : Int) (s : State) : State :=
  let n := kSteps m.k16
  let clr := bitAt m.flags 9
  match fmtOf d.aFmt, fmtOf d.bFmt, mmaClass d n with
  | some fa, some fb, some (occ, ticks) =>
    if (fa.block = 32 || fb.block = 32) && n % 32 != 0 then failParam c s
    else if !clr && (otherTile k m.ct || 4096 < k.steps + n) then failParam c s
    else
      let (ra, na) := operandRows s c fa d.aAddr d.aScale d.aStride n
      let (rb, nb) := operandRows s c fb d.bAddr d.bScale d.bStride n
      let note := na.join nb
      let k1 := if clr then accClear k else k
      let l := mmaRun anchor k1.acc k1.accSt ra rb
      let k2 := macBusy occ ticks (matRanges m d)
        { k1 with steps := k1.steps + n, accTile := some m.ct, accPoison := k1.accPoison || note.poison }
      noteRead c 0 true note (macResult c m.ct t anchor l (mmaTops occ n ra rb) k2 s)
  | _, _, _ => failParam c s

/-- MPRE (R109): a row of the tile in each of its 32 cycles (log entry 34). -/
def mpreExec (c : Nat) (k : Core) (m : Mat) (d : Md) (t : Tile) (anchor : Int) (s : State) : State :=
  let g := shelfGet s c (64 * d.preAddr) 2048
  let vals := (codesOf 16 g.bytes).map (decodeElem .s16)
  let l := vals.map (fun v => accTerm anchor { v := 0, st := 0, top := none } v)
  let tops := (chunksOf 32 33 l).map blockTop
  let k2 := macBusy 32 3 (matRanges m d) { accClear k with accTile := some m.ct, accPoison := g.poison }
  noteRead c 0 true g.note (macResult c m.ct t anchor l tops k2 s)

/-- The bias values of a MOUT. -/
def biasRead (s : State) (c : Nat) (d : Md) : List Word × ReadNote :=
  if d.biasKind = 0 then ([], ReadNote.none) else
  let g := shelfGet s c (64 * d.biasAddr) (if d.biasS16 then 64 else 128)
  let cs := codesOf (if d.biasS16 then 16 else 32) g.bytes
  (cs.map (fun x => wd (if d.biasS16 then x * 2 ^ 16 else x)), g.note)

/-- MOUT (R105, R107, R111 to R116). -/
def moutExec (c : Nat) (k : Core) (r : Run) (m : Mat) (d : Md) (t : Tile) (anchor : Int) (s : State) : State :=
  match fmtOf d.ofmt with
  | none => failParam c s
  | some f =>
    let occ := moutOcc f
    let s0 := modCore c (fun q => { q with outFree := k.cyc + occ }) s
    if t.measuring then
      let safeA := match t.maxExp with | some x => x - 49 | none => anchor
      let s1 := modCore c (fun q => { q with
        raises := mapPut q.raises m.ct { tag := t.tag, block := t.block, anchor := safeA, count := 5 }, repeatDue := true }) s0
      countRaise c t.tag s1
    else
      let (bias, note) := biasRead s c d
      let bad := [0, 0xF, 4, 5, 6]
      let b := d.placed t
      let o := moutRun (srkey s r.task.slot r.task.step) r.task.step b f anchor bias (fun i =>
        let e := mapGet 0 k.crate (1024 * m.ct + i)
        if bad.contains (bitsOf e.toNat 95 92) then e else s96Enc 3 0)
      let p := t.poison || t.anchPoison || note.poison
      if o.writes.any (fun w => hitsConst s c w.1 w.2.length) then taskFail c 4 0 s0
      else
        let s1 := modRun c (fun r => moutReport b t.block o (moutTally b t.block p o { r with tags := t.tag :: r.tags.filter (· != t.tag) })) s0
        let s2 := o.writes.foldl (fun a w => push c 3 (occ + 6) (.shelf w.1 w.2 p) a) s1
        let s3 := modCore c (fun q => { q with raises :=
          if (raiseOf k m.ct t).isSome then mapDel q.raises m.ct else q.raises }) s2
        noteRead c 3 true note s3

/-- A crate tile bound or added to since the repeat point. -/
def touchTile (ct : Nat) (r : Run) : Run := { r with regionTiles := ct :: r.regionTiles.filter (· != ct) }

/-- MANCH (R91, R99, R101, R174). -/
def manchExec (c : Nat) (r : Run) (m : Mat) (md : List Byte) (s : State) : State :=
  let d := mdOf md
  let auto := bitAt m.flags 9
  let arr := m.flags % 32
  match ctxOf s r.task.slot with
  | none => s
  | some x =>
    match x.image with
    | none => s
    | some im =>
      if !manchOk md then failParam c s
      else if gridBad im d auto then taskFail c 3 0 s
      else
        let s1 := modRun c (fun r => { r with regionTiles := m.ct :: r.regionTiles.filter (· != m.ct) })
          (modCore c (bindTile m.ct d auto arr) s)
        let s2 := match gridTable im d auto with
          | some g => if r.isAudit then s1 else modRun c (fun r => { r with checks := r.checks ++ [g] }) s1
          | none => s1
        if auto then
          let g := shelfGet s c (64 * d.ppAddr) 64
          let seq := getLE g.bytes 28 4
          let s3 := noteRead c 1 false g.note s2
          if getLE g.bytes 18 4 == 0 || byteAt g.bytes 22 / 4 != 0 || byteAt g.bytes 23 != 0 || getLE g.bytes 32 32 != 0 ||
              0xFFFFFFFE ≤ seq then failParam c s3
          else
            let p : Prepass := { desc := g.bytes, md := md, tile := m.ct, slot := arr, code := none, fenced := false }
            arrAdd c arr (modRun c (fun r => { r with prepasses := r.prepasses ++ [p] }) s3)
        else s2

/-- What a matrix slot does. -/
def matExec (c : Nat) (k : Core) (r : Run) (m : Mat) (s : State) : State :=
  let md := (mapFind k.md m.md).getD []
  let d := mdOf md
  let tile := mapFind k.tiles m.ct
  match m.op with
  | .nop => s
  | .bad => s
  | .manch => manchExec c r m md s
  | .csave =>
    match tile with
    | some t =>
      if (raiseOf k m.ct t).isSome then failParam c s
      else if hitsConst s c (64 * d.outAddr) 12288 then taskFail c 4 0 s
      else push c 3 198 (.shelf (64 * d.outAddr) (crateBytes m.ct k) (t.poison || t.anchPoison)) (modCore c (fun q => { q with outFree := k.cyc + 192 }) s)
    | none =>
      if hitsConst s c (64 * d.outAddr) 12288 then taskFail c 4 0 s
      else push c 3 198 (.shelf (64 * d.outAddr) (crateBytes m.ct k) false) (modCore c (fun q => { q with outFree := k.cyc + 192 }) s)
  | .cload =>
    let g := shelfGet s c (64 * d.outAddr) 12288
    noteRead c 0 true g.note (push c 3 192 (.crate m.ct g.bytes g.poison) (setCore c (macBusy 192 3 (matRanges m d) k) s))
  | .mspill =>
    match tile with
    | none => failParam c s
    | some _ => if otherTile k m.ct then failParam c s else
      modRun c (touchTile m.ct) (push c 3 32 (.spill m.ct k.acc k.accSt k.accPoison) (setCore c (accClear (macBusy 32 3 [] k)) s))
  | .mma =>
    match tile with
    | none => failParam c s
    | some t => match t.anchor with
      | none => s
      | some a => mmaExec c k m d t a s
  | .mpre =>
    match tile with
    | none => failParam c s
    | some t => match t.anchor with
      | none => s
      | some a => if mdPlain md then mpreExec c k m d t a s else failParam c s
  | .mout =>
    match tile with
    | none => failParam c s
    | some t => match t.anchor with
      | none => s
      | some a => if moutOk md then moutExec c k r m d t a s else failParam c s

/-! ## Checks at issue (R80, R85 to R88, R475) -/

/-- The shelf byte address of a move slot (R74). -/
def movAddr (k : Core) (m : Mov) : Nat := ((xGet k m.xb).toNat + m.off * 64) % 2 ^ 64 / 64 * 64

/-- Items a bundle adds to an arrival slot. -/
def arrivalsOf (b : Bundle) : List Nat :=
  (match b.mov.op with
    | .tmv => [b.mov.reg]
    | .fill => [b.mov.reg]
    | .scopy => [b.mov.reg]
    | .msg => [b.mov.reg]
    | .coll => [b.mov.reg]
    | .recv => [b.mov.reg]
    | _ => []) ++
  (match b.mat.op with
    | .manch => if bitAt b.mat.flags 9 then [b.mat.flags % 32] else []
    | _ => [])

/-- Whether a matrix instruction uses the MAC stage. -/
def usesMac (m : Mat) : Bool := m.op == .mma || m.op == .mpre || m.op == .mspill || m.op == .cload

/-- Whether a matrix instruction uses the output stage. -/
def usesOut (m : Mat) : Bool := m.op == .mout || m.op == .csave

/-- The schedule fault a bundle meets, by the codes of R89, lowest first (R85). -/
def faultOf (k : Core) (b : Bundle) : Option Nat :=
  let m := b.mat
  let d0 := mdOf ((mapFind k.md m.md).getD [])
  let d := match mapFind k.tiles m.ct with | some t => d0.placed t | none => d0
  let preload := m.op == .manch && bitAt m.flags 9 && bitAt (mapGet 0 k.shelf (64 * d.ppAddr + 22)).toNat 0
  let store := b.mov.op == .stv || b.mov.op == .stx
  let a := movAddr k b.mov
  let spawnAt := match b.ctl with | .spawn xa _ => some ((xGet k xa).toNat / 64 * 64) | _ => none
  let needsMd := m.op != .nop && m.op != .mspill && m.op != .bad
  if store && (k.cyc < k.outFree || usesOut m) then some 1
  else if (usesMac m && k.cyc < k.macFree) || (usesOut m && k.cyc < k.outFree) then some 2
  else if (b.mov.op != .nop && (0x60000 ≤ a || (b.mov.op == .coll && a / 64 = 6143))) ||
      (match spawnAt with | some p => 0x60000 < p + 192 | none => false) ||
      ((mapFind k.md m.md).isSome && ((matRanges m d).any (fun r => 0x60000 < r.2) ||
        (preload && 0x60000 < 64 * d.preAddr + 2048))) then some 3
  else if (arrivalsOf b).any (fun x => 63 < arrCount k x + ((arrivalsOf b).filter (· == x)).length) then some 4
  else if (match b.ctl with | .loop _ _ => decide (4 ≤ k.loops.length) | _ => false) then some 5
  else if needsMd && (mapFind k.md m.md).isNone then some 6
  else none

/-- Mover items of a core that a FENCE waits for: stores, FILL and SCOPY (R476). -/
def fenceItems (s : State) (c : Nat) : Bool :=
  let k := coreOf s c
  let writes := fun (i : MoverItem) => i.kind != 0 || byteAt (shelfGet s c (64 * i.line) 64).bytes 0 == 1
  k.queue.any writes || k.engines.any (fun (e : Nat × EngineItem) => e.2.item.kind != 0 || byteAt e.2.desc 0 == 1)

/-- Whether a packet carries a message of a task, or belongs to a collective it has issued. -/
def taskPkt (own : Nat) (r : Run) (pk : Pkt) : Bool :=
  pk.key.src.toNat == own &&
    ((pk.ptype == 1 && r.sent.contains (getLE pk.payload 66 4)) ||
      ((pk.ptype == 2 || pk.ptype == 3) && getLE pk.payload 4 8 == r.task.step.toNat &&
        r.issued.contains (pk.key.flow.toNat, getLE pk.payload 0 4)))

/-- Packets of the task not yet acknowledged end to end: kept or held by their flows, waiting for one, or on their way inside
this device (R334, R476). -/
def fencePackets (s : State) (r : Run) : Bool :=
  let mine := taskPkt (ownNode s) r
  s.flowsTx.any (fun e => e.2.kept.any mine || e.2.held.any mine) || s.flowWait.any (fun w => mine w.1) ||
    s.deliver.any (fun pk => pk.key.dst == pk.key.src && mine pk)

/-- Whether a result in flight is a shelf write that is not yet visible. -/
def shelfDue (cyc : Nat) (p : Pend) : Bool :=
  cyc < p.due && (match p.wb with | .shelf _ _ _ => true | _ => false)

/-- A cycle in which a core waits at a FENCE: the shelf writes it has issued go on toward the shelf, on its audit core too
(R476; DESIGN CHOICE, log entry 67). -/
def fenceDrain (c : Nat) (s : State) : State :=
  let go := fun (k : Core) =>
    { k with pend := k.pend.map (fun p => if shelfDue k.cyc p then { p with due := p.due - 1 } else p) }
  let s1 := modCore c go s
  match auditOf s c with
  | some a => modCore a go s1
  | none => s1

/-- Whether every item that a bundle's arrival points wait for is complete (R80, R475, R476, R158, R174). -/
def arrivalOk (s : State) (c : Nat) (k : Core) (r : Run) (b : Bundle) : Bool :=
  let ctlOk := match b.ctl with
    | .wait half mask => (List.range 16).all (fun i => !bitAt mask i || arrCount k (16 * b2n half + i) = 0)
    | .fence imm => !k.pend.any (shelfDue k.cyc) && !fenceItems s c && (imm % 4 != 2 || !fencePackets s r)
    | .fin => (List.range 32).all (fun i => arrCount k i = 0) && r.checks.isEmpty
    | _ => true
  let matOk := match b.mat.op with
    | .mma => (match mapFind k.tiles b.mat.ct with | some t => t.anchor.isSome | none => true)
    | .mpre => (match mapFind k.tiles b.mat.ct with | some t => t.anchor.isSome | none => true)
    | .mspill => (match mapFind k.tiles b.mat.ct with | some t => t.anchor.isSome | none => true)
    | .mout => (match mapFind k.tiles b.mat.ct with | some t => t.anchor.isSome | none => true)
    | _ => true
  r.isAudit || (ctlOk && matOk)

/-- Ticks a bundle costs its core in its cycle (R86). -/
def demandOf (k : Core) (b : Bundle) : Nat :=
  let d := mdOf ((mapFind k.md b.mat.md).getD [])
  let mac := if usesMac b.mat then
      (if b.mat.op == .mma then (match mmaClass d (kSteps b.mat.k16) with | some x => x.2 | none => 0) else 3)
    else if k.cyc < k.macFree then k.macClass else 0
  let out := if usesOut b.mat || k.cyc < k.outFree then 3 else 0
  mac + out + (if b.vec.op = .nop then 0 else 1)

/-- The pool of a context on a die: 16,000 ticks for each core group bound there (R87). -/
def poolSize (x : Ctx) (d : Nat) : Nat := 16000 * (x.groups.filter (fun g => g / 16 == d)).length

/-- What is left of the pool in the present window. -/
def poolLeft (x : Ctx) (d : Nat) : Nat := (mapFind x.tokens d).getD (poolSize x d)

/-- A frozen cycle counted under its cause (R84, R89). -/
def freezeCycle (c frz : Nat) (f : Fld) (s : State) : State :=
  modRun c (fun r => { r with frozen := r.frozen + 1 })
    (setCstat F.CORE_STAT.FRZ c frz (fbump f (dieOf c) (c % 272) s))

/-- Ticks of a charged item: one for each 64 bytes it writes at its destination (R146). -/
def Tmv.cost (t : Tmv) : Nat :=
  let rowsOf := fun (code rows cols : Nat) => match fmtOf (if code = 7 then 1 else code) with
    | some f => rows * (rowBytes f cols + rowBlocks f cols)
    | none => 0
  ((if t.op = 0 then rowsOf t.sfmt t.shRows t.shCols else rowsOf t.mfmt t.rows t.cols) + 63) / 64

/-- Whether an item's movement costs tokens (R86, R146): any difference of the two codes counts (DESIGN CHOICE, log entry 68). -/
def Tmv.charged (t : Tmv) : Bool := t.tr || t.mfmt != t.sfmt

/-- Whether writes of an item are held by a matrix instruction in progress (R79). -/
def heldByArray (k : Core) (ws : List (Nat × Nat)) : Bool :=
  k.cyc < k.macFree && ws.any (fun w => k.macRanges.any (rangesMeet w))

/-- The engines of a core whose charged items write 64 bytes in its next cycle: at most one load and one store, each on the
lowest engine (R146; DESIGN CHOICE, log entry 68). -/
def moverWant (k : Core) : List Nat :=
  let wants := fun (op : Nat) (e : Nat × EngineItem) =>
    let t := tmvOf e.2.desc
    e.2.item.kind == 0 && !e.2.fenced && t.op == op && t.charged && e.2.paid < t.cost &&
      !(op == 0 && heldByArray k t.shelfRanges)
  [0, 1].filterMap (fun op => (k.engines.find? (wants op)).map (·.1))

/-- Engines whose items have paid for 64 bytes more. -/
def payMovers (es : List Nat) (k : Core) : Core :=
  { k with engines := k.engines.map (fun (e : Nat × EngineItem) =>
      if es.contains e.1 then (e.1, { e.2 with paid := e.2.paid + 1 }) else e) }

/-- A cycle of a repeat freeze: `CYCLES_K` counts units of 1,024. -/
def repeatCycle (c : Nat) (s : State) : State :=
  let n := (coreOf s c).repeatCyc + 1
  let s1 := modRun c (fun r => { r with frozen := r.frozen + 1 })
    (setCstat F.CORE_STAT.FRZ c 4 (modCore c (fun k => { k with repeatCyc := n % 1024 }) s))
  if n = 1024 then fbump F.CORE_REPEATS.CYCLES_K (dieOf c) (c % 272) s1 else s1

/-- The four slots of a bundle take effect; each reads the core as it stood at issue. -/
def bundleGo (c : Nat) (b : Bundle) (s : State) : State :=
  let k := coreOf s c
  match k.run with
  | none => s
  | some r =>
    let s1 := ctlExec c k r b.ctl s
    let s2 := vecIssue c k r b.vec s1
    let s3 := if b.mat.op = .nop then s2 else
      let q := coreOf s2 c
      matExec c { k with pend := q.pend, arr := q.arr, gen := q.gen, genDrew := q.genDrew, run := q.run, queue := q.queue } r b.mat s2
    let s4 := movExec c k r b.mov (movAddr k b.mov) s3
    modCore c (advance k b.ctl) s4

/-- A core may issue: a task runs on it, unfinished, in a context that runs, and no freeze holds it. -/
def canIssue (s : State) (c : Nat) : Bool :=
  match (coreOf s c).run with
  | none => false
  | some r => !r.ended && !(coreOf s c).moving && ctxState s r.task.slot == 1

/-- The slow path of a result due now (R82). -/
def slowNow (k : Core) : Bool := k.pend.any (fun p => p.due ≤ k.cyc && !p.slowLanes.isEmpty)

/-- The slow-path freeze begins: 6 cycles and the charge of every lane due (R129). -/
def slowBegin (c : Nat) (s : State) : State :=
  let k := coreOf s c
  let cost := (k.pend.filter (fun p => p.due ≤ k.cyc)).foldl (fun a p => a + p.slowCost) 0
  setCstat F.CORE_STAT.FRZ c 2 (modCore c (fun k => { k with slowDue := match k.slowDue with
    | some n => some n
    | none => some (6 + cost) }) s)

/-- A charge of ticks to a pool. -/
def spendTicks (slot d n : Nat) (s : State) : State :=
  if n = 0 then s else modCtx slot (fun x => { x with tokens := mapPut x.tokens d (poolLeft x d - n) }) s

/-- Demand that a pool refuses: counted, and the core token-frozen until the next window (R88, R89). -/
def tokenFreeze (c need : Nat) (s : State) : State :=
  let d := dieOf c
  fbumpBy F.TOK_EXCESS.TICKS d 0 need
    (modCore c (fun q => { q with tokenFrozen := true }) { s with tokHeld := mapPut s.tokHeld d true })

/-- The charged movers of a core in a cycle in which another cause freezes it (R84, R88): they go on while the pool covers
them. -/
def moversGo (c slot : Nat) (s : State) : State :=
  let k := coreOf s c
  let es := moverWant k
  match ctxOf s slot with
  | none => s
  | some x =>
    if es.isEmpty then s
    else if k.tokenFrozen || poolLeft x (dieOf c) < es.length then tokenFreeze c es.length s
    else spendTicks slot (dieOf c) es.length (modCore c (payMovers es) s)

/-- Slow lanes of an audit core's results that land now, counted (R130): its results wait for no freeze of its own. -/
def auditSlow (a : Nat) (s : State) : State :=
  let k := coreOf s a
  fbumpBy F.VEC_SLOW.LANES (dieOf a) 0
    ((k.pend.filter (fun p => p.due ≤ k.cyc)).foldl (fun n p => n + p.slowLanes.length) 0) s

/-- The demand of the bundle that the audit core of a task issues beside it (R87). -/
def auditDemand (s : State) (r : Run) (next : Core → Option Bundle) : Nat :=
  match r.audit with
  | some a => (match next (coreOf s a) with | some b => demandOf (coreOf s a) b | none => 0)
  | none => 0

/-- Issue of one bundle on a core in its next cycle: the freezes of R84 in their order, the checks of R85, the tokens of
R88, then the four slots; `next` gives the bundle the audit core of the task issues with it (R382). -/
def issueWith (c : Nat) (b : Bundle) (next : Core → Option Bundle) (s : State) : State :=
  let k := coreOf s c
  match k.run with
  | none => s
  | some r =>
    let d := dieOf c
    if r.isAudit || r.ended || k.moving || ctxState s r.task.slot != 1 then s
    else if k.repeatDue then repeatCycle c (moversGo c r.task.slot s)
    else if slowNow k then slowBegin c s
    else
      let s0 := modCore c (fun q => landDue (constLines s r.task.slot) q.cyc q) s
      let k0 := coreOf s0 c
      match ctxOf s r.task.slot with
      | none => s
      | some x =>
        let es := moverWant k0
        let ready := arrivalOk s0 c k0 r b
        let need := es.length + (if ready then demandOf k0 b + auditDemand s0 r next else 0)
        let drain := match b.ctl with | .fence _ => fenceDrain c | _ => id
        if k.tokenFrozen || poolLeft x d < need then
          freezeCycle c 3 F.CORE_FRZ_TOK.CYCLES (tokenFreeze c need s0)
        else if !ready then
          freezeCycle c 1 F.CORE_FRZ_ARR.CYCLES (drain (spendTicks r.task.slot d need (modCore c (payMovers es) s0)))
        else match faultOf k0 b with
          | some code => schedFault c code s0
          | none =>
            let s1 := bundleGo c b (setCstat F.CORE_STAT.FRZ c 0
              (spendTicks r.task.slot d need (modCore c (payMovers es) s0)))
            match r.audit with
            | none => s1
            | some a =>
              let s2 := modCore a (fun q => landDue (constLines s1 r.task.slot) q.cyc q) (auditSlow a s1)
              match next (coreOf s2 a) with
              | some b2 => bundleGo a b2 s2
              | none => s2

/-- A bundle of one slot issued on a core. -/
def issue (c : Nat) (b : Bundle) (s : State) : State := issueWith c b (fun _ => some b) s

/-- The bundle at a core's program counter (R67, R85). -/
def fetch (s : State) (k : Core) : Option Bundle :=
  match k.run with
  | none => none
  | some r =>
    match ctxOf s r.task.slot with
    | none => none
    | some x => match x.image with
      | none => none
      | some im => (im.code[k.pc]?).map bundleOf

/-- The bundle at the program counter issued, or the CODE_RANGE fault taken (R68, R85). -/
def issueFetched (c : Nat) (s : State) : State :=
  match fetch s (coreOf s c) with
  | some b => issueWith c b (fetch s) s
  | none => if canIssue s c && !(coreOf s c).repeatDue then schedFault c 7 s else s

end Sys2Proof.Machine
end

