-- ==== Sys2Proof/Machine/CuProg.lean ====
section
/-! DEFINITION. Cellar-unit programs (R198 to R201): instruction words, the built-in listings, the checks of a load and of a
registration, and the operand slots a program reads and writes. -/

namespace Sys2Proof.Machine

/-- The fields of a cellar-unit instruction (R198). -/
structure CuIns where
  opc : Nat
  d : Nat
  a : Nat
  b : Nat
  c : Nat
  slot : Nat
  low : Nat
  deriving DecidableEq, Repr

/-- An instruction read from its word. -/
def cuInsOf (w : Word) : CuIns :=
  let n := w.toNat
  { opc := bitsOf n 31 26, d := bitsOf n 25 22, a := bitsOf n 21 17, b := bitsOf n 16 12, c := bitsOf n 11 7
    slot := bitsOf n 6 4, low := bitsOf n 3 0 }

/-- The word of an instruction. -/
def cuWord (opc d a b c slot : Nat) : Word :=
  wd (opc * 2 ^ 26 + d * 2 ^ 22 + a * 2 ^ 17 + b * 2 ^ 12 + c * 2 ^ 7 + slot * 2 ^ 4)

/-- The built-in programs (R201), by program code 0x00 to 0x03. -/
def builtIn (code : Nat) : List Word :=
  let ld := fun (t sl : Nat) => cuWord 0x01 t 0 0 0 sl
  let ldw := fun (t sl : Nat) => cuWord 0x02 t 0 0 0 sl
  let st := fun (sl t : Nat) => cuWord 0x03 0 t 0 0 sl
  let stw := fun (sl t : Nat) => cuWord 0x04 0 t 0 0 sl
  let fin := cuWord 0x3F 0 0 0 0 0
  match code with
  | 0 => [ld 0 0, ldw 1 1, ld 2 2, cuWord 0x0B 0 0 25 0 0, cuWord 0x0C 0 1 18 0 0, cuWord 0x18 2 2 0 16 0,
      cuWord 0x0C 1 2 20 1 0, stw 1 1, st 2 2, fin]
  | 1 => [ld 0 0, ldw 1 1, ld 2 2, ld 3 3, cuWord 0x0B 0 0 25 0 0, cuWord 0x18 2 2 0 16 0, cuWord 0x19 3 3 0 18 0,
      cuWord 0x1A 4 2 3 20 0, cuWord 0x18 1 1 4 23 0, stw 1 1, st 2 2, st 3 3, fin]
  | 2 => [ld 0 0, ldw 1 1, ld 2 2, cuWord 0x0B 0 0 25 0 0, cuWord 0x18 3 2 0 16 0, cuWord 0x13 3 3 0 0 0,
      cuWord 0x18 1 1 3 20 0, cuWord 0x18 2 2 0 18 0, stw 1 1, st 2 2, fin]
  | _ => [ld 0 0, ld 1 1, cuWord 0x0C 1 0 25 1 0, st 1 1, fin]

/-- Whether an opcode is defined (R199). -/
def cuOpcOk (o : Nat) : Bool :=
  (1 ≤ o && o ≤ 4) || (8 ≤ o && o ≤ 0x15) || (0x18 ≤ o && o ≤ 0x1A) || o == 0x3F

/-- Whether an opcode stores to a slot. -/
def cuStores (o : Nat) : Bool := o == 3 || o == 4

/-- Whether an opcode loads from a slot. -/
def cuLoads (o : Nat) : Bool := o == 1 || o == 2

/-- The slots a program writes. -/
def progWrites (p : List Word) : List Nat := ((p.map cuInsOf).filter (fun i => cuStores i.opc)).map (·.slot)

/-- The slots a program uses. -/
def progSlots (p : List Word) : List Nat :=
  (((p.map cuInsOf).filter (fun i => cuStores i.opc || cuLoads i.opc)).map (·.slot)).eraseDups

/-- A stream instruction may leave these fields only zero: the reserved bits (R198, R200). -/
def cuLowOk (i : CuIns) : Bool := i.low == 0

/-- Whether the hyperparameter fields of the combined instructions are in range (R200). -/
def cuHyperOk (i : CuIns) : Bool :=
  if i.opc == 0x18 || i.opc == 0x19 then 16 ≤ i.c && i.c ≤ 30
  else if i.opc == 0x1A then 16 ≤ i.c && i.c ≤ 29
  else true

/-- Whether every stored T register has been written by an earlier instruction (R200). -/
def cuDefined : List Nat → List CuIns → Bool
  | _, [] => true
  | w, i :: t =>
    (if cuStores i.opc then 16 ≤ i.a || w.contains i.a else true) &&
      cuDefined (if cuStores i.opc || i.opc == 0x3F then w else i.d :: w) t

/-- The verdict on a program at load (R200): 0 accepted, 1 BAD_OPCODE, 2 BAD_PARAM. -/
def progCheck (p : List Word) : Nat :=
  let is := p.map cuInsOf
  let st := (is.filter (fun i => cuStores i.opc)).map (·.slot)
  if is.any (fun i => !cuOpcOk i.opc) then 1
  else if is.any (fun i => !cuLowOk i || !cuHyperOk i) ||
      is.findIdx (fun i => i.opc == 0x3F) + 1 != is.length || st.eraseDups.length != st.length || !cuDefined [] is then 2
  else 0

/-- The operand slot `n` of a descriptor (R203): address, second address, format code. -/
def updSlot (b : List Byte) (n : Nat) : Nat × Nat × Nat :=
  (getLE b (64 + 16 * n) 5, getLE b (69 + 16 * n) 5, byteAt b (74 + 16 * n))

/-- The byte ranges of a slot: start, end, 1 a high half, 2 a low half, 0 whole elements. -/
def slotRanges (b : List Byte) (n : Nat) : List (Nat × Nat × Nat) :=
  let e := getLE b 4 5
  let (a, a2, fmt) := updSlot b n
  match fmtOf fmt with
  | some f => if f.split then [(a, a + 2 * e, 1), (a2, a2 + 2 * e, 2)] else [(a, a + f.elem.bits / 8 * e, 0)]
  | none => []

/-- The ranges a descriptor writes. -/
def updWritten (d : UpdDesc) : List (Nat × Nat) :=
  ((progWrites d.program).map (fun n => (slotRanges d.bytes n).map (fun r => (r.1, r.2.1)))).flatten

/-- Whether the update of a descriptor for its armed step has fired and not completed, as R207 has it. -/
def updBusy (d : UpdDesc) : Bool := d.fired

/-- The stacks with a descriptor of a context that holds an access back (R207): a read of a written range by a task of the
step after the armed one, or a write to a range other than a high half while the update is on its way. -/
def fencesOf (s : State) (slot : Nat) (t : DWord) (write : Bool) (rs : List (Nat × Nat)) : List Nat :=
  (List.range 16).filter (fun m => (stackOf s m).descs.any (fun (e : Nat × UpdDesc) =>
    e.2.slot == slot &&
      (if write then updBusy e.2 && (updRanges e.2.bytes).any (fun r => r.2.2 != 1 && rs.any (rangesMeet (r.1, r.2.1)))
       else t == e.2.armed + 1 && (updWritten e.2).any (fun r => rs.any (rangesMeet r)))))

/-- Whether a write meets the high half of a registered split operand (R195). -/
def hitsHighHalf (s : State) (rs : List (Nat × Nat)) : Bool :=
  (List.range 16).any (fun m => (stackOf s m).descs.any (fun (e : Nat × UpdDesc) =>
    (updRanges e.2.bytes).any (fun r => r.2.2 == 1 && rs.any (rangesMeet (r.1, r.2.1)))))

end Sys2Proof.Machine
end

