-- ==== Sys2Proof/Machine/Movers.lean ====
section
/-! DEFINITION. Tile movers and at-shelf operations: start and validation of items, movement with conversion, residency,
tallies of stores, FILL, SCOPY and shelf clears (R79, R137 to R152, R187, R188, R195, R207). -/

namespace Sys2Proof.Machine

/-! ## Descriptors (R139, R142, R145) -/

/-- A format code of a mover side: a split master weight is read as its S16 high half (R144). -/
def movFmt (code : Nat) : Nat := if code = 7 then 1 else code

/-- Whether a tile-mover descriptor passes the checks of R145. -/
def tmvOk (b : List Byte) : Bool :=
  let t := tmvOf b
  match fmtOf t.mfmt, fmtOf t.sfmt with
  | some fm, some fs =>
    let aligned := fun (f : Fmt) => f.block == 0 || t.axpos % f.block == 0
    t.op < 2 && t.flags < 16 && getLE b 61 3 == 0 && 1 ≤ t.rows && t.rows ≤ 65536 && 1 ≤ t.cols && t.cols ≤ 65536 &&
      !(t.op == 1 && bitAt t.flags 1) && !(t.op == 0 && (bitAt t.flags 2 || bitAt t.flags 3)) &&
      !(t.op == 1 && t.mfmt == 7) && !(bitAt t.flags 2 && 0x7FFFFF ≤ t.tag) && aligned fm && aligned fs &&
      rowBytes fs t.shCols ≤ t.sstride && t.sstride % 64 == 0 && t.shelfRanges.all (fun r => r.2 ≤ 0x60000)
  | _, _ => false

/-- The lines of a FILL or SCOPY: reads, writes; none where R140 refuses the descriptor. -/
def atShelf (kind : Nat) (b : List Byte) : Option (Option (Nat × Nat) × (Nat × Nat)) :=
  if kind = 1 then
    let d := getLE b 0 2
    let n := getLE b 2 2
    if n = 0 || 6144 < d + n || getLE b 4 4 != 0 || getLE b 16 48 != 0 then none else some (none, (64 * d, 64 * (d + n)))
  else
    let sr := getLE b 0 2
    let d := getLE b 2 2
    let n := getLE b 4 2
    if n = 0 || 6144 < d + n || 6144 < sr + n || getLE b 6 58 != 0 then none
    else some (some (64 * sr, 64 * (sr + n)), (64 * d, 64 * (d + n)))

/-- The shelf ranges an item reads and those it writes. -/
def itemRanges (kind : Nat) (b : List Byte) : List (Nat × Nat) × List (Nat × Nat) :=
  if kind = 0 then
    let t := tmvOf b
    if t.op = 1 then (t.shelfRanges, []) else ([], t.shelfRanges)
  else match atShelf kind b with
    | some (some r, w) => ([r], [w])
    | some (none, w) => ([], [w])
    | none => ([], [])

/-- Whether an item must wait for an earlier one: their shelf ranges overlap and one of them writes there (R141). -/
def itemsMeet (a b : List (Nat × Nat) × List (Nat × Nat)) : Bool :=
  a.2.any (fun w => (b.1 ++ b.2).any (rangesMeet w)) || a.1.any (fun r => b.2.any (rangesMeet r))

/-! ## Rows with their poison -/

/-- Bytes of a shelf row with poison; a word that fails parity counts as poisoned (R152). -/
def shelfRow (s : State) (c addr n : Nat) : List (Byte × Bool) :=
  let k := coreOf s c
  ((linePieces addr n).map (fun p =>
    let g := shelfGet s c p.1 p.2
    g.bytes.zipIdx.map (fun (x : Byte × Nat) => (x.1, g.poison || mapGet false k.shelfBad ((p.1 + x.2) / 4))))).flatten

/-- Bytes of a memory row with poison, as a task of step `t` reads it. -/
def memRow (s : State) (slot : Nat) (t : DWord) (addr n : Nat) : List (Byte × Bool) :=
  ((linePieces addr n).map (fun p =>
    let g := stepBytes s slot t p.1 p.2
    g.1.map (fun b => (b, g.2)))).flatten

/-- The codes of a row of `n` elements (R60). -/
def rowCodes (f : Fmt) (n : Nat) (bs : List Byte) : List Nat :=
  if f.block = 0 then (codesOf f.elem.bits bs).take n
  else (((chunksOf (packedLen f.elem.bits f.block) (bs.length + 1) bs).map (fun c =>
    (codesOf f.elem.bits c).take f.block)).flatten).take n

/-- Codes packed as a row; every block starts on a byte boundary and is padded with code 0. -/
def packRow (f : Fmt) (cs : List Nat) : List Byte :=
  if f.block = 0 then packCodes f.elem.bits cs
  else ((chunksOf f.block (cs.length + 1) cs).map (fun g =>
    packCodes f.elem.bits (g ++ List.replicate (f.block - g.length) 0))).flatten

/-- An element on its way: stored code, value, poison, whether it is padding. -/
structure El where
  code : Nat
  num : Num
  poison : Bool
  pad : Bool
  deriving DecidableEq, Repr

/-- All ones for a poisoned item, zero for a clean one: packing and unpacking these follows the poison. -/
def poisonMask (bits : Nat) (p : Bool) : Nat := if p then 2 ^ bits - 1 else 0

/-- The elements of a stored row with its scales. -/
def rowEls (f : Fmt) (n axpos axlen : Nat) (row sc : List (Byte × Bool)) : List El :=
  let cs := rowCodes f n (row.map (fun x => x.1))
  let ps := rowCodes f n (row.map (fun x => by8 (poisonMask 8 x.2)))
  (cs.zip ps).zipIdx.map (fun (x : (Nat × Nat) × Nat) =>
    let q : Byte × Bool := if f.block = 0 then (0, false) else sc.getD (x.2 / f.block) (0, false)
    let pad := f.block != 0 && axlen ≤ axpos + x.2
    { code := x.1.1, poison := !pad && (x.1.2 != 0 || q.2), pad := pad
      num := if pad then .zero false else if f.block = 0 then decodeElem f.elem x.1.1 else decodeScaled f.elem q.1.toNat x.1.1 })

/-- A row as it is written: bytes and scale bytes with their poison, its elements, the scale codes, substitutions. -/
structure RowOut where
  bytes : List (Byte × Bool)
  scales : List (Byte × Bool)
  els : List El
  subst : Nat
  deriving DecidableEq, Repr

/-- Bytes of a row of codes with the poison of their elements; the codes of a block whose scale is chosen anew all derive from
each of its elements (R138). -/
def rowOfEls (f : Fmt) (els : List El) : List (Byte × Bool) :=
  (packRow f (els.map (·.code))).zip ((packRow f (els.map (fun e => poisonMask f.elem.bits e.poison))).map (· != 0))

/-- Whether an element is written as a substitute (R148). -/
def substOf (t : Elem) (v : Num) : Bool :=
  match t, v with
  | .int8, v => v.special
  | .u16, .fin s _ _ => s
  | .u16, .inf s => s
  | _, _ => false

/-- A row encoded in the target format with RNE (R53, R59, R144); padding of the source stays padding (R58). -/
def encodeRow (f : Fmt) (axpos axlen : Nat) (els : List El) : RowOut :=
  if f.block = 0 then
    let es := els.map (fun e => { e with code := encodeElem f.elem .rne e.num })
    { bytes := rowOfEls f es, scales := [], els := es, subst := (els.filter (fun e => substOf f.elem e.num)).length }
  else
    let es := els.zipIdx.map (fun (x : El × Nat) =>
      if axlen ≤ axpos + x.2 then { code := 0, num := .zero false, poison := false, pad := true }
      else x.1)
    let blocks := (chunksOf f.block (es.length + 1) es).map (fun g =>
      let (sc, cs) := encodeBlock f.elem (fun _ => .rne) (g.map (·.num))
      let bad := g.any (·.poison)
      let g' : List El := (g.zip cs).map (fun (x : El × Nat) =>
        { x.1 with code := if x.1.pad then 0 else x.2, poison := bad && !x.1.pad })
      (sc, bad, g', if sc = 0xFF then (g'.filter (fun (e : El) => !e.pad)).length else 0))
    let out := (blocks.map (fun b => b.2.2.1)).flatten
    { bytes := rowOfEls f out, scales := blocks.map (fun b => (by8 b.1, b.2.1)), els := out
      subst := blocks.foldl (fun a b => a + b.2.2.2) 0 }

/-- The rows of a grid turned into its columns. -/
def transposed (n : Nat) (rows : List (List El)) : List (List El) :=
  (List.range n).map (fun c => rows.filterMap (fun r => r[c]?))

/-- The rows a mover writes, from the rows it reads (R144): `n` is the length of a source row. Codes 0x07 and 0x01 differ
(log entry 68); under `TRANSPOSE`, `AXPOS` and `AXLEN` place the source rows and the target rows alike (DESIGN CHOICE, log
entry 71). -/
def convertRows (t : Tmv) (src dst : Fmt) (n : Nat) (rows scs : List (List (Byte × Bool))) : List RowOut :=
  let els := (rows.zip scs).map (fun (x : List (Byte × Bool) × List (Byte × Bool)) => rowEls src n t.axpos t.axlen x.1 x.2)
  let same := t.mfmt == t.sfmt
  if same && !t.tr then
    ((rows.zip scs).zip els).map (fun (x : (List (Byte × Bool) × List (Byte × Bool)) × List El) =>
      { bytes := x.1.1, scales := x.1.2, els := x.2, subst := 0 })
  else
    let grid := if t.tr then transposed n els else els
    if same && src.block = 0 then grid.map (fun r => { bytes := rowOfEls dst r, scales := [], els := r, subst := 0 })
    else grid.map (encodeRow dst t.axpos t.axlen)

/-- The pieces that rows make at a base and stride, with scale rows at theirs. -/
def piecesOf (base stride sbase sstride : Nat) (rows : List RowOut) : List (Nat × List (Byte × Bool)) :=
  (rows.zipIdx.map (fun (x : RowOut × Nat) =>
    [(base + x.2 * stride, x.1.bytes), (sbase + x.2 * sstride, x.1.scales)])).flatten.filter (fun p => !p.2.isEmpty)

/-- The lines that pieces poison. -/
def poisonLines (ps : List (Nat × List (Byte × Bool))) : List Nat :=
  ((ps.map (fun p => (p.2.zipIdx.filter (fun (x : (Byte × Bool) × Nat) => x.1.2)).map (fun x => (p.1 + x.2) / 64))).flatten).eraseDups

/-- What a mover item reads and makes: rows, unmarked lines read, the first word that failed parity. -/
def moveRows (s : State) (c slot : Nat) (step : DWord) (t : Tmv) : List RowOut × Nat × Option Nat :=
  match fmtOf (movFmt t.mfmt), fmtOf (movFmt t.sfmt) with
  | some fm, some fs =>
    if t.op = 0 then
      let rows := (List.range t.rows).map (fun r => memRow s slot step (t.mem + r * t.mstride) (rowBytes fm t.cols))
      let scs := (List.range t.rows).map (fun r => memRow s slot step (t.msaddr + r * t.msstride) (rowBlocks fm t.cols))
      (convertRows t fm fs t.cols rows scs, 0, none)
    else
      let at0 := fun (r : Nat) => (64 * t.sh + r * t.sstride, rowBytes fs t.shCols)
      let at1 := fun (r : Nat) => (64 * t.shs + r * t.ssstride, rowBlocks fs t.shCols)
      let gs := (List.range t.shRows).map (fun r =>
        let a := shelfGet s c (at0 r).1 (at0 r).2
        let b := shelfGet s c (at1 r).1 (at1 r).2
        (a.hazards + b.hazards, match a.bad with | some w => some w | none => b.bad))
      let rows := (List.range t.shRows).map (fun r => shelfRow s c (at0 r).1 (at0 r).2)
      let scs := (List.range t.shRows).map (fun r => shelfRow s c (at1 r).1 (at1 r).2)
      (convertRows t fs fm t.shCols rows scs, gs.foldl (fun a g => a + g.1) 0, gs.findSome? (fun g => g.2))
  | _, _ => ([], 0, none)

/-! ## Tallies of stores (R147) -/

/-- Contributions of a store, added outside the repeatable region: a store is never re-issued by a repeat (R178). `block_` gives
the logical block of an index; an element is non-finite as at MOUT (R42, R116). -/
def storeTally (block_ : Nat → Option Nat) (t : Tmv) (rows : List RowOut) (r : Run) : Run :=
  let tags := t.tag :: r.tags.filter (· != t.tag)
  if !bitAt t.flags 2 then { r with tags := tags } else
  let own := bitAt t.flags 3
  let nonfinite := fun (v : Num) => match fmtOf t.mfmt with | some f => encodeNonfinite f.elem v | none => false
  let block := match fmtOf (movFmt t.mfmt) with | some f => f.block | none => 0
  let nb := if block = 0 then 0 else (t.axlen + block - 1) / block
  let r0 := { r with regionTens := r.tens, regionTally := r.taskTally, tags := tags }
  let r1 := rows.zipIdx.foldl (fun a (x : RowOut × Nat) =>
    let base := t.lidx + x.2 * t.lpitch
    let b := x.1.els.zipIdx.foldl (fun q (e : El × Nat) =>
      let i := (base + e.2) % 2 ^ 40
      if e.1.pad then q else runTally own t.tag i e.1.code (nonfinite e.1.num) e.1.poison (block_ i) q) a
    x.1.scales.zipIdx.foldl (fun q (e : (Byte × Bool) × Nat) =>
      runTally own (t.tag + 0x800000) (base % 2 ^ 40 / t.axlen * nb + t.axpos / block + e.2) e.1.1.toNat false e.1.2 none q) b) r0
  { r1 with tens := r1.regionTens, taskTally := r1.regionTally, regionTens := r.regionTens, regionTally := r.regionTally }

/-! ## Start of an item (R141, R145, R188, R195, R207) -/

/-- Shelf pieces written by an agent, each line with its poison. -/
def agentPieces (c : Nat) (ps : List (Nat × List (Byte × Bool))) (s : State) : State :=
  let pl := poisonLines ps
  ps.foldl (fun a p => (linePieces p.1 p.2.length).foldl (fun b q =>
    agentPut c q.1 (((p.2.drop (q.1 - p.1)).take q.2).map (fun x => x.1)) (pl.contains (q.1 / 64)) b) a) s

/-- The lowest free engine of a core. -/
def freeEngine (k : Core) : Option Nat := (List.range 4).find? (fun e => (mapFind k.engines e).isNone)

/-- The fences that hold a tile-mover item back. -/
def itemFences (s : State) (r : Run) (t : Tmv) : List Nat :=
  fencesOf s r.task.slot r.task.step (t.op == 1) t.memRanges

/-- An item given an engine. -/
def engineTake (c e : Nat) (i : MoverItem) (b : List Byte) (fenced : Bool) (s : State) : State :=
  let x : EngineItem := { item := i, desc := b, fenced := fenced, paid := 0, wrote := false, left := none }
  modCore c (fun k => { k with engines := mapPut k.engines e x }) s

/-- The next item of a queue started on engine `e`. -/
def startItem (c e : Nat) (r : Run) (i : MoverItem) (rest : List MoverItem) (s : State) : State :=
  let g := shelfGet s c (64 * i.line) 64
  let b := g.bytes
  let k := coreOf s c
  let mine := itemRanges i.kind b
  if k.engines.any (fun (x : Nat × EngineItem) => itemsMeet mine (itemRanges x.2.item.kind x.2.desc)) then s
  else
    let s0 := countHaz c g.hazards (modCore c (fun k => { k with queue := rest }) s)
    let const := mine.2.any (fun w => hitsConst s c w.1 (w.2 - w.1))
    match g.bad with
    | some w => parityError c 2 (4 * w) s0
    | none =>
      if i.kind != 0 then
        if (atShelf i.kind b).isNone then failParam c s0
        else if const then taskFail c 4 0 s0
        else engineTake c e i b false s0
      else
        let t := tmvOf b
        let s1 := touchCtx r.task.slot s0
        if !tmvOk b then failParam c s1
        else match t.memRanges.findSome? (fun g => accessCause s r.task.slot .mover g.1 (g.2 - g.1)) with
          | some (a, cause) => failParam c (recordAfault a r.task.slot 0 cause s1)
          | none =>
            if t.op = 1 && hitsHighHalf s t.memRanges then failParam c s1
            else if const then taskFail c 4 0 s1
            else
              let f := itemFences s r t
              engineTake c e i b (!f.isEmpty) (if t.op = 0 then f.foldl (fun a m => fbump F.UPD_FENCE.COUNT m 0 a) s1 else s1)

/-- MOVER_ITEM_START (R141, R145): the item at the head of the queue starts on a free engine, unless an item under way
overlaps it or the context does not run. -/
def execMoverItemStart (c : CoreId) (s : State) : Out :=
  let k := coreOf s c.val
  match k.run, k.queue, freeEngine k with
  | some r, i :: rest, some e => if ctxState s r.task.slot != 1 then .next s else .next (startItem c.val e r i rest s)
  | _, _, _ => .next s

/-! ## Completion (R79, R144 to R150) -/

/-- A load with `RESIDENT` set recorded, in place of the least recently matched of four entries (R149). -/
def residentAdd (slot : Nat) (step : DWord) (desc : List Byte) (k : Core) : Core :=
  { k with resident := ({ desc := desc, slot := slot, step := step } :: k.resident).take 4 }

/-- The engine freed and, while the item's task is on the core, its arrival slot completed. -/
def engineDone (c e : Nat) (x : EngineItem) (s : State) : State :=
  let s1 := modCore c (fun k => { k with engines := mapDel k.engines e }) s
  if x.left.isSome then s1 else agentDone c x.item.slot s1

/-- The context and step of the task that an engine's item belongs to. -/
def itemOwner (k : Core) (x : EngineItem) : Option (Nat × DWord) :=
  match x.left, k.run with
  | some l, _ => some l
  | none, some r => some (r.task.slot, r.task.step)
  | none, none => none

/-- The writes of a store waiting for a page (R343, R344). -/
def storeWaits (s : State) (t : Tmv) : Bool := t.memRanges.any (fun g => devWaits s g.1 (g.2 - g.1))

/-- A store's writes are made: the item completes, or goes on waiting for pages (R343). -/
def storeEnd (c e : Nat) (x : EngineItem) (s : State) : State :=
  if storeWaits s (tmvOf x.desc) then
    modCore c (fun k => { k with engines := mapPut k.engines e { x with wrote := true } }) s
  else engineDone c e x s

/-- A tile-mover item moves its data. -/
def moverRun (c e slot : Nat) (step : DWord) (x : EngineItem) (s : State) : State :=
  let t := tmvOf x.desc
  let (rows, haz, bad) := moveRows s c slot step t
  let s1 := countHaz c haz s
  let s2 := fbumpBy F.TMV_SUBST.COUNT (dieOf c) 0 (rows.foldl (fun a o => a + o.subst) 0) s1
  if t.op = 0 then
    let s3 := agentPieces c (piecesOf (64 * t.sh) t.sstride (64 * t.shs) t.ssstride rows) s2
    engineDone c e x (if bitAt t.flags 1 then modCore c (residentAdd slot step x.desc) s3 else s3)
  else
    let ps := piecesOf t.mem t.mstride t.msaddr t.msstride rows
    let pl := poisonLines ps
    let s3 := ps.foldl (fun a p => devWritePFor (some (slot, step)) p.1 (p.2.map (fun x => x.1)) (fun l => pl.contains l)
      (cutPatch slot step p.1 (p.2.map (fun x => x.1)) (fun l => pl.contains l) a)) s2
    let tally := storeTally (declaredBlock s slot t.tag) t
    let s4 := if x.left.isSome then s3 else match auditOf s c with
      | some a => modRun a (tally (moveRows s a slot step t).1) (modRun c (tally rows) s3)
      | none => modRun c (tally rows) s3
    parityNote c 2 bad (storeEnd c e x s4)

/-- What is left to pay of a charged item's ticks. -/
def ticksLeft (x : EngineItem) : Nat :=
  let t := tmvOf x.desc
  if t.charged then t.cost - x.paid else 0

/-- A charged item that its context's pool does not cover to its end: it pays what is left, and its core is token-frozen (R88,
R146). -/
def moverPause (c e slot left : Nat) (x : EngineItem) (s : State) : State :=
  tokenFreeze c 1 (spendTicks slot (dieOf c) left
    (modCore c (fun k => { k with engines := mapPut k.engines e { x with paid := x.paid + left } }) s))

/-- MOVER_ITEM_COMPLETE (R79, R84, R144, R146 to R151, R180, R207): an item still fenced, held by the array or paused by its
core's token freeze goes on waiting; the ticks that its core's cycles have not paid fall due. -/
def execMoverItemComplete (c : CoreId) (eng : Fin 4) (s : State) : Out :=
  let k := coreOf s c.val
  match mapFind k.engines eng.val with
  | none => .next s
  | some x =>
    match itemOwner k x with
    | none => .next s
    | some (slot, step) =>
      let t := tmvOf x.desc
      if x.item.kind != 0 then .next s
      else if x.wrote then .next (if storeWaits s t then s else engineDone c.val eng.val x s)
      else if (x.fenced && !(fencesOf s slot step (t.op == 1) t.memRanges).isEmpty) ||
          (t.op == 0 && heldByArray k t.shelfRanges) || (t.charged && k.tokenFrozen) then .next s
      else match ctxOf s slot with
        | none => .next (moverRun c.val eng.val slot step x s)
        | some y =>
          if poolLeft y (dieOf c.val) < ticksLeft x then
            .next (moverPause c.val eng.val slot (poolLeft y (dieOf c.val)) x s)
          else .next (moverRun c.val eng.val slot step x (spendTicks slot (dieOf c.val) (ticksLeft x) s))

/-- FILL and SCOPY write their lines (R140, R138). -/
def atShelfRun (c e : Nat) (x : EngineItem) (w : Nat × Nat) (rd : Option (Nat × Nat)) (s : State) : State :=
  let n := (w.2 - w.1) / 64
  match rd with
  | none =>
    let pat := ((List.replicate 8 ((x.desc.drop 8).take 8))).flatten
    engineDone c e x ((List.range n).foldl (fun a i => agentPut c (w.1 + 64 * i) pat false a) s)
  | some r =>
    let gs := (List.range n).map (fun i => (shelfGet s c (r.1 + 64 * i) 64, shelfRow s c (r.1 + 64 * i) 64))
    let s1 := countHaz c (gs.foldl (fun a g => a + g.1.hazards) 0) s
    let s2 := gs.zipIdx.foldl (fun a (g : (ShelfGot × List (Byte × Bool)) × Nat) =>
      agentPut c (w.1 + 64 * g.2) g.1.1.bytes (g.1.2.any (fun x => x.2)) a) s1
    parityNote c 2 (gs.findSome? (fun g => g.1.bad)) (engineDone c e x s2)

/-- AT_SHELF_COMPLETE (R79, R138, R140). -/
def execAtShelfComplete (c : CoreId) (eng : Fin 4) (s : State) : Out :=
  let k := coreOf s c.val
  match mapFind k.engines eng.val with
  | some x =>
    if x.item.kind = 0 then .next s else
    match atShelf x.item.kind x.desc with
    | some (rd, w) => if heldByArray k [w] then .next s else .next (atShelfRun c.val eng.val x w rd s)
    | none => .next s
  | none => .next s

/-- A core's shelf cleared, with the constants of the context it is bound to placed again (R151, R173). -/
def shelfCleared (s : State) (c : Nat) (k : Core) : Core :=
  let consts := match ctxOf s (cstat s F.CORE_STAT.CTX c) with
    | some x => (match x.image with | some im => im.consts | none => [])
    | none => []
  placeConsts consts { clearShelf k with clearDue := false }

/-- SHELF_CLEAR (R151): begins once every started item of the core has completed. -/
def execShelfClear (c : CoreId) (s : State) : Out :=
  let k := coreOf s c.val
  if k.clearDue && k.engines.isEmpty then .next (setCore c.val (shelfCleared s c.val k) s) else .next s

end Sys2Proof.Machine
end

