-- ==== Sys2Proof/Machine/Tasks.lean ====
section
/-! DEFINITION. The task fabric: start and end of tasks, overflow rings, stealing, messages, anchor-table checks, AUTO
pre-passes and saved tasks (R100, R101, R155 to R171, R174, R220 to R224, R381, R382, R396, R397). -/

namespace Sys2Proof.Machine

/-! ## Start of a task (R156, R220 to R222, R381, R382) -/

/-- Tasks counted with one more of step `t`: a newer step starts at 0, an older one is not counted (R171). -/
def stepCount (k : Core) (t : DWord) (n more : Nat) : Nat :=
  if t = k.countStep then n + more else if t.toNat < k.countStep.toNat then n else more

/-- A task in its start state (R156), at the core's present schedule cycle. -/
def startCore (t : Task) (stolen : Bool) (k : Core) : Core :=
  { k with
    x := [], pc := t.desc.entry, branch := none, loops := [], arr := [], v := [], vPoison := [], k := [], gen := []
    genDrew := [], shelfMark := [], md := [], acc := [], accSt := [], accPoison := false, accTile := none, steps := 0
    crate := [], tiles := [], raises := [], pend := [], macFree := k.cyc, outFree := k.cyc, macClass := 0, macRanges := []
    queue := [], engines := [], armed := [], probe := none, repeatDue := false, slowDue := none, tokenFrozen := false
    tasksRun := stepCount k t.step k.tasksRun 1, tasksStolen := stepCount k t.step k.tasksStolen (b2n stolen)
    countStep := if t.step.toNat < k.countStep.toNat then k.countStep else t.step
    run := some
      { task := t, startCyc := k.cyc, frozen := 0, stolen := stolen, unsafeRegion := false, repeatPc := t.desc.entry
        repeatX := [], repeatLoops := [], poisonUsed := false, tens := [], regionTens := [], taskTally := 0
        regionTally := 0, checks := [], prepasses := [], regionTiles := [], tags := [], issued := [], sent := [], audit := none, isAudit := false
        orig := 0, refTally := none, ended := false } }

/-- The address of a thread's lane-state entry, by the table in force for step `t` (R220, R232). -/
def laneAddr (s : State) (slot : Nat) (t : DWord) (idx : Nat) : Nat := stepFld s slot t F.RNG_LS_BASE.ADDR * 4096 + 8 * idx

/-- The logical index of thread `i` of a task (R64). -/
def taskIdx (t : Task) (i : Nat) : Nat := (t.desc.lbase.toNat + i) % 2 ^ 40

/-- Whether a lane-state entry is malformed: a reserved byte or a reserved stream (R220, R222). -/
def laneBad (b : List Byte) : Bool := getLE b 5 3 != 0 || streamReserved (getLE b 2 3)

/-- The lane-state entries of a task's threads, read before its first bundle; the task fails where R222 refuses the table,
and each line with a poisoned entry is consumed by the task fabric (R369). The entries are read live (log entry 20). -/
def readLanes (c : Nat) (t : Task) (s : State) : State :=
  let slot := t.slot
  let units := stepFld s slot t.step F.RNG_LS_CNT.UNITS
  let base := stepFld s slot t.step F.RNG_LS_BASE.ADDR * 4096
  let ids := (List.range t.desc.threads).map (taskIdx t)
  let out := ids.any (fun i => 64 * units ≤ i)
  let fault := (accessCause s slot .mover base (512 * units)).isSome
  let at_ := if fault then [] else (ids.filter (fun i => i < 64 * units)).map (laneAddr s slot t.step)
  let es := at_.map (fun a => devBytes s a 8)
  let bad := es.any laneBad
  let s1 := if out || bad then fset F.RNG_STAT.LS_RANGE slot 0 1 s else s
  let s2 := if fault then fset F.RNG_STAT.LS_FAULT slot 0 1 s1 else s1
  let g : SMap DWord := es.zipIdx.foldl (fun (a : SMap DWord) (e : List Byte × Nat) =>
    mapSet 0 a e.2 (dw (getLE e.1 0 5))) []
  let s3 := if out || fault || bad then failParam c s2 else modCore c (fun k => { k with gen := g }) s2
  (((at_.filter (fun a => devPoison s a 8)).map (fun a => a / 64 * 64)).eraseDups).foldl (fun a l =>
    consume (dieOf c) slot 5 l false t.step a) s3

/-- Whether the audit scheduler samples a task (R381). -/
def auditSampled (s : State) (t : Task) : Bool :=
  let n := fget s F.FLT_CFG.AUD_LOG2
  let n := if n = 31 then 64 else min n 20
  let h := mix64 (t.step ^^^ dw (t.desc.taskId.toNat * 2 ^ 32) ^^^ dw (fget s F.AUD_SALT.SALT))
  n < 32 && h.toNat % 2 ^ n == 0

/-- Whether a core is a good spare: out of service, not suspect, in no margin run. -/
def goodSpare (s : State) (c : Nat) : Bool :=
  cstat s F.CORE_STAT.STATE c == 0 && !(coreOf s c).suspect && (coreOf s c).margin.isNone && (coreOf s c).run.isNone

/-- A free good spare core of a die. -/
def spareOf (s : State) (d : Nat) : Option Nat := ((List.range 272).map (· + 272 * d)).find? (goodSpare s)

/-- A free good spare core whose shelf waits for no clear and that no started item still uses: one that can audit at once
(R151, R381). -/
def auditSpare (s : State) (d : Nat) : Option Nat :=
  ((List.range 272).map (· + 272 * d)).find? (fun c => goodSpare s c && !(coreOf s c).clearDue && (coreOf s c).engines.isEmpty)

/-- The audit of a sampled task: a spare core starts in the same state, its shelf cleared but for the constants (R382). -/
def startAudit (c : Nat) (t : Task) (s : State) : State :=
  if !auditSampled s t then s else
  match auditSpare s (dieOf c) with
  | none => fbump F.AUD_SKIPS.COUNT 0 0 s
  | some a =>
    let consts := match ctxOf s t.slot with
      | some x => (match x.image with | some im => im.consts | none => [])
      | none => []
    let o := coreOf s c
    let s1 := modCore a (fun k =>
      let k1 := startCore t false (placeConsts consts (clearShelf k))
      { k1 with gen := o.gen, tasksRun := k.tasksRun, tasksStolen := k.tasksStolen, countStep := k.countStep, run := k1.run.map (fun r => { r with isAudit := true, orig := c }) }) s
    cycBreak 6 (dieOf c) (fbump F.AUD_RUNS.COUNT 0 0 (setCstat F.CORE_STAT.STATE a 2 (modRun c (fun r => { r with audit := some a }) s1)))

/-- A core starts a task. -/
def startTask (c : Nat) (t : Task) (stolen : Bool) (s : State) : State :=
  let s1 := setCstat F.CORE_STAT.FRZ c 0 (setCstat F.CORE_STAT.STATE c 2 (modCore c (startCore t stolen) (touchCtx t.slot s)))
  let uses := match ctxOf s t.slot with
    | some x => (match x.image with | some im => im.usesRngl | none => false)
    | none => false
  let s2 := if uses then readLanes c t s1 else s1
  if ctxState s2 t.slot = 1 then startAudit c t s2 else s2

/-- Whether a core may take a task: in service and idle, its context running, its shelf not waiting to be cleared, no item of an
earlier task still under way (DESIGN CHOICE, log entry 70), its die Active. -/
def coreFree (s : State) (c : Nat) : Bool :=
  cstat s F.CORE_STAT.STATE c == 1 && (coreOf s c).run.isNone && !(coreOf s c).clearDue && !(coreOf s c).moving &&
    (coreOf s c).engines.isEmpty &&
    fget s F.DIE_PWR.STATE (dieOf c) == 0 && ctxState s (cstat s F.CORE_STAT.CTX c) == 1

/-- A core that has taken a saved task waits for its image (R397). -/
def waitSaved (c : Nat) (t : Task) (s : State) : State :=
  modCore c (fun k => { k with probe := some { left := [], asked := none, reply := some (some t), waiting := false } }) s

/-- Whether a steal keeps a core from its own queue: a query is out, or a stolen task is on its way (R163, R165). -/
def stealing (k : Core) : Bool :=
  match k.probe with
  | some p => !p.waiting && p.reply != some none
  | none => false

/-- TASK_START (R156, R159): the core takes the task at the head of the queue it serves. -/
def execTaskStart (c : CoreId) (s : State) : Out :=
  let slot := cstat s F.CORE_STAT.CTX c.val
  if !coreFree s c.val || stealing (coreOf s c.val) then .next s else
  match ctxOf s slot with
  | none => .next s
  | some x =>
    match servedL s x c.val with
    | none => .next s
    | some l =>
      match queueOf x l with
      | t :: q =>
        if t.saved.isSome then .next (waitSaved c.val t (setCtx slot { x with queues := mapPut x.queues l q } s))
        else .next (startTask c.val t false (setCtx slot { x with queues := mapPut x.queues l q } s))
      | [] => .next s

/-! ## End of a task (R158) -/

/-- The entries of the threads that drew, written back (R221). -/
def writeLanes (c : Nat) (t : Task) (s : State) : State :=
  let k := coreOf s c
  k.genDrew.foldl (fun a (e : Nat × Bool) =>
    if e.2 then stepWrite t.slot t.step (laneAddr a t.slot t.step (taskIdx t e.1)) (leBytes 5 (mapGet 0 k.gen e.1).toNat ++ leBytes 3 0) false a
    else a) s

/-- A stop tag halts the context after the first task that wrote it (R45): the context halts with its held inputs held, and
the REPLAY command gets its final reply. -/
def stopHalt (slot : Nat) (t : DWord) (s : State) : State :=
  match ctxOf s slot with
  | none => s
  | some x =>
    let s1 := fset F.CTX_STAT.STATE slot 0 2 (setCtx slot { x with
      stopHalted := true, replaySet := none, steps := x.steps.map (fun e => if e.num == t then { e with stopTag := none } else e) } s)
    match x.replaySet with
    | some r => finishTaken r.src r.tag stOk [] s1
    | none => s1

/-- The original's task tally handed to its audit (R382). -/
def auditWait (a : Nat) (tally : DWord) (s : State) : State := modRun a (fun r => { r with refTally := some tally }) s

/-- The end of a task (R37, R158, R221, R369, R374): contributions enter the step unless the task consumed poison or its step
is being replayed; `SIGNAL` counts; the core is free. -/
def endTask (c : Nat) (r0 : Run) (s : State) : State :=
  let r := settleRegion r0
  let t := r.task
  let x := ctxOf s t.slot
  let st := match x with | some x => stepSt? x t.step | none => none
  let drop := match st with | some e => e.replaying | none => true
  let s1 := if r.poisonUsed then dropAudit c (recordFail c 8 8 0 [] s)
    else
      let s2 := writeLanes c t s
      let s3 := if drop then s2 else stepTally t.slot t.step r.tens s2
      match r.audit with
      | some a => auditWait a r.taskTally s3
      | none => s3
  let s4 := if t.desc.signal = 0xFFFF then s1 else joinBump t.slot t.step t.desc.signal s1
  let s5 := touchCtx t.slot (freeCore c s4)
  match st with
  | some e => match e.stopTag with
    | some g => if r.tags.contains g && !drop then stopHalt t.slot t.step s5 else s5
    | none => s5
  | none => s5

/-- TASK_END (R158): a task whose END has issued ends; on an audit core nothing happens before the comparison. -/
def execTaskEnd (c : CoreId) (s : State) : Out :=
  let k := coreOf s c.val
  match k.run with
  | none => .next s
  | some r =>
    if !r.ended || r.isAudit || ctxState s r.task.slot != 1 || !r.checks.isEmpty ||
        (List.range 32).any (fun i => arrCount k i != 0) then .next s
    else .next (endTask c.val r s)

/-- A task at the tail of a queue. -/
def enqueueTail (x : Ctx) (l : Nat) (t : Task) : Ctx := enterQueue x (t, l, false)

/-- OVERFLOW_RING_REFILL (R159, R160): the oldest overflow task of a queue moves onto the die, into the queue or, while its
gate is unsatisfied, the gate pool. -/
def execOverflowRingRefill (k : Slot) (lcore : Fin 2048) (s : State) : Out :=
  match ctxOf s k.val with
  | none => .next s
  | some x =>
    match overOf x lcore.val with
    | t :: o =>
      if 256 ≤ onDie x lcore.val then .next s
      else
        let x0 := { x with overflow := mapPut x.overflow lcore.val o }
        let x1 := if gateOpen x t then enqueueTail x0 lcore.val t else { x0 with gated := x.gated ++ [(t, lcore.val, false)] }
        .next (wakeDie (dieOfL x lcore.val) (setCtx k.val x1 s))
    | [] => .next s

/-! ## Stealing (R163 to R168, R397) -/

/-- Whether a logical core has lost the core that served it (R168). -/
def orphan (s : State) (slot : Nat) (x : Ctx) (l : Nat) : Bool :=
  match x.image with
  | none => false
  | some im =>
    let c := im.phys.getD l 0
    l < im.phys.length && !(cstat s F.CORE_STAT.CTX c == slot && cstat s F.CORE_STAT.LCORE c == l && cstat s F.CORE_STAT.STATE c != 3)

/-- The task a thief takes from a queue, with the queue left: a saved task first, else the last one that may be stolen. -/
def stealFrom (remote : Bool) (q : List Task) : Option (Task × List Task) :=
  let may := fun (t : Task) => t.desc.steal == 0 || (!remote && t.desc.steal == 1)
  match q with
  | t :: rest => if t.saved.isSome then some (t, rest) else
      match takeFirst? may (t :: rest).reverse with
      | some (u, l) => some (u, l.reverse)
      | none => none
  | [] => none

/-- The queues a local round probes, in order: orphan queues of the die, then those of the other cores of the context on
the die, from the thief's number on and around. -/
def localVictims (s : State) (slot : Nat) (x : Ctx) (c : Nat) : List Nat :=
  let d := dieOf c
  let orphans := (List.range (boundCount x)).filter (fun l => orphan s slot x l && dieOfL x l == d)
  let others := ((List.range 271).map (fun i => 272 * d + (c % 272 + 1 + i) % 272)).filterMap (fun p =>
    if cstat s F.CORE_STAT.CTX p = slot then (match lcoreOf x p with
      | some l => if orphan s slot x l then none else some l
      | none => none) else none)
  orphans ++ others

/-- Whether a queue's last ready task goes to the free core that serves it before any thief (R165). -/
def ownClaim (s : State) (x : Ctx) (l : Nat) : Bool :=
  (queueOf x l).length == 1 && (match x.image with
    | some im => (match im.phys[l]? with
      | some c => servedL s x c == some l && coreFree s c && !stealing (coreOf s c)
      | none => false)
    | none => false)

/-- What a local round finds: the task and the queue it was taken from. -/
def localFind (s : State) (slot : Nat) (x : Ctx) (c : Nat) : Option (Task × Nat × List Task) :=
  (localVictims s slot x c).findSome? (fun l => if ownClaim s x l then none else match stealFrom false (queueOf x l) with
    | some (t, q) => some (t, l, q)
    | none => none)

/-- What a remote query finds on a die: a saved task of an orphan queue, else the tail task of the fullest queue. -/
def remoteFind (x : Ctx) (d : Nat) : Option (Task × Nat × List Task) :=
  let ls := (List.range (boundCount x)).filter (fun l => dieOfL x l == d)
  let saved := ls.findSome? (fun l => match queueOf x l with
    | t :: q => if t.saved.isSome then some (t, l, q) else none
    | [] => none)
  match saved with
  | some r => some r
  | none =>
    let n := fun (l : Nat) => ((queueOf x l).filter (fun t => t.desc.steal == 0)).length
    let phys := fun (l : Nat) => match x.image with | some im => im.phys.getD l 0 | none => 0
    match minBy? (fun l => (65536 - n l) * 4096 + phys l) ls with
    | some l => if n l < 2 then none else match stealFrom true (queueOf x l) with
        | some (t, q) => some (t, l, q)
        | none => none
    | none => none

/-- Whether a core looks for a task to steal: free, no ready task on its own queue, no round in progress. -/
def thief (s : State) (c : Nat) : Bool :=
  coreFree s c && (coreOf s c).probe.isNone &&
    (match ctxOf s (cstat s F.CORE_STAT.CTX c) with
      | some x => (match servedL s x c with | some l => (queueOf x l).isEmpty | none => true)
      | none => false)

/-- A stolen task starts, or, where it was saved, waits for its image on the thief. -/
def takeStolen (c : Nat) (t : Task) (f : Fld) (s : State) : State :=
  if t.saved.isSome then waitSaved c t s
  else startTask c t true (fbump f (dieOf c) 0 s)

/-- STEAL_PROBE_ROUND (R163 to R165, R397): a local round; where it finds nothing, the first remote query goes out. -/
def execStealProbeRound (c : CoreId) (s : State) : Out :=
  if !thief s c.val then .next s else
  let slot := cstat s F.CORE_STAT.CTX c.val
  match ctxOf s slot with
  | none => .next s
  | some x =>
    match localFind s slot x c.val with
    | some (t, l, q) =>
      .next (takeStolen c.val t F.STEAL_LOCAL.COUNT (setCtx slot { x with queues := mapPut x.queues l q } s))
    | none =>
      let ds := remoteOrder (dieOf c.val)
      .next (modCore c.val (fun k => { k with probe := some { left := ds.drop 1, asked := ds.head?, reply := none, waiting := false } }) s)

/-- PROBE_WAIT_EXPIRY (R163): the wait after an empty round ends. -/
def execProbeWaitExpiry (c : CoreId) (s : State) : Out :=
  match (coreOf s c.val).probe with
  | some p => if p.waiting then .next (modCore c.val (fun k => { k with probe := none }) s) else .next s
  | none => .next s

/-- REMOTE_STEAL_QUERY (R164, R165): the victim die judges the query and removes the task it gives; in a halted context the
query returns empty. -/
def execRemoteStealQuery (c : CoreId) (s : State) : Out :=
  let slot := cstat s F.CORE_STAT.CTX c.val
  match (coreOf s c.val).probe, ctxOf s slot with
  | some p, some x =>
    match p.asked, p.reply with
    | some d, none =>
      let set := fun (r : Option Task) => modCore c.val (fun k => { k with probe := some { p with reply := some r } })
      if ctxState s slot != 1 then .next (set none s)
      else match remoteFind x d with
        | some (t, l, q) => .next (set (some t) (setCtx slot { x with queues := mapPut x.queues l q } s))
        | none => .next (set none s)
    | _, _ => .next s
  | _, _ => .next s

/-- Whether the queue that a core serves holds a ready task. -/
def ownReady (s : State) (c : Nat) : Bool :=
  match ctxOf s (cstat s F.CORE_STAT.CTX c) with
  | some x => (match servedL s x c with | some l => !(queueOf x l).isEmpty | none => false)
  | none => false

/-- STEAL_REPLY (R163, R164): a stolen task starts; an empty reply sends the next query or starts the wait, or, where the core's
own queue now holds a ready task, ends the round. -/
def execStealReply (c : CoreId) (s : State) : Out :=
  match (coreOf s c.val).probe with
  | none => .next s
  | some p =>
    match p.reply with
    | none => .next s
    | some (some t) =>
      if ctxState s t.slot != 1 || p.asked.isNone then .next s
      else .next (takeStolen c.val t F.STEAL_REMOTE.COUNT (modCore c.val (fun k => { k with probe := none }) s))
    | some none =>
      if ownReady s c.val then .next (modCore c.val (fun k => { k with probe := none }) s) else
      let p1 : Probe := match p.left with
        | d :: ds => { left := ds, asked := some d, reply := none, waiting := false }
        | [] => { left := [], asked := none, reply := none, waiting := true }
      .next (modCore c.val (fun k => { k with probe := some p1 }) s)

/-- The context of a saved task whose image a core takes: the task's items follow it. -/
def followSaved (n c : Nat) (s : State) : State :=
  { s with
    msgOut := s.msgOut.map (fun m => if m.saved = some n then { m with core := c, saved := none } else m)
    colls := s.colls.map (collToCore n c)
    saves := mapDel s.saves n }

/-- SAVED_TASK_RESUME (R397): the core loads the image and continues at the saved bundle; the area is released. Every line of the
shelf is overwritten, so no resident entry stays (R150). -/
def execSavedTaskResume (c : CoreId) (s : State) : Out :=
  match (coreOf s c.val).probe with
  | none => .next s
  | some p =>
    match p.reply with
    | some (some t) =>
      match t.saved with
      | none => .next s
      | some n =>
        match mapFind s.saves n with
        | none => .next s
        | some im =>
          if ctxState s t.slot != 1 then .next s else
          let s1 := modCore c.val (fun k => { im with
            cyc := im.cyc, resident := [], margin := k.margin, suspect := k.suspect, retireDue := k.retireDue
            moving := false, clearDue := false, tasksRun := k.tasksRun, tasksStolen := k.tasksStolen
            countStep := k.countStep, probe := none
            run := im.run.map (fun r => { r with task := { r.task with saved := none } }) }) s
          .next (touchCtx t.slot (followSaved n c.val (setCstat F.CORE_STAT.STATE c.val 2 s1)))
    | _ => .next s

/-! ## Messages (R169, R170) -/

/-- The core that serves a logical core of a context now, if one does. -/
def servedBy (s : State) (slot : Nat) (x : Ctx) (l : Nat) : Option Nat :=
  match x.image with
  | some im => if l < im.phys.length && !orphan s slot x l then im.phys[l]? else none
  | none => none

/-- A message from this device itself refused at its destination: the refusal goes back (R169). -/
def refuseMsg (m : Msg) (s : State) : State :=
  { s with msgOut := s.msgOut.map (fun o =>
      if o.id == m.id && o.dst == ownNode s && getLE m.bytes 0 2 == ownNode s then { o with refused := true } else o) }

/-- Where a message goes: none while it must wait, else the state with it landed, buffered or discarded. -/
def landOrWait (m : Msg) (s : State) : Option State :=
  match ctxOf s m.slot with
  | none => some s
  | some x =>
    if boundCount x ≤ m.lcore then some (refuseMsg m s) else
    let buffer := (mapFind x.bufs m.lcore).getD []
    let toBuf := if buffer.length < 64 then
        some (setCtx m.slot { x with bufs := mapPut x.bufs m.lcore (buffer ++ [m]) } s)
      else none
    match servedBy s m.slot x m.lcore with
    | none => toBuf
    | some c =>
      match (coreOf s c).run with
      | none => toBuf
      | some r =>
        if r.task.slot != m.slot || ctxState s m.slot != 1 then toBuf else
        match armedFor (coreOf s c) (msgBox m) with
        | some (key, a) =>
          let s1 := noteBoxSrc c m.slot r.task.step (msgBox m) (msgSrc m) s
          some (landMsg c a m (modCore c (fun k => { k with armed := mapDel k.armed key }) s1))
        | none => toBuf

/-- The first message that can move, in arrival order; one that finds its buffer full holds back only itself. -/
def deliverFirst (s : State) : List Msg → List Msg → Option State
  | _, [] => none
  | seen, m :: t =>
    match landOrWait m { s with msgIn := seen ++ t } with
    | some s1 => some s1
    | none => deliverFirst s (seen ++ [m]) t

/-- MESSAGE_DELIVERY (R169, R170): the next message lands in an armed box or the core's buffer. -/
def execMessageDelivery (s : State) : Out := .next ((deliverFirst s [] s.msgIn).getD s)

/-- The number of a message that is still on its way on this device. -/
def msgHere (s : State) (id : Nat) : Bool :=
  s.msgIn.any (fun m => m.id == id && getLE m.bytes 0 2 == ownNode s) || s.deliver.any (fun p => p.ptype == 1 && p.key.src == p.key.dst && getLE p.payload 66 4 == id)

/-- The arrival slot of a sent message completed, in the core or in the image of its saved task (R396). -/
def msgDone (m : MsgOut) (s : State) : State :=
  let s1 := { s with msgOut := s.msgOut.filter (fun e => e.id != m.id) }
  match m.saved with
  | none => agentDone m.core m.slot s1
  | some n =>
    match mapFind s1.saves n with
    | some co => { s1 with saves := mapPut s1.saves n { co with arr := mapSet 0 co.arr m.slot (arrCount co m.slot - 1) } }
    | none => s1

/-- MSG_LANDED (R169): the sender's arrival slot completes; a message still on its way, or refused, has not landed. -/
def execMsgLanded (id : Nat) (s : State) : Out :=
  match s.msgOut.find? (fun m => m.id == id) with
  | none => .next s
  | some m => if msgHere s id || m.refused then .next s else .next (msgDone m s)

/-- MSG_REFUSAL (R169): the refusal of a message returns; the sending task fails with MSG_DEST, in its save image too. This
device refuses a message to itself only where its destination is out of bounds. -/
def execMsgRefusal (id : Nat) (s : State) : Out :=
  match s.msgOut.find? (fun m => m.id == id) with
  | none => .next s
  | some m =>
    if m.dst = ownNode s && !m.refused then .next s else
    let s1 := { s with msgOut := s.msgOut.filter (fun e => e.id != id) }
    match m.saved with
    | none => .next (taskFail m.core 9 0 s1)
    | some n => .next (savedFail n 9 s1)

/-! ## Anchor tables and pre-passes (R100, R101, R174) -/

/-- GRID_CHECK_DONE (R174): the oldest mode-2 check of a core's task completes; a poisoned entry is consumed by the task
fabric (R369). -/
def execGridCheckDone (c : CoreId) (s : State) : Out :=
  match (coreOf s c.val).run with
  | none => .next s
  | some r =>
    match r.checks with
    | [] => .next s
    | g :: rest =>
      let slot := r.task.slot
      let s1 := modRun c.val (fun r => { r with checks := rest }) s
      match accessCause s slot .mover g.addr 2 with
      | some (a, cause) => .next (failParam c.val (recordAfault a slot 0 cause s1))
      | none =>
        let e := stepBytes s slot r.task.step g.addr 2
        let w := ofLE e.1
        let s2 := if e.2 then consume (dieOf c.val) slot 5 (g.addr / 64 * 64) false r.task.step s1 else s1
        let same := if w = 0x8000 then g.auto else !g.auto && sInt 16 w == g.anchor
        if same then .next s2 else .next (taskFail c.val 3 0 s2)

/-- The memory rows a pre-pass reads for one operand: address and length. -/
def ppRows (src stride groups : Nat) (f : Fmt) : List (Nat × Nat) :=
  let n := if f.block = 0 then 32 * groups * (f.elem.bits / 8) else groups
  (List.range 32).map (fun r => (src + r * stride, n))

/-- The largest of optional exponents. -/
def maxAll (l : List (Option Int)) : Option Int := l.foldl maxOpt none

/-- The scale code s of each group of an operand (R100): the largest over the block's 32 rows (log entry 21). -/
def ppScales (f : Fmt) (groups : Nat) (rows : List (List Byte)) : List (Option Int) :=
  (List.range groups).map (fun g =>
    if f.block = 0 then
      match maxAll (rows.map (fun row =>
        maxAll (((rowCodes f (32 * groups) row).drop (32 * g)).take 32 |>.map (fun c => match decodeElem f.elem c with
          | .fin _ m e => some (expOf m e)
          | _ => none)))) with
      | some x => some (x + 127)
      | none => none
    else maxAll (rows.map (fun row => if byteAt row g = 0xFF then none else some (byteAt row g : Int))))

/-- local_code (R100). -/
def localCode (sa sb : List (Option Int)) (pre : Option Int) : Nat :=
  let prods := (sa.zip sb).map (fun (x : Option Int × Option Int) => match x.1, x.2 with
    | some a, some b => some (a + b - 127)
    | _, _ => none)
  match maxAll (pre :: prods) with
  | none => 0
  | some b => if b < 0 then 0 else if 254 < b then 0xFF else b.toNat

/-- The pre-pass term of the preload tile, and its notes. -/
def ppPreload (s : State) (c : Nat) (md : List Byte) (ea eb : Int) : Option Int × ReadNote :=
  let g := shelfGet s c (64 * (mdOf md).preAddr) 2048
  let xs := (codesOf 16 g.bytes).map (fun w => match decodeElem .s16 w with
    | .fin _ m e => some (expOf m e)
    | _ => none)
  (match maxAll xs with | some x => some (x + 125 - ea - eb) | none => none, g.note)

/-- A pre-pass whose reads are done: its local code, agreed with others where it asks for it (R101, R326). One issued again
once its sequence is agreed takes the agreed code at once (R119). -/
def prepassGot (c : Nat) (r : Run) (p : Prepass) (code : Nat) (s : State) : State :=
  let agree := bitAt (byteAt p.desc 22) 1
  let st := match ctxOf s r.task.slot with | some x => stepSt? x r.task.step | none => none
  let replaying := match st with | some e => e.replaying | none => false
  let cctx := getLE p.desc 24 4
  let seq := wd (getLE p.desc 28 4)
  let known := match st with
    | some e => (e.agreed.find? (fun (a : Nat × Word × Nat) => a.1 == cctx && a.2.1 == seq)).map (fun (a : Nat × Word × Nat) => a.2.2)
    | none => none
  if agree && !replaying then
    match known with
    | some old => finishPrepass c p old s
    | none =>
    let s1 := modRun c (fun r => { r with prepasses := r.prepasses.map (fun (q : Prepass) =>
      if q.tile == p.tile && q.slot == p.slot then { q with code := some code } else q) }) s
    modColl cctx seq r.task.step r.task.slot (fun k =>
      { k with prepass := k.prepass ++ [{ core := c, saved := none, tile := p.tile, slot := p.slot, code := code }] }) s1
  else finishPrepass c p code s

/-- PREPASS_LOCAL_DONE (R100, R101, R187, R188, R207): the oldest AUTO pre-pass of a core finishes its reads. -/
def execPrepassLocalDone (c : CoreId) (s : State) : Out :=
  match (coreOf s c.val).run with
  | none => .next s
  | some r =>
    if r.isAudit then .next s else
    match r.prepasses.find? (fun p => p.code.isNone) with
    | none => .next s
    | some p =>
      let slot := r.task.slot
      let d := mdOf p.md
      match fmtOf (movFmt d.aFmt), fmtOf (movFmt d.bFmt) with
      | some fa, some fb =>
        let n := getLE p.desc 18 4
        let ra := ppRows (getLE p.desc 0 5) (getLE p.desc 10 4) n fa
        let rb := ppRows (getLE p.desc 5 5) (getLE p.desc 14 4) n fb
        match (ra ++ rb).findSome? (fun g => accessCause s slot .mover g.1 g.2) with
        | some (a, cause) => .next (failParam c.val (recordAfault a slot 0 cause s))
        | none =>
          let fs := fencesOf s slot r.task.step false ((ra ++ rb).map (fun g => (g.1, g.1 + g.2)))
          if !fs.isEmpty then
            if p.fenced then .next s
            else .next (fs.foldl (fun a m => fbump F.UPD_FENCE.COUNT m 0 a) (modRun c.val (fun r =>
              { r with prepasses := r.prepasses.map (fun q => if q == p then { q with fenced := true } else q) }) s))
          else
            let rd := fun (l : List (Nat × Nat)) => l.map (fun g => stepBytes s slot r.task.step g.1 g.2)
            let da := rd ra
            let db := rd rb
            let (pre, note) := if bitAt (byteAt p.desc 22) 0 then ppPreload s c.val p.md (preEmax d.aFmt) (preEmax d.bFmt)
              else (none, ReadNote.none)
            let code := localCode (ppScales fa n (da.map (·.1))) (ppScales fb n (db.map (·.1))) pre
            let hit := ((ra.zip da) ++ (rb.zip db)).find? (fun (x : (Nat × Nat) × (List Byte × Bool)) => x.2.2)
            let bad := hit.isSome || note.poison
            let s1 := if bad then modCore c.val (anchorPoison p.tile) s else s
            let s2 := match hit with
              | some x => consume (dieOf c.val) slot 3 (x.1.1 / 64 * 64) false r.task.step s1
              | none => if note.poison then coreConsumes c.val s1 else s1
            .next (parityNote c.val 1 note.bad (prepassGot c.val r p code (countHaz c.val note.hazards s2)))
      | _, _ => .next (failParam c.val s)

end Sys2Proof.Machine
end

