-- ==== Sys2Proof/Machine/Spares.lean ====
section
/-! DEFINITION. Spares and retirement: the wear record, RETIRED, SPARE_IN and SPARES_OUT, the units in service, and the
replacement of core-group members (R14, R386 to R390, R473). -/

namespace Sys2Proof.Machine

/-- The origin of a spares record (R473). -/
def spareOrigin (kind place : Nat) : Nat :=
  match kind with
  | 0 => place
  | 1 => portDie place
  | 2 => portDie place
  | 3 => 16 + place
  | 4 => 16 + place
  | 5 => 16 + place
  | 8 => 8
  | _ => 0

/-- One entry appended to the wear record; the record that fills it sends WEAR_FULL once (R390). -/
def wearAdd (kind place unit cause : Nat) (s : State) : State :=
  let e : WearEntry := { stamp := s.time.now, kind := kind, place := place, unit := unit % 65536, cause := cause }
  let s1 := if s.wear.length < 4096 then { s with wear := s.wear ++ [e] } else s
  if 4096 ≤ s1.wear.length && !s1.wearFullSent then sendEvent 8 0x06 4 [] none { s1 with wearFullSent := true } else s1

/-- Whether a core is in service in its place: active and idle, or running a task of its context. -/
def inService (s : State) (c : Nat) : Bool :=
  cstat s F.CORE_STAT.STATE c == 1 ||
    (cstat s F.CORE_STAT.STATE c == 2 && (match (coreOf s c).run with | some r => !r.isAudit | none => true))

/-- Active cores of a die. -/
def activeOn (s : State) (d : Nat) : Nat := ((List.range 272).filter (fun n => inService s (272 * d + n))).length

/-- `GBL_UNITS.ACTIVE_CORES` written after a retirement or a replacement (R14). -/
def updateUnits (s : State) : State :=
  fset F.GBL_UNITS.ACTIVE_CORES 0 0 ((List.range 8).foldl (fun a d => a + activeOn s d) 0) s

/-- A retirement reported and entered in the wear record (R388). -/
def noteRetired (kind place unit cause : Nat) (s : State) : State :=
  updateUnits (wearAdd kind place unit cause
    (sendEvent (spareOrigin kind place) 0x06 1 (det [(kind, 1), (place, 1), (unit, 2), (cause, 1)]) none s))

/-- A spare brought in reported and entered in the wear record (R387, R388). -/
def noteSpareIn (kind place unit old cause : Nat) (s : State) : State :=
  updateUnits (wearAdd kind place unit cause
    (sendEvent (spareOrigin kind place) 0x06 2 (det [(kind, 1), (place, 1), (unit, 2), (old, 2)]) none s))

/-- A kind that has run out reported, with the units left in service (R387). -/
def noteSparesOut (kind place left : Nat) (s : State) : State :=
  sendEvent (spareOrigin kind place) 0x06 3 (det [(kind, 1), (place, 1), (satTo 0xFFFF left, 2)]) none s

/-! ## Core groups (R392) -/

/-- The core group whose place a core holds, whether it serves there or has left it vacant. -/
def seatOf (s : State) (c : Nat) : Option Nat :=
  match mapFind s.seats c with
  | some g => if g < 128 then some g else none
  | none => if c % 272 < 256 then some (16 * dieOf c + c % 272 / 16) else none

/-- The cores that hold places of a core group, ascending. -/
def seatsOf (s : State) (g : Nat) : List Nat :=
  ((List.range 272).map (· + 272 * (g / 16))).filter (fun c => seatOf s c == some g)

/-- The active cores of a core group, ascending. -/
def groupCores (s : State) (g : Nat) : List Nat := (seatsOf s g).filter (inService s)

/-- The cause of the latest retirement of a core in the wear record; a core out of service without one left it after an audit
(R383). -/
def causeOf (s : State) (d n : Nat) : Nat :=
  match s.wear.reverse.find? (fun e => e.kind == 0 && e.place == d && e.unit == n) with
  | some e => e.cause
  | none => 1

/-- A vacant place of a core group filled with the lowest-numbered good spare of the die; with none left the place is given
up. -/
def fillSeat (g out : Nat) (s : State) : State :=
  let d := g / 16
  let left := { s with seats := mapPut s.seats out 0xFF }
  match spareOf s d with
  | none => noteSparesOut 0 d (activeOn s d) left
  | some c =>
    let s1 := setCstat F.CORE_STAT.STATE c 1 { left with seats := mapPut left.seats c g }
    noteSpareIn 0 d (c % 272) (out % 272) (causeOf s d (out % 272)) (modCore c (fun k => { k with clearDue := true }) s1)

/-- Every vacant place of a core group filled (R387). -/
def fillSeats (g : Nat) (s : State) : State :=
  ((seatsOf s g).filter (fun c => !inService s c)).foldl (fun a c => fillSeat g c a) s

/-- A core retired for a cause: it leaves service, its shelf is to be cleared (R151, R388). -/
def retireCore (cause c : Nat) (s : State) : State :=
  let s1 := setCstat F.CORE_STAT.STATE c 3 (setCstat F.CORE_STAT.CTX c 0xFF (setCstat F.CORE_STAT.LCORE c 0xFFF s))
  let s2 := modCore c (fun k =>
    { idleCore k with clearDue := true, retireDue := none, suspect := false, margin := none, probe := none }) s1
  noteRetired 0 (dieOf c) (c % 272) cause s2

/-- The re-binding point of a core group: members that are due are retired, and vacant places filled (R386 to R388). -/
def rebindPoint (g : Nat) (s : State) : State :=
  fillSeats g ((groupCores s g).foldl (fun a c => match (coreOf a c).retireDue with
    | some cause => retireCore cause c a
    | none => a) s)

end Sys2Proof.Machine
end

