-- ==== Sys2Proof/Machine/Cellar.lean ====
section
/-! DEFINITION. The cellars: demand reads and the scrub under ECC, row retirement, pseudo-channel migration, line writes,
writes that wait for a page, and zero fills (R182 to R193, R341 to R344, R474). -/

namespace Sys2Proof.Machine

/-! ## Lines, rows and device addresses (R184, R474) -/

/-- Lines of a stack: 768 frames of 64 MiB (R182). -/
def stackLines : Nat := 768 * 2 ^ 20

/-- The pseudo-channel of a line (R474). -/
def linePc (line : Nat) : Nat := line / 16 % 32

/-- The row of a line, as `2^21 * pc + row` (R474). -/
def lineRow (line : Nat) : Nat := 2 ^ 21 * linePc line + line / 512

/-- The first line of a row. -/
def rowLine (r : Nat) : Nat := r % 2 ^ 21 * 512 + r / 2 ^ 21 * 16

/-- The device address of a stack byte, by the valid granule that maps it. -/
def addrAt (s : State) (m off : Nat) : Option Nat :=
  match pageAt s m off with
  | some page => (List.range 16).findSome? (fun i =>
      let (m1, o) := locate s (page * 65536 + i * 4096)
      if m1 = m && o / 4096 = off / 4096 then some (page * 65536 + i * 4096 + off % 4096) else none)
  | none => none

/-! ## Retirement and migration (R192, R193) -/

/-- The fewest spare rows left in any pseudo-channel. -/
def rowsLeftMin (k : Stack) : Nat := (List.range 32).foldl (fun a p => min a (1024 - mapGet 0 k.sparesUsed p)) 1024

/-- The latest event of a stack (`CEL_ERRLINE`). -/
def errLine (m kind line : Nat) (s : State) : State :=
  fset F.CEL_ERRLINE.LINE m 0 line (fset F.CEL_ERRLINE.KIND m 0 kind s)

/-- A stack leaves service (R193). -/
def loseStack (m pc cause : Nat) (s : State) : State :=
  let ok := fget s F.GBL_UNITS.STACK_OK
  let s1 := fset F.GBL_UNITS.STACK_OK 0 0 (setBits ok m m 0) s
  let s2 := fset F.CEL_STAT.MIGRATING m 0 0 (modStack m (fun k => { k with migrating := none, retiring := [] }) s1)
  noteSparesOut 4 m 0 (noteRetired 4 m pc cause (sendEvent (16 + m) 0x01 4 (det [(m, 1)]) none s2))

/-- A pseudo-channel needs migration: to the spare, or, where the spare is in use, the stack is lost (R193). -/
def needMigration (m pc cause : Nat) (s : State) : State :=
  if (match (stackOf s m).migrating with | some g => g.1 == pc | none => false) then s
  else if fbit s F.CEL_STAT.SPARE_PC_USED m then loseStack m pc cause s
  else
    fset F.CEL_STAT.MIGRATING m 0 1 (fset F.CEL_STAT.SPARE_PC_USED m 0 1 (fset F.CEL_STAT.SPARE_PC_FOR m 0 pc
      (modStack m (fun k => { k with migrating := some (pc, cause) }) s)))

/-- A row meets a retirement condition (R192), or is retired for another cause (R388); with no spare row
left the kind has run out and its pseudo-channel needs migration (R193, R387). -/
def needRetire (m row cause : Nat) (s : State) : State :=
  let k := stackOf s m
  let pc := row / 2 ^ 21
  let due := (k.retiring.filter (fun r => r.1 / 2 ^ 21 == pc)).length
  if k.retiring.any (fun r => r.1 == row) then s
  else if 1024 ≤ mapGet 0 k.sparesUsed pc + due then
    if (match k.migrating with | some g => g.1 == pc | none => false) then s
    else needMigration m pc cause (noteSparesOut 3 m (stackLines / 16) s)
  else cycBreakAll 4 (modStack m (fun k => { k with retiring := k.retiring ++ [(row, cause)] }) s)

/-- Lines of a row corrected since the scrub last passed it. -/
def rowCorrected (k : Stack) (row : Nat) : Nat := (k.corrected.filter (fun l => lineRow l == row)).length

/-- A correctable error: counted, and the row judged (R189, R192). -/
def correctLine (m line errs : Nat) (s : State) : State :=
  let s1 := cycBreakAll 4 (errLine m 0 line (fbump F.CEL_CORR.COUNT m 0 s))
  let s2 := modStack m (fun k => { k with corrected := if k.corrected.contains line then k.corrected else k.corrected ++ [line] }) s1
  if errs = 3 || 4 ≤ rowCorrected (stackOf s2 m) (lineRow line) then needRetire m (lineRow line) 3 s2 else s2

/-- The poisoned line noted in the open steps of the context that owns it (R377). -/
def notePoisoned (m line : Nat) (s : State) : State :=
  match addrAt s m (64 * line) with
  | none => s
  | some a =>
    let g := a / 2 ^ 30
    if !fbit s F.MEM_GMAP.OWNED g then s else
    modCtx (fget s F.MEM_GMAP.CTX g) (fun x => { x with
      steps := x.steps.map (fun e => if e.begun then { e with poisonedLines := a / 64 :: e.poisonedLines } else e) }) s

/-- A held version that still shares the live page's lines meets the same poison, and shows the same bytes (R341). -/
def poisonShared (s0 : State) (m line : Nat) (bs : List Byte) (s : State) : State :=
  if s.held.isEmpty then s else
  match addrAt s0 m (64 * line) with
  | none => s
  | some a =>
    let now := pageNow s0 (a / 65536)
    { s with held := s.held.map (fun h =>
        if h.page == a / 65536 && (h.bytes, h.poison) == now then
          { h with
            bytes := (List.range 64).foldl (fun b i => mapSet 0 b (a % 65536 / 64 * 64 + i) (bs.getD i 0)) h.bytes
            poison := mapSet false h.poison (a % 65536 / 64) true }
        else h) }

/-- The bytes of a line with `errs` wrong ones in its codeword of 64 data bytes, metadata and check bytes; which they are
and what they hold is open (log entry 22). -/
def spoilLine (errs : Nat) (bs : List Byte) (s : State) : List Byte × State :=
  (List.range errs).foldl (fun (a : List Byte × State) _ =>
    let (w, s1) := drawFree a.2
    (a.1.modify (w.toNat % 73) (fun b => b ^^^ BitVec.ofNat 8 (w.toNat / 73)), s1)) (bs, s)

/-- An uncorrectable error: the stored bytes, wrong ones among them, are written back poisoned; the error is reported and
the row retired (R189, R190, R192). -/
def poisonLine (m line errs : Nat) (s0 : State) : State :=
  let (bs, s) := spoilLine errs (physBytes s0 m (64 * line) 64) s0
  let s1 := errLine m 1 line (fbump F.CEL_UNCORR.COUNT m 0 s)
  let s2 := poisonShared s1 m line bs (physPut m (64 * line) bs true s1)
  let s3 := sendEvent (16 + m) 0x01 1 (det [(m, 1), (line, 4)]) none s2
  needRetire m (lineRow line) 3 (notePoisoned m line s3)

/-- A read of a line that meets `errs` wrong bytes in its codeword (R189). Beyond five the spec does not say whether the code
detects them, takes them for one to three others, or sees nothing: open (log entry 22). A codeword has 73 bytes: more stand for a
pseudo-channel that fails its interface check (R193, log entry 81). -/
def lineRead (m line errs : Nat) (s : State) : State :=
  if !stackOk s m || stackLines ≤ line || errs = 0 then s
  else if errs ≤ 3 then correctLine m line errs s
  else if errs ≤ 5 then poisonLine m line errs s
  else if 73 < errs then needMigration m (linePc line) 3 s
  else
    let (w, s0) := drawFree s
    match w.toNat % 5 with
    | 0 => s0
    | 4 => poisonLine m line errs s0
    | n => correctLine m line n s0

/-- CELLAR_READ (R189, R192): a demand read of a line. -/
def execCellarRead (m : StackId) (line : BitVec 30) (errs : Nat) (s : State) : Out := .next (lineRead m.val line.toNat errs s)

/-- ROW_RETIREMENT_DONE (R192, R366, R388): the row's lines stand in a spare row, corrected or poisoned. -/
def execRowRetirementDone (m : StackId) (s : State) : Out :=
  let k := stackOf s m.val
  match k.retiring with
  | [] => .next s
  | (row, cause) :: rest =>
    let pc := row / 2 ^ 21
    let used := mapGet 0 k.sparesUsed pc + 1
    let k1 := { k with
      retiring := rest, retired := mapPut k.retired row true, sparesUsed := mapPut k.sparesUsed pc used
      corrected := k.corrected.filter (fun l => lineRow l != row) }
    let s1 := modStack m.val (fun _ => k1) s
    let s2 := fset F.CEL_SPARES.ROWS_LEFT_MIN m.val 0 (rowsLeftMin k1) (fbump F.CEL_SPARES.ROWS_RETIRED m.val 0 s1)
    let s3 := sendEvent (16 + m.val) 0x01 2 (det [(m.val, 1), (pc, 1), (row % 2 ^ 21, 3), (1024 - used, 2)]) none
      (errLine m.val 2 (rowLine row) s2)
    .next (noteSpareIn 3 m.val (used - 1) (row % 2 ^ 21) cause (noteRetired 3 m.val (row % 2 ^ 21) cause s3))

/-- PC_MIGRATION_DONE (R193, R366): the spare pseudo-channel serves in place of the one migrated. -/
def execPcMigrationDone (m : StackId) (s : State) : Out :=
  let k := stackOf s m.val
  match k.migrating with
  | none => .next s
  | some (pc, cause) =>
    let k1 := { k with
      migrating := none, sparesUsed := mapDel k.sparesUsed pc
      retired := k.retired.filter (fun (e : Nat × Bool) => e.1 / 2 ^ 21 != pc)
      retiring := k.retiring.filter (fun r => r.1 / 2 ^ 21 != pc)
      corrected := k.corrected.filter (fun l => linePc l != pc) }
    let s1 := fset F.CEL_SPARES.ROWS_LEFT_MIN m.val 0 (rowsLeftMin k1) (modStack m.val (fun _ => k1) s)
    let s2 := errLine m.val 3 (pc * 16) (fset F.CEL_STAT.MIGRATING m.val 0 0 s1)
    let s3 := sendEvent (16 + m.val) 0x01 3 (det [(m.val, 1), (pc, 1)]) none s2
    .next (noteSpareIn 4 m.val 32 pc cause (noteRetired 4 m.val pc cause s3))

/-! ## Writes (R190, R341 to R344) -/

/-- CELLAR_WRITE (R190, R341 to R344): bytes written into one line of a stack; a stack out of service discards them. -/
def execCellarWrite (m : StackId) (line : BitVec 30) (first : Fin 64) (data : List Byte) (poison : Bool) (s : State) : Out :=
  if data.isEmpty || stackLines ≤ line.toNat then .next s
  else .next (stackWrite m.val (64 * line.toNat + first.val) (data.take (64 - first.val)) poison s)

/-- The first waiting write that may go: no earlier one waits for the same line, and its page may be written. -/
def cowReady (s : State) (m : Nat) : List (Nat × List Byte × Bool × Option (Nat × DWord)) →
    List (Nat × List Byte × Bool × Option (Nat × DWord)) →
    Option ((Nat × List Byte × Bool × Option (Nat × DWord)) × List (Nat × List Byte × Bool × Option (Nat × DWord)))
  | _, [] => none
  | seen, w :: t =>
    if seen.any (fun e => e.1 / 64 == w.1 / 64) || (cowBlock s m w.1 w.2.1).isSome then cowReady s m (seen ++ [w]) t
    else some (w, seen ++ t)

/-- COW_WAIT_RESUME (R343, R344): a waiting write finds a page and proceeds. -/
def execCowWaitResume (m : StackId) (s : State) : Out :=
  match cowReady s m.val [] (stackOf s m.val).waitCow with
  | none => .next s
  | some (w, l) => .next (physPut m.val w.1 w.2.1 w.2.2.1 (modStack m.val (fun k => { k with waitCow := l }) s))

/-- SCRUB_LINE (R191, R192): the scrub reads a line and rewrites it where it corrects; at the last line of a row it has
passed the row. A period of 0 stops it. -/
def execScrubLine (m : StackId) (line : BitVec 30) (errs : Nat) (s : State) : Out :=
  if fget s F.CEL_SCRUB.HOURS m.val = 0 then .next s else
  let s1 := lineRead m.val line.toNat errs s
  if line.toNat % 16 = 15 then
    .next (modStack m.val (fun k => { k with corrected := k.corrected.filter (fun l => lineRow l != lineRow line.toNat) }) s1)
  else .next s1

/-! ## Zero fill (R186) -/

/-- The stack ranges of a granule entry: stack, first byte, length. -/
def granuleRanges (e : Word) : List (Nat × Nat × Nat) :=
  let base := bitsOf e.toNat 15 6 * 2 ^ 26
  let unit := bitsOf e.toNat 19 16
  match bitsOf e.toNat 30 29 with
  | 0 => [(unit, base, 2 ^ 30)]
  | 1 => (List.range 4).map (fun i => (pairStack unit i, base, 2 ^ 28))
  | _ => (List.range 16).map (fun m => (m, base, 2 ^ 26))

/-- Zeros with clear poison in every line of a granule's frames; writes that wait for them are gone. -/
def zeroFill (e : Word) (s : State) : State :=
  (granuleRanges e).foldl (fun a r =>
    let a1 := { a with
      mem := mapClear a.mem (memKey r.1 r.2.1) (memKey r.1 (r.2.1 + r.2.2))
      memPoison := mapClear a.memPoison (lineKey r.1 (r.2.1 / 64)) (lineKey r.1 ((r.2.1 + r.2.2) / 64)) }
    if (stackOf a1 r.1).waitCow.isEmpty then a1
    else modStack r.1 (fun k => { k with waitCow := k.waitCow.filter (fun w => !(r.2.1 ≤ w.1 && w.1 < r.2.1 + r.2.2)) }) a1) s

/-- GRANULE_ZERO_FILL_DONE (R186): the frames read zero, and the change of the entry that waited for it completes. -/
def execGranuleZeroFillDone (g : Fin 1024) (s : State) : Out :=
  match s.mgmt.zeroFills.find? (fun z => z.granule == g.val) with
  | none => .next s
  | some z =>
    let old := rget s .MEM_GMAP g.val
    let s1 := zeroFill (if bitAt z.entry.toNat 31 then z.entry else old) s
    let t := s1.mgmt.taken.find? (fun t => t.waits.contains g.val)
    let who := match t with | some t => srcOrigin t.src | none => .rule 0
    let ent := { logBase who 0 0 (regOff .MEM_GMAP g.val 0) (dw old.toNat) (dw z.entry.toNat) with
      ctx := match t with | some t => t.pk.ctx.toNat | none => 0xFFFF
      tag := match t with | some t => t.pk.tag.toNat | none => 0 }
    let s2 := logRule ent (rset .MEM_GMAP g.val 0 z.entry s1)
    .next (modMgmt (fun m => { m with
      zeroFills := m.zeroFills.filter (fun z => z.granule != g.val)
      taken := m.taken.map (fun t => { t with waits := t.waits.filter (· != g.val) }) }) s2)

end Sys2Proof.Machine
end

