-- ==== Sys2Proof/Machine/Cores.lean ====
section
/-! DEFINITION. Cores outside the slots: issue of a fetched bundle, token windows, releases, the slow path and whole-block
repeats (R80 to R89, R128 to R130, R178). -/

namespace Sys2Proof.Machine

/-- BUNDLE_ISSUE (R67, R68, R84 to R88): the bundle at the program counter. -/
def execBundleIssue (c : CoreId) (s : State) : Out := .next (issueFetched c.val s)

/-- Whether a core of die `d` is token-frozen. -/
def tokenHeld (d : Nat) (e : Nat × Core) : Bool := dieOf e.1 == d && e.2.tokenFrozen

/-- A token-frozen core of a die served again. -/
def tokenFree (c : Nat) (s : State) : State :=
  let s1 := modCore c (fun k => { k with tokenFrozen := false }) s
  if cstat s1 F.CORE_STAT.FRZ c = 3 then setCstat F.CORE_STAT.FRZ c 0 s1 else s1

/-- TOKEN_WINDOW_START (R87, R88): the window that ends is counted if a pool of the die token-froze a core in it, wherever
that core is now; every pool of the die is refilled and its cores are served again. -/
def execTokenWindowStart (d : Die) (s : State) : Out :=
  let held := (s.cores.filter (tokenHeld d.val)).map (fun (e : Nat × Core) => e.1)
  let s1 := if held.isEmpty && !mapGet false s.tokHeld d.val then s else fbump F.TOK_WINDOWS.WINDOWS d.val 0 s
  let s2 := { s1 with tokHeld := mapDel s.tokHeld d.val, ctxs := s1.ctxs.map (fun (e : Nat × Ctx) => (e.1, { e.2 with tokens := mapDel e.2.tokens d.val })) }
  .next (held.foldl (fun a c => tokenFree c a) s2)

/-- ARRIVAL_RELEASE (R80, R84): a core frozen at an arrival point whose items are all complete issues its bundle; a core that
still waits, or that another cause freezes, is left as it is. -/
def execArrivalRelease (c : CoreId) (s : State) : Out :=
  let k := coreOf s c.val
  match k.run, fetch s k with
  | some r, some b =>
    if cstat s F.CORE_STAT.FRZ c.val = 1 && arrivalOk s c.val k r b then .next (issueFetched c.val s) else .next s
  | _, _ => .next s

/-- SLOW_PATH_DUE (R82, R129): the core freezes at the due cycle of a result with slow lanes. -/
def execSlowPathDue (c : CoreId) (s : State) : Out :=
  let k := coreOf s c.val
  if slowNow k then .next (slowBegin c.val s) else .next s

/-- SLOW_PATH_DONE (R82, R89, R129, R130): every slow lane due is written; the frozen cycles and the lanes are counted, and
the freeze ends. The values are those the fast path would have given. -/
def execSlowPathDone (c : CoreId) (s : State) : Out :=
  let k := coreOf s c.val
  match k.slowDue with
  | none => .next s
  | some n =>
    let due := k.pend.filter (fun p => p.due ≤ k.cyc)
    let lanes := due.foldl (fun a p => a + p.slowLanes.length) 0
    let s1 := modCore c.val (fun q => { q with
      slowDue := none
      pend := q.pend.map (fun p => if p.due ≤ q.cyc then { p with slowLanes := [], slowCost := 0 } else p) }) s
    let s2 := modRun c.val (fun r => { r with frozen := r.frozen + n }) s1
    let s3 := fbumpBy F.CORE_FRZ_SLOW.CYCLES (dieOf c.val) (c.val % 272) n s2
    .next (setCstat F.CORE_STAT.FRZ c.val 0 (fbumpBy F.VEC_SLOW.LANES (dieOf c.val) 0 lanes s3))

/-- The anchor with which a tile starts again: that of its raise entry; the fourth trip starts the measuring pass (R105,
R107). -/
def repeatTile (k : Core) (ct : Nat) (t : Tile) : Tile :=
  match raiseOf k ct t with
  | some e => { t with anchor := some e.anchor, measuring := e.count == 4, maxExp := none, poison := false }
  | none => { t with poison := false, maxExp := none }

/-- The slow lanes of results in flight complete, one freeze for each cycle at which some are due (R82, R129, R130). -/
def settleSlow (c : Nat) (s : State) : State :=
  let slow := (coreOf s c).pend.filter (fun p => !p.slowLanes.isEmpty)
  let dues := (slow.map (·.due)).eraseDups
  let n := dues.foldl (fun a d => a + 6 + (slow.filter (fun p => p.due == d)).foldl (fun b p => b + p.slowCost) 0) 0
  fbumpBy F.VEC_SLOW.LANES (dieOf c) 0 (slow.foldl (fun a p => a + p.slowLanes.length) 0)
    (fbumpBy F.CORE_FRZ_SLOW.CYCLES (dieOf c) (c % 272) n s)

/-- The core back at its repeat point (R83 steps 3 to 5): the accumulators and the crate tiles of the region discarded, X1
to X31 and the loop stack restored, a pending branch dropped (DESIGN CHOICE, log entry 66), the contributions since the
repeat point discarded. -/
def repeatCore (r : Run) (k : Core) : Core :=
  let cts := (r.regionTiles ++ k.raises.map (fun (e : Nat × Raise) => e.1)).eraseDups
  let crate := cts.foldl (fun (a : SMap (BitVec 96)) t => mapClear a (1024 * t) (1024 * t + 1024)) k.crate
  let tiles := k.tiles.map (fun (e : Nat × Tile) => (e.1, if cts.contains e.1 then repeatTile k e.1 e.2 else e.2))
  { accClear k with
    crate := crate, tiles := tiles, x := r.repeatX, loops := r.repeatLoops, pc := r.repeatPc, branch := none
    repeatDue := false, macFree := k.cyc, outFree := k.cyc, macRanges := []
    run := k.run.map (fun r => { r with regionTens := [], regionTally := 0, regionTiles := [], unsafeRegion := false }) }

/-- The audit core of a task repeats with it (R382). -/
def repeatAudit (c : Nat) (s : State) : State :=
  match auditOf s c with
  | none => s
  | some a =>
    match (coreOf s a).run with
    | none => s
    | some r =>
      let consts := constLines s r.task.slot
      let lanes := (coreOf s a).pend.foldl (fun n p => n + p.slowLanes.length) 0
      fbumpBy F.VEC_SLOW.LANES (dieOf a) 0 lanes (modCore a (fun q => repeatCore r (landAll consts q.pend.length q)) s)

/-- WHOLE_BLOCK_REPEAT (R83, R84, R105, R178): in an unsafe region the task fails instead; a slow-path result is written
first; the results in flight complete, and once every arrival slot is complete the core resumes at its repeat point. -/
def execWholeBlockRepeat (c : CoreId) (s : State) : Out :=
  let k := coreOf s c.val
  match k.run with
  | none => .next s
  | some r =>
    if !k.repeatDue || ctxState s r.task.slot != 1 || k.slowDue.isSome || slowNow k then .next s
    else if r.unsafeRegion then
      .next (taskFail c.val 5 0 (modCore c.val (fun q => { q with repeatDue := false }) s))
    else
      let s1 := modCore c.val (fun q => landAll (constLines s r.task.slot) q.pend.length q) (settleSlow c.val s)
      if (List.range 32).any (fun i => arrCount (coreOf s1 c.val) i != 0) then .next s1
      else
        let s2 := repeatAudit c.val (modCore c.val (repeatCore r) s1)
        .next (setCstat F.CORE_STAT.FRZ c.val 0 (fbump F.CORE_REPEATS.REPEATS (dieOf c.val) (c.val % 272) s2))

end Sys2Proof.Machine
end

