-- ==== Sys2Proof/Machine/LogCmd.lean ====
section
/-! DEFINITION. The inventory log of commands: the whole-command entry and one entry for each register a command changes
(R430, R431, R433). -/

namespace Sys2Proof.Machine

/-- Registers of the function pages (R437). -/
def pageRegs : List Reg :=
  [.MB_IN, .MB_CTRL, .MB_STAT, .MB_OUT, .MB_OSTAT, .FN_STAT, .RING_SQ_LO, .RING_SQ_HI, .RING_CQ_LO, .RING_CQ_HI, .RING_CFG,
   .RING_SQ_DB, .RING_CQ_DB, .RING_STAT]

/-- Registers whose changes are no changes that a command makes: message and ring traffic, the log's own pointers and counts,
and the event ring (R430); the port weights, whose rewrites are entered where they are made (R393). -/
def quietRegs : List Reg :=
  [.LOG_STAT, .LOG_HEAD, .LOG_TAIL, .LOG_SEQ, .LOG_REFUSED, .LOG_LOST, .EVT_RING, .EVT_LOST, .LNK_WRR0, .LNK_WRR1] ++ pageRegs

/-- The RC bits of a register (R430: RC counters are not entered). -/
def rcMask (r : Reg) : Nat :=
  (fieldsOf r).foldl (fun a f => if f.acc = .rc then a + (2 ^ (f.hi + 1 - f.lo) - 1) * 2 ^ f.lo else a) 0

/-- The registers that differ between two states, by ascending offset, with the old and the new value. -/
def changedRegs (a b : State) : List (Reg × Nat × Word × Word) :=
  let ka := (a.regs.filter (fun (e : Nat × Word) => mapFind b.regs e.1 != some e.2)).map (fun (e : Nat × Word) => e.1)
  let kb := (b.regs.filter (fun (e : Nat × Word) => (mapFind a.regs e.1).isNone)).map (fun (e : Nat × Word) => e.1)
  (sortKey id (ka ++ kb)).filterMap (fun off =>
    match regAt off with
    | none => none
    | some (r, i, j) =>
      let old := rget a r i j
      let new := rget b r i j
      let m := wd (rcMask r)
      if quietRegs.contains r || (old ||| m) = (new ||| m) then none else some (r, off, old, new))

/-- A log entry made that of a command. -/
def asCmd (src : CmdSrc) (pk : Packet) (e : LogEntry) : LogEntry :=
  let o := originCode (srcOrigin src)
  { e with origin := o.1, num := o.2, ctx := pk.ctx.toNat, tag := pk.tag.toNat }

/-- A log entry of a command: kind 2 for a lock or an unlock, else kind 0. -/
def cmdEntry (src : CmdSrc) (pk : Packet) (r : Reg) (off : Nat) (old new : Word) : LogEntry :=
  let kind := if r = .LOCK_STAT || r = .LOCK_PORT_LO || r = .LOCK_PORT_HI then 2 else 0
  asCmd src pk (logBase (srcOrigin src) kind 0 off (dw old.toNat) (dw new.toNat))

/-- What a command changed between two states entered in the later one. -/
def logChanges (src : CmdSrc) (pk : Packet) (a b : State) : State :=
  (changedRegs a b).foldl (fun z (e : Reg × Nat × Word × Word) => logRule (cmdEntry src pk e.1 e.2.1 e.2.2.1 e.2.2.2) z) b

/-- A change that belongs to a command taken earlier, entered as that command's. -/
def loggedAs (src : CmdSrc) (tag : BitVec 16) (f : State → State) (s : State) : State :=
  match findTaken s src tag with
  | some t => logChanges src t.pk s (f s)
  | none => f s

/-- The whole-command entry: kind 1, Y0 of the reply as new value, the digest of the packet and its extension. -/
def wholeEntry (src : CmdSrc) (pk : Packet) (ext : List Byte) (status : Nat) (y0 : Word) : LogEntry :=
  { logBase (srcOrigin src) 1 status 0xFFFFFFFF 0 (dw y0.toNat) with
    opcode := pk.opcode.toNat, ctx := pk.ctx.toNat, tag := pk.tag.toNat, digest := digest (packetBytes pk ++ ext) }

end Sys2Proof.Machine
end

