-- ==== Sys2Proof/Machine/Solver.lean ====
section
/-! DEFINITION. The preconditioner solver: descriptors, the front stage, the factorisations, small pivots, and the order of
a die's work (R233 to R247, R368). -/

namespace Sys2Proof.Machine

/-! ## Descriptors (R234) -/

/-- The fields of a solver descriptor. -/
structure Solv where
  op : Nat
  flags : Nat
  rootP : Nat
  iters : Nat
  n : Nat
  batch : Nat
  m : Nat
  rhs : Nat
  stale : Nat
  slots : Nat
  step : Nat
  xAddr : Nat
  xFmt : Nat
  maxReuse : Nat
  statAddr : Nat
  outAddr : Nat
  bAddr : Nat
  curAddr : Nat
  matId : Nat
  trig : Nat
  trigN : Nat
  h : List Word
  deriving DecidableEq, Repr

/-- A solver descriptor read from its bytes. -/
def solvOf (b : List Byte) : Solv :=
  { op := byteAt b 0, flags := byteAt b 1, rootP := byteAt b 2, iters := byteAt b 3, n := getLE b 4 2
    batch := getLE b 6 2, m := getLE b 8 4, rhs := getLE b 12 2, stale := byteAt b 14, slots := byteAt b 15
    step := getLE b 16 8, xAddr := getLE b 24 5, xFmt := byteAt b 29, maxReuse := getLE b 30 2, statAddr := getLE b 32 5
    outAddr := getLE b 37 5, bAddr := getLE b 42 5, curAddr := getLE b 47 5, matId := getLE b 52 4, trig := getLE b 56 2
    trigN := getLE b 58 2, h := (List.range 16).map (fun i => wd (getLE b (64 + 4 * i) 4)) }

/-- FLAGS bit 0, `REUSE_OK`. -/
def Solv.reuseOk (d : Solv) : Bool := bitAt d.flags 0
/-- FLAGS bit 1, `SIDE`. -/
def Solv.side (d : Solv) : Bool := bitAt d.flags 1
/-- FLAGS bit 2, `FRONT`. -/
def Solv.front (d : Solv) : Bool := bitAt d.flags 2
/-- Bytes of a measurement element. -/
def Solv.xBytes (d : Solv) : Nat := if d.xFmt = 0 then 4 else 2
/-- Columns of an output slot. -/
def Solv.outCols (d : Solv) : Nat := if d.op = 2 then d.rhs else d.n
/-- Bytes of one matrix in an output slot. -/
def Solv.slotBytes (d : Solv) : Nat := 4 * d.n * d.outCols
/-- Where the measurement of matrix `b` lies: address and bytes. -/
def Solv.xRange (d : Solv) (b : Nat) : Nat × Nat := (d.xAddr + b * d.n * d.m * d.xBytes, d.n * d.m * d.xBytes)
/-- Where matrix `b` of bank `j` lies. -/
def Solv.bankRange (d : Solv) (j b : Nat) : Nat × Nat := (d.statAddr + (j * d.batch + b) * (4 * d.n * d.n), 4 * d.n * d.n)
/-- Where matrix `b` of output slot `k` lies. -/
def Solv.outRange (d : Solv) (k b : Nat) : Nat × Nat := (d.outAddr + (k * d.batch + b) * d.slotBytes, d.slotBytes)
/-- Where the right-hand sides of matrix `b` lie. -/
def Solv.bRange (d : Solv) (b : Nat) : Nat × Nat := (d.bAddr + b * (4 * d.n * d.rhs), 4 * d.n * d.rhs)

/-- The bank that the front stage of step `t` writes: start and end (R236). -/
def Solv.bankSpan (d : Solv) (t : DWord) : Nat × Nat :=
  let r := d.bankRange (t.toNat % 2) 0
  (r.1, r.1 + d.batch * r.2)

/-! ## Matrices of FP32 words -/

/-- A matrix of words, row by row. -/
abbrev WMat := List (List Word)

/-- Entry (i, j). -/
def wAt (a : WMat) (i j : Nat) : Word := (a.getD i []).getD j 0

/-- A matrix read from bytes, row-major. -/
def wOfBytes (rows cols : Nat) (b : List Byte) : WMat :=
  (List.range rows).map (fun i => (List.range cols).map (fun j => wd (getLE b (4 * (i * cols + j)) 4)))

/-- The bytes of a matrix, row-major. -/
def wBytes (a : WMat) : List Byte := (a.map (fun r => (r.map (fun (w : Word) => leBytes 4 w.toNat)).flatten)).flatten

/-- The sign of a word inverted. -/
def fNeg (w : Word) : Word := w ^^^ 0x80000000#32

/-- A chain of s = ffma(−x, y, s) over pairs. -/
def negChain (s : Word) (xs ys : List Word) : Word := (xs.zip ys).foldl (fun (a : Word) (p : Word × Word) => fFma (fNeg p.1) p.2 a) s

/-- A small whole number as FP32. -/
def f32Nat (n : Nat) : Word := round32 (if n = 0 then .zero false else .fin false n 0)

/-! ## The front stage (R237) -/

/-- A measurement element's value (R48). -/
def xValue (d : Solv) (b : List Byte) (i : Nat) : Num :=
  decodeElem (if d.xFmt = 0 then .fp32 else .s16) (getLE b (i * d.xBytes) d.xBytes)

/-- The value at row `i` of the n × m view, column `k`, by `SIDE`. -/
def xAt (d : Solv) (xs : List Num) (i k : Nat) : Num := xs.getD (if d.side then k * d.n + i else i * d.m + k) (.zero false)

/-- The largest exponent of finite nonzero values. -/
def topExp (xs : List Num) : Option Int :=
  xs.foldl (fun a v => match v with
    | .fin _ m e => (match a with
      | some x => some (max x (expOf m e))
      | none => some (expOf m e))
    | _ => a) none

/-- One product sum of S = X·Xᵀ, as FP32. -/
def statEntry (d : Solv) (a : Int) (xs : List Num) (i j : Nat) : Word :=
  let r := (List.range d.m).foldl (fun (p : Nat × Int) k =>
    let v := numMul (xAt d xs i k) (xAt d xs j k)
    if v.special then (mergeSt p.1 (numSt v), p.2) else (p.1, p.2 + alignNum a v)) (0, 0)
  match r.1 with
  | 0 => round32 (ofSigned r.2 a)
  | 1 => 0x7F800000
  | 2 => 0xFF800000
  | _ => 0x7FC00000

/-- The new statistic matrix from the measurement and the old one. -/
def frontMatrix (d : Solv) (x old : List Byte) : WMat :=
  let xs := (List.range (d.n * d.m)).map (xValue d x)
  let a := 2 * ((topExp xs).getD 0) - 62
  let o := wOfBytes d.n d.n old
  let up := (List.range d.n).map (fun i => (List.range d.n).map (fun j =>
    if j < i then (0 : Word) else fFma (wAt o i j) (d.h.getD 0 0) (fMul (statEntry d a xs i j) (d.h.getD 1 0))))
  (List.range d.n).map (fun i => (List.range d.n).map (fun j => if j < i then wAt up j i else wAt up i j))

/-! ## Factorisations (R238 to R241) -/

/-- A factorisation on its way: the rows of L so far, D, the clamped pivots met, and the column and value of the small pivot
that stops the attempt. -/
structure Fact where
  rows : WMat
  d : List Word
  clamped : List (Nat × Word)
  stop : Option (Nat × Word)
  deriving DecidableEq, Repr

/-- One column `j` of Cholesky or LDLᵀ (`ldl`); with `clamp` a small pivot is replaced by tmin (R240). -/
def factColumn (ldl clamp : Bool) (a : WMat) (tmin : Word) (f : Fact) (j : Nat) : Fact :=
  if f.stop.isSome then f else
  let lj := f.rows.getD j []
  let w := if ldl then (lj.zip f.d).map (fun (p : Word × Word) => fMul p.1 p.2) else lj
  let s0 := negChain (wAt a j j) lj w
  let small := fCmp 2 s0 tmin
  if small && !clamp then { f with stop := some (j, s0) } else
  let s := if small then tmin else s0
  let piv := if ldl then s else fSqrt s
  let rows := f.rows.zipIdx.map (fun (r : List Word × Nat) =>
    if r.2 < j then r.1 ++ [0]
    else if r.2 = j then r.1 ++ [piv]
    else r.1 ++ [fDiv (negChain (wAt a r.2 j) r.1 w) piv])
  { rows := rows, d := f.d ++ [s], clamped := if small then f.clamped ++ [(j, s0)] else f.clamped, stop := none }

/-- One attempt over every column. -/
def factTry (ldl clamp : Bool) (n : Nat) (a : WMat) (tmin : Word) : Fact :=
  (List.range n).foldl (factColumn ldl clamp a tmin)
    { rows := List.replicate n [], d := [], clamped := [], stop := none }

/-- A pivot event: kind, attempt, column, the pivot's bits. -/
structure PivotEvt where
  kind : Nat
  attempt : Nat
  col : Nat
  bits : Word
  deriving DecidableEq, Repr

/-- Attempts from `k` on; `fuel` bounds them (R240). -/
def factRun (ldl : Bool) (n : Nat) (a : WMat) (tmin h3 mean : Word) : Nat → Nat → Word → WMat × List PivotEvt
  | 0, _, _ => ([], [])
  | fuel + 1, k, delta =>
    let ak := if k = 0 then a else (List.range n).map (fun i => (List.range n).map (fun j =>
      if i = j then fAdd (wAt a i i) delta else wAt a i j))
    let f := factTry ldl (k == 8) n ak tmin
    match f.stop with
    | none => (f.rows, f.clamped.map (fun c => { kind := 1, attempt := k, col := c.1, bits := c.2 }))
    | some (j, p) =>
      let d1 := fMul (fMul h3 mean) (f32Nat (2 ^ k))
      let r := factRun ldl n a tmin h3 mean fuel (k + 1) d1
      (r.1, { kind := 0, attempt := k, col := j, bits := p } :: r.2)

/-- The solution of L·Lᵀ·x = b for one column (R238). -/
def solveCol (n : Nat) (l : WMat) (b : List Word) : List Word :=
  let y := (List.range n).foldl (fun (y : List Word) i => y ++ [fDiv (negChain (b.getD i 0) ((l.getD i []).take i) y) (wAt l i i)]) []
  (List.range n).foldr (fun i (x : List Word) =>
    let lk := (List.range (n - 1 - i)).map (fun q => wAt l (i + 1 + q) i)
    fDiv (negChain (y.getD i 0) lk x) (wAt l i i) :: x) []

/-- mm (R239): every entry a chain from +0. -/
def mmMat (n : Nat) (a b : WMat) : WMat :=
  (List.range n).map (fun i => (List.range n).map (fun j =>
    (List.range n).foldl (fun s k => fFma (wAt a i k) (wAt b k j) s) 0))

/-- One iteration of the coupled Newton iteration (R239). -/
def rootStep (n p : Nat) (inv : Word) (xm : WMat × WMat) : WMat × WMat :=
  let (x, m) := xm
  let c := f32Nat (p + 1)
  let t := (List.range n).map (fun i => (List.range n).map (fun j => fMul (fSub (if i = j then c else 0) (wAt m i j)) inv))
  let x1 := mmMat n x t
  if p = 1 then (x1, mmMat n t m)
  else
    let t2 := mmMat n t t
    if p = 2 then (x1, mmMat n t2 m) else (x1, mmMat n (mmMat n t2 t2) m)

/-- A^(−1/p) (R239). -/
def invRoot (n p iters : Nat) (trace : Word) (a : WMat) : WMat :=
  let top := match decode32 trace with
    | .fin _ m e => expOf m e
    | _ => 0
  let u := top + 1
  let e := (p : Int) * -((-u) / (p : Int))
  let inv := round32 (numDiv (.fin false 1 0) (.fin false p 0))
  let sc := fun (k : Int) (q : WMat) => q.map (fun r => r.map (fun (w : Word) => round32 ((decode32 w).scale k)))
  let ident := (List.range n).map (fun i => (List.range n).map (fun j => if i = j then f32Nat 1 else (0 : Word)))
  let r := (List.range iters).foldl (fun xm _ => rootStep n p inv xm) (ident, sc (-e) a)
  sc (-(e / (p : Int))) r.1

/-- The output of a matrix and the events it makes (R238 to R242). -/
def factMatrix (d : Solv) (bank rhs : List Byte) : WMat × List PivotEvt :=
  let a := wOfBytes d.n d.n bank
  let trace := (List.range d.n).foldl (fun s i => fAdd s (wAt a i i)) 0
  let mean := fDiv trace (f32Nat d.n)
  let tmin := fMul (d.h.getD 2 0) mean
  let fin := fun (w : Word) => !(decode32 w).special
  if !fin trace || !fin tmin || !fCmp 2 0 tmin then
    (List.replicate d.n (List.replicate d.outCols 0x7FC00000#32),
      [{ kind := 2, attempt := 0, col := 0xFFFF, bits := 0x7FC00000 }])
  else if d.op = 3 then (invRoot d.n d.rootP d.iters trace a, [])
  else
    let r := factRun (d.op == 1) d.n a tmin (d.h.getD 3 0) mean 9 0 0
    if d.op = 2 then
      let b := wOfBytes d.n d.rhs rhs
      let cols := (List.range d.rhs).map (fun c => solveCol d.n r.1 ((List.range d.n).map (fun i => wAt b i c)))
      ((List.range d.n).map (fun i => (List.range d.rhs).map (fun c => (cols.getD c []).getD i 0)), r.2)
    else (r.1, r.2)

/-! ## Work (R236, R238, R245) -/

/-- The begun steps of a context whose front stages may run: its context runs and it is not being replayed. -/
def frontSteps (s : State) (slot : Nat) : List DWord :=
  if ctxState s slot != 1 then [] else
  match ctxOf s slot with
  | some x => (x.steps.filter (fun e => e.begun && !e.replaying)).map (·.num)
  | none => []

/-- Front-stage work that is due on a die: descriptor number and step (R236). -/
def frontDue (s : State) (d : Nat) : List (Nat × DWord) :=
  let so := solverOf s d
  (so.descs.map (fun (e : Nat × SolvDesc) =>
    let v := solvOf e.2.bytes
    if !v.front || e.2.removing then [] else
    ((frontSteps s e.2.slot).filter (fun t =>
      v.step ≤ t.toNat && !so.doneFront.contains (e.1, t) &&
        (t.toNat = v.step || so.doneFront.contains (e.1, t - 1) || !((frontSteps s e.2.slot).contains (t - 1))) &&
        (match ctxOf s e.2.slot with | some x => decide (v.trigN ≤ joinOf x t v.trig) | none => false))).map
      (fun t => (e.1, t)))).flatten

/-- Whether front-stage work must wait for the factorisation that reads its bank (R238). -/
def frontBlocked (s : State) (d : Nat) (w : Nat × DWord) : Bool :=
  match mapFind (solverOf s d).descs w.1 with
  | some e => e.base.toNat + 2 ≤ w.2.toNat && e.next.toNat + 2 ≤ w.2.toNat
  | none => false

/-- Factorisation work that is due on a die: committed statistics steps whose solution is not complete. -/
def factDue (s : State) (d : Nat) : List (Nat × DWord) :=
  (solverOf s d).descs.filterMap (fun (e : Nat × SolvDesc) =>
    match ctxOf s e.2.slot with
    | some x => match x.committed with
      | some c =>
        if e.2.next.toNat ≤ c.toNat && ctxState s e.2.slot == 1 &&
            (!e.2.removing || !(solvOf e.2.bytes).front || (solverOf s d).doneFront.contains (e.1, e.2.next)) then
          some (e.1, e.2.next) else none
      | none => none
    | none => none)

/-- The first work of a list: ascending statistics step, then registration order (R245). -/
def firstWork (o : Solver) (l : List (Nat × DWord)) : Option (Nat × DWord) :=
  let place := fun (n : Nat) => match mapFind o.descs n with | some e => e.order | none => 0
  minBy? (fun w => w.2.toNat) (l.filter (fun w => l.all (fun u => w.2 != u.2 || decide (place w.1 ≤ place u.1))))

/-- Whether a die is held in reset, so that its solver stands still (R246). -/
def dieHeld (s : State) (d : Nat) : Bool := fget s F.DIE_PWR.STATE d == 3

/-- FRONT_STAGE_START (R236, R238, R245): the next front stage starts; one that must wait for a bank is counted once. -/
def execFrontStageStart (d : Die) (s : State) : Out :=
  let so := solverOf s d.val
  if dieHeld s d.val then .next s else
  let due := frontDue s d.val
  let held := due.filter (fun w => frontBlocked s d.val w && !so.waited.contains w)
  let s1 := held.foldl (fun a w => fbump F.SOLV_WAIT.COUNT d.val 0
    (modSolver d.val (fun o => { o with waited := o.waited ++ [w] }) a)) s
  if so.running.isSome then .next s1 else
  match firstWork so (due.filter (fun w => !frontBlocked s d.val w)) with
  | none => .next s1
  | some w => .next (modSolver d.val (fun o =>
      { o with running := some { num := w.1, step := w.2, stage := 0, matrix := 0, wrote := false } }) s1)

/-- FACTORISATION_START (R238, R245): the next factorisation starts, unless front-stage work can run. -/
def execFactorisationStart (d : Die) (s : State) : Out :=
  let so := solverOf s d.val
  if dieHeld s d.val || so.running.isSome || (frontDue s d.val).any (fun w => !frontBlocked s d.val w) then .next s else
  match firstWork so (factDue s d.val) with
  | none => .next s
  | some w => .next (modSolver d.val (fun o =>
      { o with running := some { num := w.1, step := w.2, stage := 1, matrix := 0, wrote := false } }) s)

/-- One pivot or non-finite event: the record, the count, and its fault slot for the step record (R242, R368). -/
def pivotEvent (d slot : Nat) (v : Solv) (b : Nat) (t : DWord) (p : PivotEvt) (s : State) : State :=
  let body := det [((v.matId + b) % 2 ^ 32, 4), (t.toNat, 8), (p.col, 2), (p.attempt, 1), (p.kind, 1)]
  let e : EventRec :=
    { stamp := stampAt s d, origin := d, cls := 9, code := p.kind + 1, seq := mapGet 0 s.seqs d, detail := padTo 16 body }
  let s1 := fbump F.SOLV_PIVOT.COUNT d 0 (sendEvent d 9 (p.kind + 1) body (some slot) s)
  modCtx slot (fun x => { x with
    faultSlots := x.faultSlots ++ [padTo 64 (eventBytes e ++ leBytes 4 p.bits.toNat)] }) s1

/-- The work moves to the next matrix; true where that was the last one. -/
def nextMatrix (d : Nat) (w : SolvWork) (v : Solv) (s : State) : State × Bool :=
  let last := v.batch ≤ w.matrix + 1
  (modSolver d (fun o => { o with running := if last then none else some { w with matrix := w.matrix + 1, wrote := false } }) s, last)

/-- The writes of the running matrix wait for pages (R343). -/
def matrixWaits (d : Nat) (w : SolvWork) (s : State) : State :=
  modSolver d (fun o => { o with running := some { w with wrote := true } }) s

/-- The first address of a matrix's accesses that R187 refuses, with its cause: measurement and right-hand sides lie in
compute-plane granules, banks and slots in any of the context (R233, R235). -/
def solvRefused (s : State) (slot : Nat) (compute any : List (Nat × Nat)) : Option (Nat × Nat) :=
  match compute.findSome? (fun r => accessCause s slot .hostCmd r.1 r.2) with
  | some f => some f
  | none => any.findSome? (fun r => accessCause s slot .update r.1 r.2)

/-- One matrix of a front stage (R236, R237, R369): the bank is written through copy-on-write. -/
def frontMove (d : Nat) (w : SolvWork) (e : SolvDesc) (s : State) : State :=
  let v := solvOf e.bytes
  let xr := v.xRange w.matrix
  let ro := v.bankRange ((w.step.toNat + 1) % 2) w.matrix
  let rn := v.bankRange (w.step.toNat % 2) w.matrix
  let out := wBytes (frontMatrix v (devBytes s xr.1 xr.2) (devBytes s ro.1 ro.2))
  let hit := (linePieces xr.1 xr.2 ++ linePieces ro.1 ro.2).find? (fun p => devPoison s p.1 p.2)
  let s1 := match hit with
    | some p => consume d e.slot 4 (p.1 / 64 * 64) false w.step s
    | none => s
  stepWrite e.slot w.step rn.1 out hit.isSome s1

/-- The end of one matrix of a front stage, whose writes are made here unless they only waited for pages (R343). A refused
access is recorded and moves no byte (DESIGN CHOICE, log entry 83). -/
def frontDone (d : Nat) (w : SolvWork) (e : SolvDesc) (s : State) : State :=
  let v := solvOf e.bytes
  let rn := v.bankRange (w.step.toNat % 2) w.matrix
  let any := [v.bankRange ((w.step.toNat + 1) % 2) w.matrix, rn]
  let s1 := if w.wrote then s else match solvRefused s e.slot [v.xRange w.matrix] any with
    | some (a, cause) => recordAfault a e.slot 3 cause s
    | none => frontMove d w e s
  if devWaits s1 rn.1 rn.2 then matrixWaits d w s1 else
  let (s2, last) := nextMatrix d w v s1
  if last then modSolver d (fun o => { o with doneFront := o.doneFront ++ [(w.num, w.step)] }) s2 else s2

/-- Whether an uncommitted step holds a solution in the slot of statistics step `t` as current (R243). -/
def slotHeld (v : Solv) (e : SolvDesc) (t : DWord) : Bool :=
  e.curs.any (fun c => c.2.1 != t && c.2.1.toNat % v.slots == t.toNat % v.slots)

/-- One matrix of a factorisation (R238 to R243, R246). Poison in the bank or the right-hand sides is consumed (R369); the
step being committed, that is a record and nothing else, and the outputs are written poisoned. -/
def factMove (d : Nat) (w : SolvWork) (e : SolvDesc) (s : State) : State :=
  let v := solvOf e.bytes
  let ra := v.bankRange (w.step.toNat % 2) w.matrix
  let rb := if v.op = 2 then v.bRange w.matrix else (0, 0)
  let ro := v.outRange (w.step.toNat % v.slots) w.matrix
  let r := factMatrix v (devBytes s ra.1 ra.2) (devBytes s rb.1 rb.2)
  let hit := (linePieces ra.1 ra.2 ++ linePieces rb.1 rb.2).find? (fun p => devPoison s p.1 p.2)
  let bad := hit.isSome
  let s := match hit with
    | some p => consume d e.slot 4 (p.1 / 64 * 64) false w.step s
    | none => s
  r.2.foldl (fun a p => pivotEvent d e.slot v w.matrix w.step p a) (devWrite ro.1 (wBytes r.1) bad s)

/-- The end of one matrix of a factorisation; a descriptor that is to be removed goes with its last work (R246). A refused
access is recorded and moves no byte (DESIGN CHOICE, log entry 83). -/
def factDone (d : Nat) (w : SolvWork) (e : SolvDesc) (s : State) : State :=
  let v := solvOf e.bytes
  let rb := if v.op = 2 then [v.bRange w.matrix] else []
  let ro := v.outRange (w.step.toNat % v.slots) w.matrix
  let s1 := if w.wrote then s else match solvRefused s e.slot rb [v.bankRange (w.step.toNat % 2) w.matrix, ro] with
    | some (a, cause) => recordAfault a e.slot 3 cause s
    | none => factMove d w e s
  if devWaits s1 ro.1 ro.2 then matrixWaits d w s1 else
  let (s2, last) := nextMatrix d w v s1
  if !last then s2 else
  let left := (solverOf s2 d).doneFront.filter (fun f => !(f.1 == w.num && f.2.toNat ≤ w.step.toNat))
  modSolver d (fun o => { o with
    doneFront := left
    waited := o.waited.filter (fun f => !(f.1 == w.num && f.2.toNat ≤ w.step.toNat))
    descs := if e.removing && !left.any (fun f => f.1 == w.num) then mapDel o.descs w.num
      else mapPut o.descs w.num { e with next := w.step + 1 } }) s2

/-- SOLVER_MATRIX_DONE (R237 to R246): the running matrix is written; a solution whose slot is held as current waits, as does the
work of a die that is held in reset. -/
def execSolverMatrixDone (d : Die) (s : State) : Out :=
  let so := solverOf s d.val
  match so.running with
  | none => .next s
  | some w =>
    if dieHeld s d.val then .next s else
    match mapFind so.descs w.num with
    | none => .next (modSolver d.val (fun o => { o with running := none }) s)
    | some e =>
      if w.stage = 0 then .next (frontDone d.val w e s)
      else if slotHeld (solvOf e.bytes) e w.step then .next s
      else .next (factDone d.val w e s)

end Sys2Proof.Machine
end

