-- ==== Sys2Proof/Machine/Holds.lean ====
section
/-! DEFINITION. Step holds and cut holds: which ranges a step holds, when their versions are placed and released, and the
return of a range to its held version (R341, R342, R345). -/

namespace Sys2Proof.Machine

/-- FLAGS bit 0, `PERSIST`. -/
def updPersist (d : UpdDesc) : Bool := bitAt (byteAt d.bytes 1) 0

/-- Whether an update descriptor applies to step `t` (R205): `t` is its armed step, or a later one of a `PERSIST`
descriptor. -/
def updApplies (d : UpdDesc) (t : DWord) : Bool :=
  d.armed == t || (updPersist d && !d.removing && d.armed.toNat < t.toNat)

/-- Update descriptors of a context: stack, number, descriptor. -/
def ctxUpds (s : State) (slot : Nat) : List (Nat × Nat × UpdDesc) :=
  ((List.range 16).map (fun m => ((stackOf s m).descs.filter (fun (e : Nat × UpdDesc) => e.2.slot == slot)).map
    (fun (e : Nat × UpdDesc) => (m, e.1, e.2)))).flatten

/-- Solver descriptors of a context: die, number, descriptor. -/
def ctxSolvs (s : State) (slot : Nat) : List (Nat × Nat × SolvDesc) :=
  ((List.range 8).map (fun d => ((solverOf s d).descs.filter (fun (e : Nat × SolvDesc) => e.2.slot == slot)).map
    (fun (e : Nat × SolvDesc) => (d, e.1, e.2)))).flatten

/-- The lane-state table of a context in step `t` (R220, R232): start and end, empty where it has none. -/
def laneTable (s : State) (slot : Nat) (t : DWord) : List (Nat × Nat) :=
  let n := stepFld s slot t F.RNG_LS_CNT.UNITS
  let a := stepFld s slot t F.RNG_LS_BASE.ADDR * 4096
  if n = 0 then [] else [(a, a + 512 * n)]

/-- The hold list in force in step `t` (R345). -/
def holdListOf (s : State) (slot : Nat) (t : DWord) : List HoldRange :=
  match ctxOf s slot with
  | some x => (match stepSt? x t with | some e => e.holds | none => x.holdList)
  | none => []

/-- The ranges under the step hold of step `t` (R342). -/
def stepHoldRanges (s : State) (slot : Nat) (t : DWord) : List (Nat × Nat) :=
  let list := (holdListOf s slot t).map (fun h => (h.addr, h.addr + h.bytes))
  let upds := ((ctxUpds s slot).filter (fun e => updApplies e.2.2 t)).map (fun e => updWritten e.2.2)
  let banks := (ctxSolvs s slot).filterMap (fun e =>
    let v := solvOf e.2.2.bytes
    if v.front && v.step ≤ t.toNat && !e.2.2.removing then some (v.bankSpan t) else none)
  list ++ upds.flatten ++ banks ++ laneTable s slot t

/-- The pages of ranges, each once. -/
def rangePages (rs : List (Nat × Nat)) : List Nat := ((rs.map (fun r => pagesOf r.1 (r.2 - r.1))).flatten).eraseDups

/-- Step holds of step `t` placed on the pages of ranges. -/
def holdRanges (slot : Nat) (t : DWord) (rs : List (Nat × Nat)) (s : State) : State :=
  (rangePages rs).foldl (fun a p => holdPage slot t false p a) s

/-- The holds of step `t` placed at its begin; what an update of the step before still writes is taken into them when that
update completes (`refreshHeld`). -/
def placeHolds (slot : Nat) (t : DWord) (s : State) : State := holdRanges slot t (stepHoldRanges s slot t) s

/-- The step holds of step `t` released. -/
def dropHolds (slot : Nat) (t : DWord) (s : State) : State :=
  { s with held := s.held.filter (fun h => !(h.slot == slot && h.step == t && !h.isCut)) }

/-- The cut holds of step `t` released. -/
def dropCut (slot : Nat) (t : DWord) (s : State) : State :=
  { s with held := s.held.filter (fun h => !(h.slot == slot && h.step == t && h.isCut)) }

/-- Every page under the step hold of step `t` returned to its held version (R374 step 3). -/
def restoreHolds (slot : Nat) (t : DWord) (s : State) : State :=
  (s.held.filter (fun h => h.slot == slot && h.step == t && !h.isCut)).foldl (fun a h =>
    let b := restorePage h a
    { b with held := b.held.map (fun c =>
        if c.isCut && c.slot == slot && c.page == h.page && t.toNat ≤ c.step.toNat then { c with bytes := h.bytes, poison := h.poison }
        else c) }) s

/-- A range returned to its held version, line by line (R376). -/
def restoreRange (slot : Nat) (t : DWord) (r : Nat × Nat) (s : State) : State :=
  (linePieces r.1 (r.2 - r.1)).foldl (fun a p =>
    match heldFor a slot t (p.1 / 65536) with
    | some h =>
      let (m, o) := locate a (p.1 / 64 * 64)
      physPut m o ((List.range 64).map (fun i => mapGet 0 h.bytes (p.1 / 64 * 64 % 65536 + i)))
        (mapGet false h.poison (p.1 % 65536 / 64)) a
    | none => a) s

end Sys2Proof.Machine
end

