-- ==== Sys2Proof/Machine/Update.lean ====
section
/-! DEFINITION. The cellar unit: the start of an update, its instructions element by element, and its completion (R196 to
R211, R376). -/

namespace Sys2Proof.Machine

/-! ## Registers of an element (R196) -/

/-- A source: T0 to T15, or H0 to H15 of the hyperparameter line. -/
def cuSrc (u : UpdRun) (e n : Nat) : Word :=
  if n < 16 then mapGet 0 u.t (16 * e + n) else wd (getLE u.hyper (4 * (n - 16)) 4)

/-- Whether a source carries poison. -/
def cuBad (u : UpdRun) (e n : Nat) : Bool := if n < 16 then mapGet false u.tPoison (16 * e + n) else u.hyperPoison

/-- T[d] of an element written. -/
def cuPut (e d : Nat) (v : Word) (bad : Bool) (u : UpdRun) : UpdRun :=
  { u with t := mapSet 0 u.t (16 * e + d) v, tPoison := mapSet false u.tPoison (16 * e + d) bad }

/-- The running update of a stack with its descriptor. -/
def cuRun (s : State) (m : Nat) : Option (UpdRun × UpdDesc) :=
  match (stackOf s m).running with
  | some u => match mapFind (stackOf s m).descs u.num with
    | some d => some (u, d)
    | none => none
  | none => none

/-- Elements of a descriptor. -/
def updElems (d : UpdDesc) : Nat := getLE d.bytes 4 5

/-- The next instruction of an element's program, while the element runs. -/
def cuNext (u : UpdRun) (d : UpdDesc) (e : Nat) : Option CuIns :=
  if updElems d ≤ e || mapGet false u.ended e then none
  else (d.program[mapGet 0 u.pcs e]?).map cuInsOf

/-- An instruction of an element: it runs where it is the element's next one, and the element moves on. -/
def cuStep (m e : Nat) (hit : CuIns → Bool) (f : UpdRun → UpdDesc → State → UpdRun × State) (s : State) : State :=
  match cuRun s m with
  | none => s
  | some (u, d) =>
    match cuNext u d e with
    | none => s
    | some i =>
      if !hit i then s else
      let (u1, s1) := f u d s
      modStack m (fun k => { k with running := some { u1 with pcs := mapSet 0 u1.pcs e (mapGet 0 u.pcs e + 1) } }) s1

/-- A lane instruction: T[d] takes a function of the sources it names. -/
def cuLane (m e opc dd : Nat) (hit : CuIns → Bool) (srcs : List Nat) (f : List Word → Word) (s : State) : State :=
  cuStep m e (fun i => i.opc == opc && i.d == dd && hit i)
    (fun u _ s => (cuPut e dd (f (srcs.map (cuSrc u e))) (srcs.any (cuBad u e)) u, s)) s

/-! ## Streams (R199, R203, R210, R376) -/

/-- Where element `e` of a slot lies: address of the element or of its high half, address of its low half, bytes at each. -/
def elemAt (d : UpdDesc) (sl e : Nat) : Nat × Nat × Nat :=
  let (a, a2, f) := updSlot d.bytes sl
  match fmtOf f with
  | some f => if f.split then (a + 2 * e, a2 + 2 * e, 2) else (a + f.elem.bits / 8 * e, 0, f.elem.bits / 8)
  | none => (a, 0, 0)

/-- The element format of a slot; a split slot is read as S16 by LD. -/
def slotElem (d : UpdDesc) (sl : Nat) : Elem :=
  match fmtOf (updSlot d.bytes sl).2.2 with | some f => f.elem | none => .fp32

/-- A cellar unit consumes poison at an address (R210, R369, R376, R377): once per update; after the step close it is
handled by the local re-run, and in that re-run it terminates the context. -/
def cuConsume (m : Nat) (u : UpdRun) (d : UpdDesc) (addr : Nat) (s : State) : UpdRun × State :=
  if u.consumed then (u, s) else
  let u1 := { u with consumed := true }
  let closed := match ctxOf s d.slot with
    | some x => (match stepSt? x d.armed with | some e => e.contributed && !e.replaying | none => false)
    | none => false
  if closed then
    let s1 := sendEvent (16 + m) 0x02 1 (det [(d.slot, 1), (1, 1), (addr / 64 * 64, 5), (0, 1), (d.armed.toNat, 8)]) (some d.slot) s
    if 0 < d.reruns then (u1, terminateCtx d.slot 1 d.armed s1) else (u1, s1)
  else (u1, consume (16 + m) d.slot 1 (addr / 64 * 64) false d.armed s)

/-- A stream read of an element into T[dd]. -/
def cuLoad (m e opc dd sl : Nat) (split : Bool) (s : State) : State :=
  cuStep m e (fun i => i.opc == opc && i.d == dd && i.slot == sl) (fun u d s =>
    let (a, a2, n) := elemAt d sl e
    let hi := getLE (devBytes s a n) 0 n
    let v := if split then wd (hi * 2 ^ 16 + getLE (devBytes s a2 2) 0 2) else round32 (decodeElem (slotElem d sl) hi)
    let bad1 := devPoison s a n
    let bad2 := split && devPoison s a2 2
    let u1 := cuPut e dd v (bad1 || bad2) u
    if bad1 then cuConsume m u1 d a s else if bad2 then cuConsume m u1 d a2 s else (u1, s)) s

/-- Bytes kept for publication at the update's completion. -/
def cuKeep (addr : Nat) (bs : List Byte) (bad : Bool) (u : UpdRun) : UpdRun :=
  let bad := bad || u.hyperPoison
  { u with
    writes := (List.range bs.length).foldl (fun a i => mapPut a (addr + i) (bs.getD i 0)) u.writes
    wPoison := mapSet false u.wPoison (addr / 64) (mapGet false u.wPoison (addr / 64) || bad) }

/-- The FP32 word that a split weight takes (R62): no subnormal, only the canonical NaN. -/
def cuWeight (w : Word) : Word := round32 (decode32 w)

/-- A stream write of an element. -/
def cuStoreEl (m e opc src sl : Nat) (split : Bool) (s : State) : State :=
  cuStep m e (fun i => i.opc == opc && i.a == src && i.slot == sl) (fun u d s =>
    let (a, a2, n) := elemAt d sl e
    let w := cuSrc u e src
    let bad := cuBad u e src
    if split then
      let v := (cuWeight w).toNat
      ({ cuKeep a2 (leBytes 2 v) bad (cuKeep a (leBytes 2 (v / 2 ^ 16)) bad u) with stored := u.stored ++ [(e, sl, wd v)] }, s)
    else
      let c := encodeElem (slotElem d sl) .rne (decode32 w)
      ({ cuKeep a (leBytes n c) bad u with stored := u.stored ++ [(e, sl, wd c)] }, s)) s

/-! ## Start (R196, R206, R210) -/

/-- The T registers, program positions and stores of a fresh run. -/
def UpdRun.fresh (num : Nat) (hyper : List Byte) (bad : Bool) : UpdRun :=
  { num := num, hyper := hyper, hyperPoison := bad, t := [], tPoison := [], pcs := [], ended := [], writes := []
    wPoison := [], stored := [], consumed := false }

/-- An update begins: it reads the hyperparameter line. -/
def updBegin (m num : Nat) (d : UpdDesc) (s : State) : State :=
  let a := getLE d.bytes 28 5
  let bad := devPoison s a 64
  let u := UpdRun.fresh num (devBytes s a 64) bad
  let (u1, s1) := if bad then cuConsume m u d a s else (u, s)
  modStack m (fun k => { k with running := some u1 }) s1

/-- Whether a queued update may run: its context runs, and its step is not being replayed (R211, R374). One that may not stays
queued, and later ones of other contexts overtake it: the spec does not say whether it holds them back (DESIGN CHOICE, log
entry 74). -/
def updMayRun (s : State) (m num : Nat) : Bool :=
  match mapFind (stackOf s m).descs num with
  | none => false
  | some d => ctxState s d.slot == 1 && (match ctxOf s d.slot with
    | some x => (match stepSt? x d.armed with | some e => !e.replaying | none => true)
    | none => false)

/-- UPDATE_START (R206, R211): the next queued update of a stack starts, in firing order. -/
def execUpdateStart (m : StackId) (s : State) : Out :=
  let k := stackOf s m.val
  if k.running.isSome then .next s else
  match takeFirst? (updMayRun s m.val) k.fires with
  | none => .next s
  | some (num, rest) =>
    match mapFind k.descs num with
    | none => .next s
    | some d => .next (updBegin m.val num d (modStack m.val (fun k => { k with fires := rest }) s))

/-! ## Completion (R207 to R210, R376) -/

/-- The contributions of an update's tallied slot (R209), block by block where the tensor is declared (R42). -/
def updTally (block : Nat → Option Nat) (d : UpdDesc) (u : UpdRun) : SMap TensorAcc :=
  let fl := byteAt d.bytes 1
  if !(bitAt fl 1 && bitAt fl 2) then [] else
  let sl := fl / 16 % 8
  let tag := getLE d.bytes 9 3
  let l0 := getLE d.bytes 12 5
  let t := slotElem d sl
  let split := (updSlot d.bytes sl).2.2 == 7
  let a := (u.stored.filter (fun w => w.2.1 == sl)).foldl (fun (a : TensorAcc) w =>
    let i := (l0 + w.1) % 2 ^ 40
    let v := if split then decode32 w.2.2 else decodeElem t w.2.2.toNat
    a.add (tallyTerm tag i w.2.2.toNat) (if v.special then some i else none)
      (mapGet false u.wPoison ((elemAt d sl w.1).1 / 64)) (block i)) TensorAcc.empty
  [(tag, a)]

/-- The stream writes of an update made visible, line by line. -/
def updPublish (u : UpdRun) (d : UpdDesc) (s : State) : State :=
  let lines := (u.writes.map (fun (e : Nat × Byte) => e.1 / 64)).eraseDups
  lines.foldl (fun a l =>
    let mine := u.writes.filter (fun (e : Nat × Byte) => e.1 / 64 == l)
    let bad := mapGet false u.wPoison l
    if mine.length = 64 then stepWrite d.slot d.armed (64 * l) (mine.map (fun (e : Nat × Byte) => e.2)) bad a
    else mine.foldl (fun b (e : Nat × Byte) => stepWrite d.slot d.armed e.1 [e.2] bad b) a) s

/-- Bytes of held pages that an update leaves as they are, which the base die copies (R208). -/
def updCopied (s : State) (d : UpdDesc) : Nat :=
  let rs := updWritten d
  (rangePages rs).foldl (fun a p =>
    if (heldFor s d.slot d.armed p).isNone then a
    else a + (65536 - rs.foldl (fun n r => n + (min r.2 (65536 * (p + 1)) - max r.1 (65536 * p))) 0)) 0

/-- Cellar-unit cycles of an update (R197, R208). -/
def updCycles (s : State) (d : UpdDesc) : Nat :=
  let is := d.program.map cuInsOf
  let st := is.filter (fun i => cuLoads i.opc || cuStores i.opc)
  let lanes := is.length - st.length - 1
  let bytes := st.foldl (fun a i => a + (if i.opc = 2 || i.opc = 4 then 4 else (elemAt d i.slot 0).2.2)) 0
  let e := updElems d
  1200 + max (e * bytes * 3 / 20000) (max (e * lanes / 2048) (e * st.length / 4096)) + updCopied s d * 3 / 20000

/-- Cycles counted in `UPD_BUSY`, in units of 1,024 (R212). -/
def countBusy (m n : Nat) (s : State) : State :=
  let c := (stackOf s m).busyCyc + n
  fbumpBy F.UPD_BUSY.KCYCLES m 0 (c / 1024) (modStack m (fun k => { k with busyCyc := c % 1024 }) s)

/-- One update engine retired, with a spare in its place while more than 64 work (R387). -/
def retireEngine (m : Nat) (r : Nat × Nat) (s : State) : State :=
  let n := (stackOf s m).engines
  let s1 := noteRetired 5 m r.1 r.2 (modStack m (fun k => { k with engines := n - 1 }) s)
  if 64 < n then noteSpareIn 5 m (132 - n) r.1 r.2 s1 else noteSparesOut 5 m (n - 1) s1

/-- A descriptor after its update: removed, or armed for the next step, where it fires at once if its trigger has come (R203,
R205); its step keeps it for a re-arm (R208). -/
def updRearm (m num : Nat) (d : UpdDesc) (s0 : State) : State :=
  let s := modStep d.slot d.armed (fun e => { e with updDone := e.updDone ++ [(m, num, d)] }) s0
  if d.removing || !updPersist d then modStack m (fun k => { k with descs := mapDel k.descs num }) s
  else
    let d1 := { d with armed := d.armed + 1, fired := false, keptFire := false, reruns := 0 }
    let s1 := modStack m (fun k => { k with descs := mapPut k.descs num d1 }) s
    let due := d.keptFire || (match ctxOf s1 d.slot with | some x => alreadyFired s1 x d1 | none => false)
    if due then fireUpd m num (d.armed + 1) s1 else s1

/-- The end of an update whose writes are visible (R205, R207, R209): fences open, contributions enter the step, the holds of
the next step take the new contents. -/
def updFinish (m : Nat) (u : UpdRun) (d : UpdDesc) (s : State) : State :=
  let s1 := modStack m (fun k => { k with running := none }) s
  let s2 := countBusy m (updCycles s d) (fbump F.UPD_DONE.COUNT m 0 (stepTally d.slot d.armed (updTally (declaredBlock s d.slot (getLE d.bytes 9 3)) d u) s1))
  let s3 := updRearm m u.num d s2
  let s4 := (updWritten d).foldl (fun a r => refreshHeld d.slot (d.armed + 1) r a) s3
  ((stackOf s4 m).engDue).foldl (fun a r => retireEngine m r a) (modStack m (fun k => { k with engDue := [] }) s4)

/-- The local re-run of R376: the operands return to their held contents, and the program runs once more. -/
def updRerun (m : Nat) (u : UpdRun) (d : UpdDesc) (s : State) : State :=
  let d1 := { d with reruns := d.reruns + 1 }
  let s1 := ((updRanges d.bytes).map (fun r => (r.1, r.2.1))).foldl (fun a r => restoreRange d.slot d.armed r a) s
  updBegin m u.num d1 (modStack m (fun k => { k with descs := mapPut k.descs u.num d1 }) s1)

/-- Whether a run that consumed poison is to be re-run locally: its step has contributed to the step close, and it is the
first run. -/
def updLocal (s : State) (u : UpdRun) (d : UpdDesc) : Bool :=
  u.consumed && d.reruns == 0 && (match ctxOf s d.slot with
    | some x => !x.terminated && (match stepSt? x d.armed with
      | some e => e.contributed && !e.replaying && !e.consumed
      | none => false)
    | none => false)

/-- UPDATE_COMPLETE (R205, R207 to R210, R376): once every element has ended, the writes become visible and the update
completes; writes of its step that wait for a page keep it from completing. A run that consumed poison after the step close
runs again once the rows concerned are retired. -/
def execUpdateComplete (m : StackId) (s : State) : Out :=
  match cuRun s m.val with
  | none => .next s
  | some (u, d) =>
    if u.ended.length != updElems d then .next s
    else if updLocal s u d then
      if (stackOf s m.val).retiring.isEmpty then .next (updRerun m.val u d s) else .next s
    else
      let s1 := updPublish u d (modStack m.val (fun k => { k with running := some { u with writes := [] } }) s)
      if !(stackOf s1 m.val).waitCow.any (fun w => w.2.2.2 == some (d.slot, d.armed)) then .next (updFinish m.val u d s1) else .next s1

/-! ## Instructions (R199) -/

/-- CU_LD: T[d] takes element `e` of a slot, decoded exactly; a split slot gives its high half. -/
def execCuLd (m : StackId) (e : BitVec 40) (d : BitVec 4) (sl : BitVec 3) (s : State) : Out :=
  .next (cuLoad m.val e.toNat 1 d.toNat sl.toNat false s)

/-- CU_LDW: T[d] takes the 32-bit pattern of a split slot. -/
def execCuLdw (m : StackId) (e : BitVec 40) (d : BitVec 4) (sl : BitVec 3) (s : State) : Out :=
  .next (cuLoad m.val e.toNat 2 d.toNat sl.toNat true s)

/-- CU_ST: a slot's element takes the source, encoded with RNE. -/
def execCuSt (m : StackId) (e : BitVec 40) (a : BitVec 5) (sl : BitVec 3) (s : State) : Out :=
  .next (cuStoreEl m.val e.toNat 3 a.toNat sl.toNat false s)

/-- CU_STW: a split slot's element takes the source, treated per R62 and split per R61. -/
def execCuStw (m : StackId) (e : BitVec 40) (a : BitVec 5) (sl : BitVec 3) (s : State) : Out :=
  .next (cuStoreEl m.val e.toNat 4 a.toNat sl.toNat true s)

/-- A lane instruction of one source. -/
def cuOne (m e opc d a : Nat) (f : Word → Word) (s : State) : State :=
  cuLane m e opc d (fun i => i.a == a) [a] (fun l => f (l.getD 0 0)) s

/-- A lane instruction of two sources. -/
def cuTwo (m e opc d a b : Nat) (f : Word → Word → Word) (s : State) : State :=
  cuLane m e opc d (fun i => i.a == a && i.b == b) [a, b] (fun l => f (l.getD 0 0) (l.getD 1 0)) s

/-- A lane instruction of sources A, B and C, and `n` hyperparameters that follow C. -/
def cuThree (m e opc d a b c n : Nat) (f : Word → Word → List Word → Word) (s : State) : State :=
  cuLane m e opc d (fun i => i.a == a && i.b == b && i.c == c) ([a, b, c] ++ (List.range n).map (fun k => c + 1 + k))
    (fun l => f (l.getD 0 0) (l.getD 1 0) (l.drop 2)) s

/-- CU_MOV: bits unchanged. -/
def execCuMov (m : StackId) (e : BitVec 40) (d : BitVec 4) (a : BitVec 5) (s : State) : Out :=
  .next (cuOne m.val e.toNat 0x08 d.toNat a.toNat id s)

/-- CU_ADD: fadd(A, B). -/
def execCuAdd (m : StackId) (e : BitVec 40) (d : BitVec 4) (a b : BitVec 5) (s : State) : Out :=
  .next (cuTwo m.val e.toNat 0x09 d.toNat a.toNat b.toNat fAdd s)

/-- CU_SUB: fadd(A, −B). -/
def execCuSub (m : StackId) (e : BitVec 40) (d : BitVec 4) (a b : BitVec 5) (s : State) : Out :=
  .next (cuTwo m.val e.toNat 0x0A d.toNat a.toNat b.toNat fSub s)

/-- CU_MUL: fmul(A, B). -/
def execCuMul (m : StackId) (e : BitVec 40) (d : BitVec 4) (a b : BitVec 5) (s : State) : Out :=
  .next (cuTwo m.val e.toNat 0x0B d.toNat a.toNat b.toNat fMul s)

/-- CU_FMA: A × B + C with one rounding. -/
def execCuFma (m : StackId) (e : BitVec 40) (d : BitVec 4) (a b c : BitVec 5) (s : State) : Out :=
  .next (cuThree m.val e.toNat 0x0C d.toNat a.toNat b.toNat c.toNat 0 (fun x y l => fFma x y (l.getD 0 0)) s)

/-- CU_DIV: fdiv(A, B). -/
def execCuDiv (m : StackId) (e : BitVec 40) (d : BitVec 4) (a b : BitVec 5) (s : State) : Out :=
  .next (cuTwo m.val e.toNat 0x0D d.toNat a.toNat b.toNat fDiv s)

/-- CU_SQRT: fsqrt(A). -/
def execCuSqrt (m : StackId) (e : BitVec 40) (d : BitVec 4) (a : BitVec 5) (s : State) : Out :=
  .next (cuOne m.val e.toNat 0x0E d.toNat a.toNat fSqrt s)

/-- CU_MIN: as FMIN. -/
def execCuMin (m : StackId) (e : BitVec 40) (d : BitVec 4) (a b : BitVec 5) (s : State) : Out :=
  .next (cuTwo m.val e.toNat 0x0F d.toNat a.toNat b.toNat fMin s)

/-- CU_MAX: as FMAX. -/
def execCuMax (m : StackId) (e : BitVec 40) (d : BitVec 4) (a b : BitVec 5) (s : State) : Out :=
  .next (cuTwo m.val e.toNat 0x10 d.toNat a.toNat b.toNat fMax s)

/-- CU_NEG: bit 31 inverted. -/
def execCuNeg (m : StackId) (e : BitVec 40) (d : BitVec 4) (a : BitVec 5) (s : State) : Out :=
  .next (cuOne m.val e.toNat 0x11 d.toNat a.toNat fNeg s)

/-- CU_ABS: bit 31 cleared. -/
def execCuAbs (m : StackId) (e : BitVec 40) (d : BitVec 4) (a : BitVec 5) (s : State) : Out :=
  .next (cuOne m.val e.toNat 0x12 d.toNat a.toNat (fun w => w &&& 0x7FFFFFFF#32) s)

/-- The sign of a word as SGN gives it. -/
def cuSign (w : Word) : Word :=
  match decode32 w with
  | .zero _ => 0
  | .nan => 0x7FC00000
  | .inf n => if n then 0xBF800000 else 0x3F800000
  | .fin n _ _ => if n then 0xBF800000 else 0x3F800000

/-- CU_SGN: +1.0, −1.0, +0 for zeros, the canonical NaN for NaN. -/
def execCuSgn (m : StackId) (e : BitVec 40) (d : BitVec 4) (a : BitVec 5) (s : State) : Out :=
  .next (cuOne m.val e.toNat 0x13 d.toNat a.toNat cuSign s)

/-- CU_CLT: 1.0 where A < B, else +0. -/
def execCuClt (m : StackId) (e : BitVec 40) (d : BitVec 4) (a b : BitVec 5) (s : State) : Out :=
  .next (cuTwo m.val e.toNat 0x14 d.toNat a.toNat b.toNat (fun x y => if fCmp 2 x y then 0x3F800000 else 0) s)

/-- Whether a word reads as a zero. -/
def cuZero (w : Word) : Bool := match decode32 w with | .zero _ => true | _ => false

/-- CU_SEL: A unless C reads as zero, else B. -/
def execCuSel (m : StackId) (e : BitVec 40) (d : BitVec 4) (a b c : BitVec 5) (s : State) : Out :=
  .next (cuThree m.val e.toNat 0x15 d.toNat a.toNat b.toNat c.toNat 0 (fun x y l => if cuZero (l.getD 0 0) then y else x) s)

/-- CU_AXPBY: ffma(B, H[k+1], fmul(A, H[k])). -/
def execCuAxpby (m : StackId) (e : BitVec 40) (d : BitVec 4) (a b c : BitVec 5) (s : State) : Out :=
  .next (cuThree m.val e.toNat 0x18 d.toNat a.toNat b.toNat c.toNat 1
    (fun x y l => fFma y (l.getD 1 0) (fMul x (l.getD 0 0))) s)

/-- CU_EMASQ: ffma(fmul(B, B), H[k+1], fmul(A, H[k])). -/
def execCuEmasq (m : StackId) (e : BitVec 40) (d : BitVec 4) (a b c : BitVec 5) (s : State) : Out :=
  .next (cuThree m.val e.toNat 0x19 d.toNat a.toNat b.toNat c.toNat 1
    (fun x y l => fFma (fMul y y) (l.getD 1 0) (fMul x (l.getD 0 0))) s)

/-- CU_ADIR: fdiv(fmul(A, H[k]), fadd(fsqrt(fmul(B, H[k+1])), H[k+2])). -/
def execCuAdir (m : StackId) (e : BitVec 40) (d : BitVec 4) (a b c : BitVec 5) (s : State) : Out :=
  .next (cuThree m.val e.toNat 0x1A d.toNat a.toNat b.toNat c.toNat 2
    (fun x y l => fDiv (fMul x (l.getD 0 0)) (fAdd (fSqrt (fMul y (l.getD 1 0))) (l.getD 2 0))) s)

/-- CU_END: the element's program ends. -/
def execCuEnd (m : StackId) (e : BitVec 40) (s : State) : Out :=
  .next (cuStep m.val e.toNat (fun i => i.opc == 0x3F) (fun u _ s => ({ u with ended := mapPut u.ended e.toNat true }, s)) s)

end Sys2Proof.Machine
end

