-- ==== Sys2Proof/Machine/Image.lean ====
section
/-! DEFINITION. Checkpoints up to the start of their stream: the checkpoint set, the image, the decision, the cut, and the
ways a checkpoint ends (R346 to R351, R354, R362). -/

namespace Sys2Proof.Machine

/-! ## The checkpoint set (R348, R349) -/

/-- A section of an image: its directory fields, its bytes each with poison, its tally, and the device ranges it is read
from. -/
structure Section where
  kind : Nat
  fmt : Nat
  slot : Nat
  tag : Nat
  lidx : Nat
  elems : Nat
  ident : Nat
  src : Nat
  ranges : List (Nat × Nat)
  data : List (Byte × Bool)
  tally : DWord
  deriving DecidableEq, Repr

/-- The cut version of a page for the checkpoint of step `t`. -/
def cutFor (s : State) (slot : Nat) (t : DWord) (page : Nat) : Option HeldPage :=
  s.held.find? (fun h => h.isCut && h.page == page && h.slot == slot && h.step == t)

/-- Bytes of the cut, each with its line's poison. -/
def cutRead (s : State) (slot : Nat) (t : DWord) (addr len : Nat) : List (Byte × Bool) :=
  ((linePieces addr len).map (fun p =>
    match cutFor s slot t (p.1 / 65536) with
    | some h => (List.range p.2).map (fun i =>
        (mapGet 0 h.bytes (p.1 % 65536 + i), mapGet false h.poison (p.1 % 65536 / 64)))
    | none =>
      let (m, o) := locate s p.1
      (physBytes s m o p.2).map (fun b => (b, physPoison s m (o / 64))))).flatten

/-- The elements of a split operand as 32-bit patterns: high half and low half joined. -/
def joinHalves (hi lo : List (Byte × Bool)) : List (Byte × Bool) :=
  (((chunksOf 2 (lo.length + 1) lo).zip (chunksOf 2 (hi.length + 1) hi)).map
    (fun (p : List (Byte × Bool) × List (Byte × Bool)) => p.1 ++ p.2)).flatten

/-- The tally of elements of `w` bytes each (R351). -/
def secTally (tag l0 w : Nat) (data : List (Byte × Bool)) : DWord :=
  ((chunksOf w (data.length + 1) data).zipIdx).foldl (fun (a : DWord) (c : List (Byte × Bool) × Nat) =>
    a + tallyTerm tag ((l0 + c.2) % 2 ^ 40) (ofLE (c.1.map (·.1)))) 0

/-- A section that is tallied as u64 words under tag 0xFF_FFFF. -/
def rawSection (kind tag ident src : Nat) (ranges : List (Nat × Nat)) (data : List (Byte × Bool)) : Section :=
  { kind := kind, fmt := 0, slot := 0, tag := tag, lidx := 0, elems := (data.length + 7) / 8, ident := ident, src := src
    ranges := ranges, data := data, tally := secTally 0xFFFFFF 0 8 data }

/-- Bytes that carry no poison. -/
def cleanBytes (b : List Byte) : List (Byte × Bool) := b.map (fun x => (x, false))

/-- Whether slot `n` of a descriptor belongs to the checkpoint set: split slots and written slots (R348). -/
def slotSaved (d : UpdDesc) (n : Nat) : Bool :=
  n < byteAt d.bytes 2 && ((updSlot d.bytes n).2.2 == 7 || (progWrites d.program).contains n)

/-- The tensor sections of an update descriptor: `KIND` 0x01 and 0x02. -/
def updSections (s : State) (slot : Nat) (t : DWord) (num : Nat) (d : UpdDesc) : List Section :=
  let e := updElems d
  let tag := getLE d.bytes 9 3
  let l0 := getLE d.bytes 12 5
  (idxWhere 8 (slotSaved d)).filterMap (fun n =>
    let (a, a2, f) := updSlot d.bytes n
    match fmtOf f with
    | none => none
    | some ft =>
      if ft.split then
        let data := joinHalves (cutRead s slot t a (2 * e)) (cutRead s slot t a2 (2 * e))
        some { kind := 1, fmt := f, slot := n, tag := tag, lidx := l0, elems := e, ident := num, src := a
               ranges := [(a, 2 * e), (a2, 2 * e)], data := data, tally := secTally tag l0 4 data }
      else
        let w := ft.elem.bits / 8
        let data := cutRead s slot t a (w * e)
        some { kind := 2, fmt := f, slot := n, tag := tag, lidx := l0, elems := e, ident := num, src := a
               ranges := [(a, w * e)], data := data, tally := secTally tag l0 w data })

/-- Whether two operand slots of a context's descriptors overlap under one (`TAG`, slot) pair (R349). -/
def setOverlaps (s : State) (slot : Nat) : Bool :=
  let all := ((ctxUpds s slot).map (fun u => (List.range (byteAt u.2.2.bytes 2)).map (fun n =>
    (n, getLE u.2.2.bytes 9 3, getLE u.2.2.bytes 12 5, updElems u.2.2, u.1, u.2.1)))).flatten
  all.any (fun a => all.any (fun b =>
    a.1 == b.1 && a.2.1 == b.2.1 && (a.2.2.2.2.1 != b.2.2.2.2.1 || a.2.2.2.2.2 != b.2.2.2.2.2) &&
      rangesMeet (a.2.2.1, a.2.2.1 + a.2.2.2.1) (b.2.2.1, b.2.2.1 + b.2.2.2.1)))

/-- The banks and output slots of a solver descriptor: address and bytes. -/
def Solv.banks (v : Solv) : Nat × Nat := (v.statAddr, 8 * v.batch * v.n * v.n)
/-- All output slots. -/
def Solv.outs (v : Solv) : Nat × Nat := (v.outAddr, v.slots * v.batch * v.slotBytes)

/-- The bytes of `KIND` 0x05: statistics step of the current solution (all ones for none), consecutive reuses, and the
statistics steps up to `t` whose solutions are not complete. -/
def solverState (t : DWord) (d : SolvDesc) : List Byte :=
  let pend := (List.range 2).filter (fun i => d.next.toNat + i ≤ t.toNat)
  leBytes 8 (match d.current with | some c => c.toNat | none => 2 ^ 64 - 1) ++ leBytes 4 d.reuses ++
    leBytes 4 pend.length ++ (pend.map (fun i => leBytes 8 (d.next.toNat + i))).flatten

/-- The sections of a solver descriptor. -/
def solvSections (s : State) (slot : Nat) (t : DWord) (die num : Nat) (d : SolvDesc) : List Section :=
  let v := solvOf d.bytes
  let mem := fun (kind : Nat) (r : Nat × Nat) => rawSection kind 0 v.matId r.1 [r] (cutRead s slot t r.1 r.2)
  [mem 3 v.banks, mem 4 v.outs, { rawSection 5 0 num 0 [] (cleanBytes (solverState t d)) with slot := die }]

/-- The device ranges of the checkpoint set of step `t`. -/
def ckptRanges (s : State) (slot : Nat) (t : DWord) : List (Nat × Nat) :=
  let upds := (ctxUpds s slot).map (fun u => (idxWhere 8 (slotSaved u.2.2)).map (fun n =>
    (slotRanges u.2.2.bytes n).map (fun r => (r.1, r.2.1))))
  let solvs := (ctxSolvs s slot).map (fun e =>
    let v := solvOf e.2.2.bytes
    [(v.banks.1, v.banks.1 + v.banks.2), (v.outs.1, v.outs.1 + v.outs.2)])
  let saves := ((holdListOf s slot t).filter (·.save)).map (fun h => (h.addr, h.addr + h.bytes))
  (upds.flatten).flatten ++ solvs.flatten ++ saves ++ laneTable s slot t

/-- The sections of a checkpoint, in directory order (R348, R350): descriptors as they stood at the decision, keys,
lane-state table and hold list as its step had them. -/
def ckptSections (s : State) (slot : Nat) (m : Stream) (cursor recd : List Byte) : List Section :=
  let t := m.step
  let upds := (m.upds.map (fun u => updSections s slot t u.2.1 u.2.2)).flatten
  let solvs := (m.solvs.map (fun e => solvSections s slot t e.1 e.2.1 e.2.2)).flatten
  let lanes := (laneTable s slot t).map (fun r => rawSection 6 0 0 r.1 [(r.1, r.2 - r.1)] (cutRead s slot t r.1 (r.2 - r.1)))
  let keys := leBytes 8 (stepReg64 s slot t .RNG_SRKEY_LO .RNG_SRKEY_HI).toNat ++
    leBytes 8 (stepReg64 s slot t .RNG_LSKEY_LO .RNG_LSKEY_HI).toNat
  let cur := { rawSection 8 0x7FFFFF 0 0 [] (cleanBytes cursor) with tally := secTally 0x7FFFFF 0 8 (cleanBytes cursor) }
  let recs := if recd.isEmpty then [] else [rawSection 9 0 0 0 [] (cleanBytes recd)]
  let saves := ((holdListOf s slot t).zipIdx.filter (fun (h : HoldRange × Nat) => h.1.save)).map (fun (h : HoldRange × Nat) =>
    rawSection 0x0A h.1.tag h.2 h.1.addr [(h.1.addr, h.1.bytes)] (cutRead s slot t h.1.addr h.1.bytes))
  let descs := m.upds.map (fun u => rawSection 0x0B 0 u.2.1 0 [] (cleanBytes u.2.2.bytes)) ++
    m.solvs.map (fun e => rawSection 0x0B 0 e.2.1 0 [] (cleanBytes e.2.2.bytes))
  sortKey (fun c => ((c.kind * 2 ^ 24 + c.tag) * 8 + c.slot) * 2 ^ 40 + c.lidx)
    (upds ++ solvs ++ lanes ++ [rawSection 7 0 0 0 [] (cleanBytes keys), cur] ++ recs ++ saves ++ descs)

/-! ## The image (R350) -/

/-- Whether any byte of a section is poisoned. -/
def Section.bad (c : Section) : Bool := c.data.any (·.2)

/-- A directory entry of a section that lies at an offset. -/
def dirEntry (c : Section) (off : Nat) : List Byte :=
  leBytes 1 c.kind ++ leBytes 1 c.fmt ++ leBytes 1 c.slot ++ leBytes 1 (b2n c.bad) ++ leBytes 3 c.tag ++ leBytes 1 0 ++
    leBytes 5 c.lidx ++ leBytes 5 c.elems ++ leBytes 8 off ++ leBytes 8 c.data.length ++ leBytes 8 c.tally.toNat ++
    leBytes 5 c.src ++ leBytes 1 0 ++ leBytes 8 c.ident ++ leBytes 8 0

/-- Sections with the offset at which each lies. -/
def placeSections (base : Nat) (l : List Section) : List (Section × Nat) :=
  (l.foldl (fun (a : Nat × List (Section × Nat)) c => (a.1 + c.data.length, a.2 ++ [(c, a.1)])) (base, [])).2

/-- The devices of a context, as RDOBS selector 0x0003 gives them (R171). -/
def devicesIn (s : State) (slot : Nat) : Nat :=
  match stepCctx s slot with
  | some n => (match mapFind s.cctxs n with | some y => y.members.eraseDups.length | none => 1)
  | none => 1

/-- The image header. -/
def imageHeader (s : State) (slot : Nat) (t stamp : DWord) (bytes count : Nat) (bad : Bool) : List Byte :=
  let n := match ctxOf s slot with | some x => boundCount x | none => 0
  padTo 128 (leBytes 4 0x5338434B ++ leBytes 2 1 ++ leBytes 2 (fget s F.GBL_EDITION.EDITION) ++ leBytes 8 t.toNat ++
    leBytes 8 stamp.toNat ++ leBytes 8 bytes ++ leBytes 4 count ++ leBytes 2 (ownNode s) ++
    leBytes 1 (b2n (portable s slot) + 2 + 4 * b2n bad) ++ leBytes 1 0 ++ leBytes 4 (rget s .GBL_FWVER).toNat ++
    leBytes 4 (rget s .GBL_FWBUILD).toNat ++ leBytes 4 (devicesIn s slot) ++ leBytes 4 n)

/-- The whole image with the poison of each byte. -/
def imageBytes (s : State) (slot : Nat) (t stamp : DWord) (secs : List Section) : List (Byte × Bool) :=
  let base := 128 + 64 * secs.length
  let total := secs.foldl (fun a c => a + c.data.length) base
  let dir := ((placeSections base secs).map (fun (e : Section × Nat) => dirEntry e.1 e.2)).flatten
  cleanBytes (imageHeader s slot t stamp total secs.length (secs.any Section.bad) ++ dir) ++ (secs.map (·.data)).flatten

/-- Poison of an image by 64-byte line. -/
def imagePoison (im : List (Byte × Bool)) : List Bool :=
  (chunksOf 64 (im.length + 1) im).map (fun c => c.any (fun (x : Byte × Bool) => x.2))

/-- The pieces of a section: cut at the page boundaries of its source, each with its pages. `k` is image bytes per source
byte. -/
def sectionPieces (c : Section) (off : Nat) : List Piece :=
  match c.ranges with
  | [] => [{ off := off, len := c.data.length, pages := [] }]
  | r :: more =>
    let k := 1 + more.length
    (pagesOf r.1 r.2).map (fun p =>
      let a := max r.1 (p * 65536)
      let b := min (r.1 + r.2) ((p + 1) * 65536)
      { off := off + (a - r.1) * k, len := (b - a) * k
        pages := p :: (more.map (fun q => pagesOf (q.1 + (a - r.1)) (b - a))).flatten })

/-- The pieces of an image in the order they are sent: ascending page address, sections without a page, then the directory,
and the header last (R352). -/
def imagePieces (secs : List Section) : List Piece :=
  let base := 128 + 64 * secs.length
  let all := ((placeSections base secs).map (fun (e : Section × Nat) => sectionPieces e.1 e.2)).flatten
  let mem := sortKey (fun p => match p.pages with | q :: _ => q | [] => 0) (all.filter (fun p => !p.pages.isEmpty))
  mem ++ all.filter (fun p => p.pages.isEmpty && 0 < p.len) ++
    [{ off := 128, len := 64 * secs.length, pages := [] }, { off := 0, len := 128, pages := [] }]

/-! ## The end of a checkpoint (R354, R366) -/

/-- A checkpoint event record. -/
def ckptEvent (slot code status : Nat) (t : DWord) (s : State) : State :=
  sendEvent 0 0x0A code (det [(slotNo s slot, 1), (status, 2), (0, 5), (t.toNat, 8)]) (some slot) s

/-- A checkpoint abandoned: its holds are released, the command that asked for it gets the status. -/
def ckptAbandon (slot status : Nat) (s : State) : State :=
  match ctxOf s slot with
  | none => s
  | some x =>
    match x.stream with
    | none => s
    | some m =>
      let s1 := dropCut slot m.step (setCtx slot { x with stream := none } s)
      let s2 := fset F.CKP_STAT.STATE slot 0 0 (fset F.CKP_STAT.LAST_OK slot 0 0 (fset F.CKP_STAT.ABANDONED slot 0 1 s1))
      let s3 := ckptEvent slot 3 status m.step s2
      match m.cmd with
      | some (src, tag) => finishTaken src tag status [] s3
      | none => s3

/-- A checkpoint complete (R354). -/
def ckptComplete (slot : Nat) (s : State) : State :=
  match ctxOf s slot with
  | none => s
  | some x =>
    match x.stream with
    | none => s
    | some m =>
      let s1 := dropCut slot m.step (setCtx slot { x with stream := none } s)
      let s2 := rset64 .CKP_STEP_LO .CKP_STEP_HI slot m.step
        (fset F.CKP_STAT.STATE slot 0 0 (fset F.CKP_STAT.LAST_OK slot 0 1 s1))
      let s3 := ckptEvent slot 1 stOk m.step s2
      match m.cmd with
      | some (src, tag) => finishTaken src tag stOk [wd m.step.toNat, wd (m.step.toNat / 2 ^ 32)] s3
      | none => s3

/-- The buddy is lost (R354): the whole cut again to the file store where that is allowed, else the checkpoint is
abandoned. -/
def ckptLost (slot : Nat) (s : State) : State :=
  match ctxOf s slot with
  | none => s
  | some x =>
    match x.stream with
    | none => s
    | some m =>
      if m.fallback && x.fsRing.isSome && !m.toFile then
        let m1 := { m with toFile := true, todo := m.todo ++ m.out.map (·.1), out := [], acked := 0 }
        let s1 := fset F.CKP_STAT.FELL_BACK slot 0 1 (fset F.CKP_STAT.STATE slot 0 2 (setCtx slot { x with stream := some m1 } s))
        ckptEvent slot 2 stOk m.step (fset F.CKP_SENT.MIB slot 0 0 s1)
      else ckptAbandon slot stTerminated s

/-! ## The decision and the cut (R346, R347) -/

/-- Cut holds placed on the checkpoint set of step `t`. -/
def placeCut (slot : Nat) (t : DWord) (s : State) : State :=
  (rangePages (ckptRanges s slot t)).foldl (fun a p => holdPage slot t true p a) s

/-- The stream a decision starts, with the settings in force at that moment. -/
def freshStream (s : State) (slot : Nat) (t : DWord) (cmd : Option (CmdSrc × BitVec 16 × Bool)) : Stream :=
  { step := t, started := false
    ports := fget s F.CKP_PORTS_LO.PORTS slot + 2 ^ 32 * fget s F.CKP_PORTS_HI.PORTS slot
    buddy := if fbit s F.CKP_BUDDY.VALID slot then fget s F.CKP_BUDDY.NODE slot else 0xFFFF
    cls := fget s F.CKP_CFG.CLASS slot, fallback := fbit s F.CKP_CFG.FS_FALLBACK slot
    toFile := match cmd with | some c => c.2.2 | none => false
    upds := ctxUpds s slot, solvs := ctxSolvs s slot
    image := [], poison := [], todo := [], out := [], acked := 0
    cmd := match cmd with | some c => some (c.1, c.2.1) | none => none }

/-- The decision about step `t` (R346, R347, R349), made once. -/
def ckptDecide (slot : Nat) (t : DWord) (s : State) : State :=
  match ctxOf s slot with
  | none => s
  | some x =>
    match stepSt? x t with
    | none => s
    | some e =>
      if e.ckptDecided then s else
      let now := stampAt s 0
      let en := fbit s F.CKP_CFG.TIME_EN slot
      let every := fget s F.CKP_CFG.EVERY_N slot
      let byStep := fbit s F.CKP_CFG.STEP_EN slot && every != 0 && t.toNat % every == 0
      let byTime := en && (match x.refStamp with
        | some r => decide (r.toNat + (rget64 s .CKP_PERIOD_LO .CKP_PERIOD_HI slot).toNat ≤ now.toNat)
        | none => false)
      let x1 := { x with
        refStamp := if en && x.refStamp.isNone then some now else x.refStamp
        steps := x.steps.map (fun e => if e.num == t then { e with ckptDecided := true } else e) }
      if !(byStep || byTime || x.ckptDefer || x.ckptCmd.isSome) then setCtx slot x1 s
      else if x.stream.isSome then
        let s1 := setCtx slot { x1 with ckptDefer := true } s
        if x.ckptDefer || !(byStep || byTime) then s1 else fbump F.CKP_STAT.DEFERS slot 0 s1
      else
        let m := freshStream s slot t x.ckptCmd
        let s1 := setCtx slot { x1 with ckptDefer := false, ckptCmd := none, stream := some m } s
        if setOverlaps s slot then ckptAbandon slot stBadParam s1 else placeCut slot t s1

/-- The stream of step `t` starts at its commit (R346, R352, R355); `todo` lists what is still to be acknowledged toward the
file store too, so that pages are released one by one (R342). -/
def streamStart (slot : Nat) (t stamp : DWord) (cursor recd : List Byte) (s : State) : State :=
  match ctxOf s slot with
  | none => s
  | some x =>
    match x.stream with
    | none => s
    | some m =>
      if m.step != t || m.started then s else
      let secs := ckptSections s slot m cursor recd
      let im := imageBytes s slot t stamp secs
      let m1 := { m with
        started := true, image := im.map (·.1), poison := imagePoison im
        todo := imagePieces secs }
      fset F.CKP_STAT.STATE slot 0 (if m.toFile then 2 else 1) (fset F.CKP_SENT.MIB slot 0 0
        (setCtx slot { x with stream := some m1, refStamp := some stamp } s))

end Sys2Proof.Machine
end

