-- ==== Sys2Proof/Machine/Collective.lean ====
section
/-! DEFINITION. The collective engine: phases, reductions, agreements, completion and aborts (R314 to R332, R367, R369). -/

namespace Sys2Proof.Machine

/-! ## Data held for a collective -/

/-- An element of a phase from a rank, with its poison. -/
def peerVal (k : Coll) (p r e : Nat) : BitVec 96 × Bool :=
  match peerOf k p r with
  | some d => (mapGet 0 d.elems e, mapGet false d.bad e)
  | none => (0, false)

/-- Whether everything a phase brings has been delivered. -/
def gotPhase (v : CView) (k : Coll) (p : Nat) : Bool :=
  (v.expects p).all (fun x => match peerOf k p x.1 with | some d => x.2.2 - x.2.1 ≤ d.elems.length | none => false)

/-- Whether a phase may be sent: every earlier one has been delivered. -/
def maySend (v : CView) (k : Coll) (p : Nat) : Bool := (phaseOrder.takeWhile (· != p)).all (gotPhase v k)

/-- Two partials of one element together (R118, R123, R324). -/
def CView.fold2 (v : CView) (a b : BitVec 96 × Bool) : BitVec 96 × Bool :=
  let x := a.1
  let y := b.1
  let z : BitVec 96 := match v.red with
    | 0 => BitVec.ofNat 96 (fAdd (wd x.toNat) (wd y.toNat)).toNat
    | 1 => s96Add x y
    | _ =>
      let w := maxPair (v.red == 3) (wd x.toNat, x.toNat / 2 ^ 32) (wd y.toNat, y.toNat / 2 ^ 32)
      BitVec.ofNat 96 (w.1.toNat + 2 ^ 32 * w.2)
  (z, a.2 || b.2)

/-- A fold of partials in order; an absent one changes nothing. Entries add exactly, and the range limit holds for the
total (R324). -/
def CView.foldAll (v : CView) (l : List (BitVec 96 × Bool)) : BitVec 96 × Bool :=
  match l with
  | [] => (0, false)
  | x :: t =>
    if v.red = 1 then
      (s96Enc (l.foldl (fun a y => mergeSt a (s96Of y.1).1) 0) (l.foldl (fun a y => a + (s96Of y.1).2) 0), l.any (·.2))
    else t.foldl v.fold2 x

/-- The own device partial, or the own input. -/
def ownVal (v : CView) (k : Coll) (e : Nat) : BitVec 96 × Bool := peerVal k 7 v.r e

/-- The group partial of an element, members in ascending order. -/
def groupVal (v : CView) (k : Coll) (e : Nat) : BitVec 96 × Bool :=
  v.foldAll ((List.range v.sz).map (fun p => if p = v.pos then ownVal v k e else peerVal k 0 (v.q * v.sz + p) e))

/-- The whole reduction of an element of the own shard, groups in ascending order. -/
def shardVal (v : CView) (k : Coll) (e : Nat) : BitVec 96 × Bool :=
  v.foldAll ((List.range v.gn).map (fun g => if g = v.q then groupVal v k e else peerVal k 1 (g * v.sz + v.pos) e))

/-- The largest code of an agreement or of a block here: own, and those of the phases delivered. -/
def codeVal (v : CView) (k : Coll) (own : Nat) (phases : List Nat) (e : Nat) : Nat :=
  k.peers.foldl (fun a d => if phases.contains d.phase && d.rank != v.r then max a (mapGet 0 d.elems e).toNat else a) own

/-- The own code of an agreement sequence (R326, R372). -/
def seqCode (k : Coll) : Nat := k.prepass.foldl (fun a p => max a p.code) (k.own.getD 0)

/-- The value sent for an element key in a phase toward a rank. -/
def sendVal (v : CView) (k : Coll) (p e dest : Nat) : BitVec 96 × Bool :=
  let n := v.d.count
  let b := n / (max v.ms.length 1)
  let code := fun (c : Nat) => ((BitVec.ofNat 96 c : BitVec 96), false)
  if v.red = 5 then code (codeVal v k (seqCode k) (List.range p) 0)
  else if p = 4 then code (ownVal8 v k e)
  else if p = 5 then code (codeVal v k (ownVal8 v k e) [4] e)
  else match v.d.op with
    | 2 =>
      let j := e / (max n 1)
      let g := j % (max v.gn 1)
      if j / (max v.gn 1) = v.pos && g != v.q then peerVal k 2 (g * v.sz + v.pos) e else ownVal v k (e % (max n 1))
    | 3 =>
      if p = 0 then ownVal v k ((e / (max b 1) * v.sz + dest % v.sz) * b + e % (max b 1))
      else
        let src := e / (max b 1)
        let g := dest / (max v.sz 1)
        if src = v.pos then ownVal v k (dest * b + e % (max b 1))
        else peerVal k 0 (v.q * v.sz + src) (g * b + e % (max b 1))
    | 4 => if v.r = v.d.root then ownVal v k e else peerVal k 2 v.d.root e
    | _ =>
      if p = 0 then ownVal v k e
      else if p = 1 then groupVal v k e
      else if p = 2 then shardVal v k e
      else
        let g := e / (max v.len 1) % (max v.gn 1)
        if g = v.q then shardVal v k e else peerVal k 2 (g * v.sz + v.pos) e
where
  /-- The own code of a block. -/
  ownVal8 (v : CView) (k : Coll) (e : Nat) : Nat := (peerVal k 8 v.r e).1.toNat

/-! ## Packets -/

/-- The check word of an integrity unit's agreement: that of the descriptor it stands for (R372). -/
def stepCheck : Nat := dchk (leBytes 16 7 ++ leBytes 5 1 ++ leBytes 43 0)

/-- The agree descriptor that declares a sequence. -/
def declarer (s : State) (k : Coll) : Option Coll :=
  s.colls.find? (fun c => declares c k)

/-- The own check word of a collective or sequence, once it is known. -/
def ownCheck (s : State) (k : Coll) : Option Nat :=
  if k.own.isSome then some stepCheck else
  match k.contribs with
  | c :: _ => some (dchk c.desc)
  | [] => match declarer s k with
    | some c => (c.contribs.head?).map (fun e => dchk e.desc)
    | none => none

/-- Whether a schedule entry names a node (R329). -/
def scheduled (s : State) (node : Nat) : Bool :=
  (List.range 36).any (fun p => (List.range 64).any (fun e =>
    fbit s F.SLOT_ENT_B.VALID p e && fget s F.SLOT_ENT_B.NEIGH p e == node))

/-- The payload of a data or agreement packet (log entry 17). -/
def collPayload (k : Coll) (times : DWord × Nat × DWord) (check phase width lo : Nat) (vals : List (BitVec 96)) : List Byte :=
  leBytes 4 k.seq.toNat ++ leBytes 8 k.step.toNat ++ leBytes 1 phase ++ leBytes 1 width ++ leBytes 2 0 ++
    leBytes 4 check ++ leBytes 8 times.1.toNat ++ leBytes 2 times.2.1 ++ leBytes 8 times.2.2.toNat ++ leBytes 2 0 ++
    leBytes 8 lo ++ (vals.map (fun (x : BitVec 96) => leBytes width x.toNat)).flatten

/-- The virtual channel that carries a phase toward a node (R329). -/
def CView.channel (v : CView) (s : State) (p node : Nat) : Nat :=
  if !(v.red == 5 || p == 4 || p == 5) && v.d.op != 6 && bitAt v.d.flags 0 && scheduled s node then 1 else 2

/-- The packets of one phase toward one rank, or of one segment of it. -/
def sendPhaseTo (v : CView) (k : Coll) (p : Nat) (x : Nat × Nat × Nat) (s : State) : State :=
  let node := v.ms.getD x.1 0
  let codes := v.red == 5 || p == 4 || p == 5
  let w := v.wireBytes p
  let vc := v.channel s p node
  let keys := (List.range (x.2.2 - x.2.1)).map (· + x.2.1)
  let groups := if keys.isEmpty then [[]] else chunksOf 500 (keys.length + 1) keys
  groups.foldl (fun a g =>
    let vals := g.map (fun e => sendVal v k p e x.1)
    let bad := vals.map (·.2)
    sendData (if codes then 3 else 2) vc node k.cctx
      (collPayload k (collTimes s k) ((ownCheck s k).getD 0) p w (g.headD x.2.1) (vals.map (·.1)))
      (fun i => 48 ≤ i && bad.getD ((i - 48) / (max w 1)) false)
      (if p = 1 && v.red < 4 && 1 < v.gn then some (v.d.stage + w * (g.headD x.2.1 - (v.inShard v.pos).1), 48) else none) a) s

/-- A collective changed by its names. -/
def setColl (k : Coll) (s : State) : State := modColl k.cctx k.seq k.step k.slot (fun _ => k) s

/-! ## Inputs (R321, R323 to R325) -/

/-- Bits of an input element. -/
def CView.inBits (v : CView) : Nat :=
  match v.d.kinds % 4 with
  | 0 => (match fmtOf v.d.ifmt with | some f => f.elem.bits | none => 32)
  | 1 => 96
  | _ => 128

/-- The input elements of a contributor with their poison. -/
def readInput (s : State) (k : Coll) (v : CView) (c : Contrib) : List (Nat × Bool) :=
  let w := v.inBits / 8
  let row := ((linePieces (collDescOf c.desc).inAddr (v.d.count * w)).map (fun p =>
    let g := stepBytes s k.slot k.step p.1 p.2
    g.1.map (fun b => (b, g.2)))).flatten
  (chunksOf w (row.length + 1) row).map (fun (e : List (Byte × Bool)) => (ofLE (e.map (·.1)), e.any (·.2)))

/-- The contributors in rank order (R321). -/
def rankedContribs (k : Coll) : List Contrib := sortKey (fun c => c.home * 2 ^ 32 + c.taskId.toNat) k.contribs

/-- The finite value of an input element of `IKIND` 0. -/
def CView.num (v : CView) (code : Nat) : Num := decodeElem (match fmtOf v.d.ifmt with | some f => f.elem | none => .fp32) code

/-- The code of a block over contributors' inputs (R324). -/
def blockCode (v : CView) (ins : List (List (Nat × Bool))) (b : Nat) : Nat :=
  let top := ins.foldl (fun (a : Option Int) row => ((row.drop (32 * b)).take 32).foldl (fun (a : Option Int) x =>
    match v.num x.1 with
    | .fin _ m e => maxOpt a (some (expOf m e))
    | _ => a) a) none
  match top with | some x => (x + 127).toNat | none => 0

/-- An input element as a partial. -/
def CView.lift (v : CView) (anchor : Int) (lidx e code : Nat) : BitVec 96 :=
  match v.red with
  | 0 => BitVec.ofNat 96 (round32 (v.num code)).toNat
  | 1 => if v.d.kinds % 4 = 1 then s96Enc (s96Of (BitVec.ofNat 96 code)).1 (s96Of (BitVec.ofNat 96 code)).2
         else s96Enc (numSt (v.num code)) (alignNum anchor (v.num code))
  | 4 => BitVec.ofNat 96 code
  | _ =>
    if v.d.kinds % 4 = 2 then BitVec.ofNat 96 (code % 2 ^ 72)
    else
      let w := if v.d.ifmt = 0 then code % 2 ^ 32 else (round32 (v.num code)).toNat
      BitVec.ofNat 96 (w + 2 ^ 32 * ((lidx + e) % 2 ^ 40))

/-- The device partial of each element: for an FP32 fold die by die, contributors in rank order; for an anchored sum exact
over the contributors (R323, R324). -/
def devicePartials (s : State) (k : Coll) (v : CView) (anchor : Nat → Int) : List (BitVec 96 × Bool) :=
  let cs := rankedContribs k
  let rows := cs.map (fun c => (c, readInput s k v c))
  let die := fun (c : Contrib) => match ctxOf s k.slot with | some x => dieOfL x c.home | none => 0
  (List.range v.d.count).map (fun e =>
    let at_ := fun (x : Contrib × List (Nat × Bool)) =>
      let g := x.2.getD e (0, false)
      (v.lift (anchor (e / 32)) (collDescOf x.1.desc).lidx e g.1, g.2)
    match v.red with
    | 0 =>
      v.foldAll ((List.range 8).filterMap (fun d =>
        let mine := rows.filter (fun (x : Contrib × List (Nat × Bool)) => die x.1 == d)
        if mine.isEmpty then none else some (v.foldAll (mine.map at_))))
    | 1 =>
      let xs := rows.map at_
      let st := xs.foldl (fun a x => mergeSt a (s96Of x.1).1) 0
      let sum := xs.foldl (fun a x => a + (s96Of x.1).2) 0
      (s96Enc st sum, xs.any (·.2))
    | _ => v.foldAll (rows.map at_))

/-- Own data kept with a collective. -/
def keepOwn (phase r : Nat) (check : Nat) (stamp : DWord) (vals : List (BitVec 96 × Bool)) (k : Coll) : Coll :=
  { k with peers := k.peers ++ [{
      phase := phase, rank := r, check := check, stamp := stamp, stampRank := r, earliest := stamp
      elems := vals.zipIdx.map (fun (x : (BitVec 96 × Bool) × Nat) => (x.2, x.1.1))
      bad := (vals.zipIdx.filter (fun (x : (BitVec 96 × Bool) × Nat) => x.1.2)).map (fun (x : (BitVec 96 × Bool) × Nat) => (x.2, true)) }] }

/-- The agreed anchor of a block (R324): the largest code − 189. -/
def blockAnchor (v : CView) (k : Coll) (b : Nat) : Int :=
  (codeVal v k (peerVal k 8 v.r b).1.toNat [4, 5] b : Int) - 189

/-! ## Progress (R327) -/

/-- The first poisoned line of the contributors' inputs. -/
def firstBadInput (s : State) (k : Coll) (v : CView) : Nat :=
  let ps := ((k.contribs.map (fun c => linePieces (collDescOf c.desc).inAddr (v.d.count * v.inBits / 8))).flatten)
  match ps.find? (fun p => (stepBytes s k.slot k.step p.1 p.2).2) with
  | some p => p.1 / 64 * 64
  | none => 0

/-- A reduction adds a poisoned contribution (R369): consumed once per collective. -/
def collConsume (k0 : Coll) (v : CView) (s : State) : State :=
  match findColl s k0.cctx k0.seq k0.step with
  | none => s
  | some k =>
    if k.ate || 4 ≤ v.red then s else
    let own := match peerOf k 7 v.r with | some d => !d.bad.isEmpty | none => false
    let far := k.peers.any (fun d => (d.phase == 0 || d.phase == 1) && !d.bad.isEmpty)
    if own || far then
      consume 0 k.slot 2 (if own then firstBadInput s k v else 0) (!own) k.step (setColl { k with ate := true } s)
    else s

/-- Entry bytes of the staging area. -/
def CView.stageBytes (v : CView) : Nat := match v.red with | 0 => 4 | 1 => 12 | _ => 16

/-- Where the phase 0 result goes in the staging area. -/
def CView.stageRange (v : CView) : Nat × Nat :=
  let g := v.inShard v.pos
  (v.d.stage, v.d.stage + v.stageBytes * (g.2 - g.1))

/-- Whether a phase first writes the staging area. -/
def CView.stages (v : CView) (p : Nat) : Bool := p == 1 && v.red < 4 && decide (1 < v.gn)

/-- The phase 0 result written to the staging area, before the rail exchange (R327). -/
def writeStage (v : CView) (k : Coll) (s : State) : State :=
  let g := v.inShard v.pos
  (List.range (g.2 - g.1)).foldl (fun a i =>
    let x := groupVal v k (g.1 + i)
    stepWrite k.slot k.step (v.d.stage + v.stageBytes * i) (leBytes v.stageBytes x.1.toNat) x.2 a) s

/-- The segments of a phase toward one rank: elements whose first byte lies in the same `SEG_KIB` of the stream (R328). -/
def CView.segments (v : CView) (p : Nat) (x : Nat × Nat × Nat) : List (Nat × Nat × Nat × Nat) :=
  let w := max (v.wireBytes p) 1
  let unit := segKib v.d * 1024
  let n := x.2.2 - x.2.1
  (List.range ((n * w + unit - 1) / unit)).map (fun i =>
    (p, x.1, x.2.1 + min n ((i * unit + w - 1) / w), x.2.1 + min n (((i + 1) * unit + w - 1) / w)))

/-- Whether a packet of a segment is still unacknowledged. -/
def segFlying (s : State) (k : Coll) (v : CView) (g : Nat × Nat × Nat × Nat) : Bool :=
  let node := v.ms.getD g.2.1 0
  let key : FlowKey := { src := BitVec.ofNat 14 (ownNode s), dst := BitVec.ofNat 14 node, vc := Fin.ofNat 8 (v.channel s g.1 node), flow := BitVec.ofNat 16 k.cctx }
  let mine := fun (q : Pkt) => q.key.dst == key.dst && q.key.flow == key.flow && wd (getLE q.payload 0 4) == k.seq &&
    dw (getLE q.payload 4 8) == k.step && byteAt q.payload 12 == g.1 && q.ptype == 2 &&
    decide (g.2.2.1 ≤ getLE q.payload 40 8) && decide (getLE q.payload 40 8 < g.2.2.2)
  s.flowsTx.any (fun (e : FlowKey × FlowTx) => e.1.dst == key.dst && e.1.flow == key.flow && (e.2.kept ++ e.2.held).any mine) ||
    s.flowWait.any (fun (e : Pkt × Option Nat) => mine e.1)

/-- The segments of a collective that are granted go out: at most two to one peer in one phase are unacknowledged (R328, log entry
84). -/
def pumpColl (k0 : Coll) (s : State) : State :=
  match findColl s k0.cctx k0.seq k0.step with
  | none => s
  | some k =>
    if k.todo.isEmpty then s else
    let v := collView s k false
    let flying := k.flying.filter (segFlying s k v)
    let r := k.todo.foldl (fun (a : List (Nat × Nat × Nat × Nat) × List (Nat × Nat × Nat × Nat) × List (Nat × Nat × Nat × Nat)) g =>
      if (a.1.filter (fun o => o.1 == g.1 && o.2.1 == g.2.1)).length < 2 && !a.2.1.any (fun o => o.1 == g.1 && o.2.1 == g.2.1) then
        (a.1 ++ [g], a.2.1, a.2.2 ++ [g])
      else (a.1, a.2.1 ++ [g], a.2.2)) (flying, [], [])
    let k1 := { k with flying := r.1, todo := r.2.1 }
    r.2.2.foldl (fun a g => sendPhaseTo v k1 g.1 (g.2.1, g.2.2.1, g.2.2.2) a) (setColl k1 s)

/-- Every collective goes on with the segments it has been granted. -/
def pumpColls (s : State) : State := (s.colls.filter (fun k => !k.todo.isEmpty)).foldl (fun a k => pumpColl k a) s

/-- What the staging write of a phase meets (R187, R195, R207): 0 nothing, 1 a fence that it waits for, 2 a refusal. -/
def stageMeets (s : State) (k : Coll) (v : CView) (p : Nat) : Nat :=
  if !v.stages p then 0 else
  let g := v.stageRange
  if (accessCause s k.slot .coll g.1 (g.2 - g.1)).isSome || hitsHighHalf s [g] then 2
  else if !(fencesOf s k.slot k.step true [g]).isEmpty then 1 else 0

/-- The refusal of a staging write (R188, R195, R332). -/
def refuseStage (k : Coll) (v : CView) (s : State) : State :=
  let g := v.stageRange
  collRefuse k.slot k true (match accessCause s k.slot .coll g.1 (g.2 - g.1) with
    | some (a, cause) => recordAfault a k.slot 2 cause s
    | none => s)

/-- One phase sent if it is due and not yet sent: codes and stamps at once, data in segments. -/
def sendPhase (agree : Bool) (c : Nat) (q : Word) (t : DWord) (s : State) (p : Nat) : State :=
  match findColl s c q t with
  | none => s
  | some k0 =>
    let v := collView s k0 agree
    if k0.sent.contains p || !maySend v k0 p then s else
    match stageMeets s k0 v p with
    | 1 => s
    | 2 => refuseStage k0 v s
    | _ =>
    let k1 := if p = 0 && v.coded && (peerOf k0 7 v.r).isNone then
        keepOwn 7 v.r 0 (collArrival k0) (devicePartials s k0 v (blockAnchor v k0)) k0
      else k0
    let dest := v.sends p
    let codes := v.red == 5 || p == 4 || p == 5 || v.d.op == 6
    let k2 := { k1 with
      sent := k1.sent ++ [p], todo := k1.todo ++ (if codes then [] else (dest.map (v.segments p)).flatten) }
    let s1 := setColl k2 s
    let s2 := if v.stages p then writeStage v k2 s1 else s1
    if codes then dest.foldl (fun a x => sendPhaseTo v k2 p x a) s2 else pumpColl k2 s2

/-- A collective or sequence moves on as far as it can. -/
def collAdvance (agree : Bool) (k : Coll) (s : State) : State :=
  collConsume k (collView s k agree) (phaseOrder.foldl (sendPhase agree k.cctx k.seq k.step) s)

/-! ## Start (R326, R328) -/

/-- Collectives in flight. -/
def collsFlying (s : State) : Nat := (s.colls.filter (fun k => k.started || k.own.isSome)).length

/-- Free working banks of the reduction buffer. -/
def banksFree (s : State) : Nat := min 256 s.banks - s.colls.foldl (fun a k => a + k.banks) 0

/-- A working bank retired for a cause: a spare stands in while more than 256 work (R387). -/
def retireBank (unit cause : Nat) (s : State) : State :=
  let s1 := noteRetired 6 0 unit cause { s with banks := s.banks - 1 }
  if 256 < s.banks then noteSpareIn 6 0 (520 - s.banks) unit cause s1 else noteSparesOut 6 0 (s.banks - 1) s1

/-- Banks ordered out of service leave it while a bank is held by no collective. -/
def settleBanks (s : State) : State :=
  s.bankDue.foldl (fun a n =>
    if 0 < banksFree a then retireBank n 5 { a with bankDue := a.bankDue.drop 1 } else a) s

/-- Whether a collective has its contributors and has not started. -/
def collReady (s : State) (k : Coll) : Bool :=
  !k.contribs.isEmpty && !k.started && ctxState s k.slot == 1 &&
    k.contribs.length == (if (collDesc k).op = 7 then 1 else (collDesc k).localN)

/-- Whether a sequence has its own code and has not been exchanged. -/
def seqReady (s : State) (k : Coll) : Bool :=
  !k.sent.contains 0 && k.agreed.isNone &&
    (k.own.isSome || (match declarer s k with
      | some c => c.started && (collDesc c).localN ≤ k.prepass.length && ctxState s k.slot == 1
      | none => false))

/-- The first input that R187 refuses. -/
def inputFault (s : State) (k : Coll) (v : CView) : Option (Nat × Nat) :=
  if v.d.op = 6 || v.d.op = 7 || (v.d.op = 4 && v.r != v.d.root) then none
  else k.contribs.findSome? (fun c => accessCause s k.slot .coll (collDescOf c.desc).inAddr (v.d.count * v.inBits / 8))

/-- Whether data delivered so far carries another check word (R320). -/
def checkWrong (s : State) (k : Coll) : Bool :=
  match ownCheck s k with
  | some c => k.peers.any (fun d => d.phase < 7 && d.check != c)
  | none => false

/-- The sequences that an agree collective declares opened, so that each is exchanged, with code 0x00 where this device has no
contribution (R326). -/
def openSeqs (k : Coll) (s : State) : State :=
  ((List.range (collDesc k).count).map (fun i => wd (k.seq.toNat + i))).foldl (fun a q =>
    modColl k.cctx q k.step k.slot id a) s

/-- A collective starts: inputs are read, and the first phase goes out. -/
def collGo (k0 : Coll) (banks : Nat) (s : State) : State :=
  let k := { k0 with started := true, banks := banks }
  let v := collView s k false
  let s1 := touchCtx k.slot (setColl k s)
  if checkWrong s k then collRefuse k.slot k true s1 else
  match inputFault s k v with
  | some (a, cause) => collRefuse k.slot k true (recordAfault a k.slot 2 cause s1)
  | none =>
    if v.d.op = 7 then openSeqs k s1
    else
      let stamp := collArrival k
      let k1 := if v.coded then
          let ins := (rankedContribs k).map (readInput s k v)
          keepOwn 8 v.r 0 stamp ((List.range v.blocks).map (fun b => ((BitVec.ofNat 96 (blockCode v ins b) : BitVec 96), false))) k
        else if v.d.op = 6 || (v.d.op = 4 && v.r != v.d.root) then k
        else keepOwn 7 v.r 0 stamp (devicePartials s k v (fun _ => v.d.anchor)) k
      collAdvance false k1 (setColl k1 s1)

/-- Whether an input of a collective waits for an update of the step before (R20, R207). -/
def inputFenced (s : State) (k : Coll) : Bool :=
  let v := collView s k false
  if v.d.op = 6 || v.d.op = 7 || (v.d.op = 4 && v.r != v.d.root) then false
  else !(fencesOf s k.slot k.step false (k.contribs.map (fun c =>
    let a := (collDescOf c.desc).inAddr
    (a, a + v.d.count * v.inBits / 8)))).isEmpty

/-- Whether a started collective waited to write its staging area and may now. -/
def stageResumes (s : State) (k : Coll) : Bool :=
  let v := collView s k false
  k.started && v.stages 1 && !k.sent.contains 1 && k.sent.contains 0 && maySend v k 1 && stageMeets s k v 1 != 1 &&
    ctxState s k.slot == 1

/-- COLLECTIVE_START (R20, R207, R321, R326, R328): an agreement sequence whose code is known is exchanged; else a collective that
waited at a fence goes on; else the first collective in issue order that no fence holds starts, or its wait for a slot or banks is
counted (DESIGN CHOICE, log entry 85). -/
def execCollectiveStart (s : State) : Out :=
  match s.colls.find? (seqReady s) with
  | some k =>
    if checkWrong s k then .next (collRefuse k.slot k true s) else .next (collAdvance true k s)
  | none =>
    match s.colls.find? (stageResumes s) with
    | some k => .next (collAdvance false k s)
    | none =>
    match minBy? (fun k => (collArrival k).toNat) (s.colls.filter (fun k => collReady s k && !inputFenced s k)) with
    | none => .next s
    | some k =>
      let need := (collBytes (collMembers s k) (collDesc k) + 131071) / 131072
      if collsFlying s < 256 && need ≤ banksFree s then .next (collGo k need s)
      else if k.waited then .next s
      else .next (setColl { k with waited := true } (fbump F.COL_WAIT.COUNT 0 0 s))

/-! ## Delivery (R312, R320) -/

/-- A data or agreement packet delivered: discarded where its context is not bound or its collective has completed. -/
def collDeliver (pk : Pkt) (s : State) : State :=
  let c := pk.key.flow.toNat
  let b := pk.payload
  let drop := fbump F.COL_DROP.COUNT 0 0 s
  match mapFind s.cctxs c with
  | none => drop
  | some x =>
    let q := wd (getLE b 0 4)
    let t := dw (getLE b 4 8)
    let node := pk.key.src.toNat
    let past := match ctxOf s x.slot with
      | some y => (match y.committed with | some m => decide (t.toNat ≤ m.toNat) | none => false)
      | none => true
    if past || !x.members.contains node || s.collsDone.any (fun e => e.1 == x.slot && e.2.1 == t && e.2.2.1 == c && e.2.2.2 == q) then drop
    else
      let p := byteAt b 12
      let w := max (byteAt b 13) 1
      let r := rankOf x.members node
      let lo := getLE b 40 8
      let vals := chunksOf w (b.length + 1) (b.drop 48)
      let put := fun (d : PeerData) =>
        { d with
          elems := vals.zipIdx.foldl (fun (a : SMap (BitVec 96)) (e : List Byte × Nat) => mapPut a (lo + e.2) (BitVec.ofNat 96 (ofLE e.1))) d.elems
          bad := vals.zipIdx.foldl (fun (a : SMap Bool) (e : List Byte × Nat) => if payloadPoison pk (48 + w * e.2) w then mapPut a (lo + e.2) true else a) d.bad
          check := getLE b 16 4, stamp := dw (getLE b 20 8), stampRank := getLE b 28 2, earliest := dw (getLE b 30 8) }
      let fresh : PeerData :=
        { phase := p, rank := r, elems := [], bad := [], check := 0, stamp := 0, stampRank := r, earliest := 0 }
      let s1 := modColl c q t x.slot (fun k =>
        if (peerOf k p r).isSome then
          { k with peers := k.peers.map (fun d => if d.phase == p && d.rank == r then put d else d) }
        else { k with peers := k.peers ++ [put fresh] }) s
      match findColl s1 c q t with
      | none => s1
      | some k =>
        if checkWrong s1 k then collRefuse k.slot k true s1
        else
          let agree := k.own.isSome || k.contribs.isEmpty || (collDesc k).op == 7
          if (agree && k.sent.contains 0) || (!agree && k.started) then collAdvance agree k s1 else s1

/-! ## Agreements (R326) -/

/-- The agreed code of a sequence, once every phase has been sent and delivered. -/
def agreedCode (s : State) (k : Coll) : Option Nat :=
  let v := collView s k true
  if (List.range 4).all (fun p => k.sent.contains p && gotPhase v k p) then some (codeVal v k (seqCode k) (List.range 4) 0)
  else none

/-- A pre-pass contribution gets the agreed code, in the image of its task where that is saved (R396). -/
def agreePrepass (code : Nat) (s : State) (e : Agreer) : State :=
  let mine := fun (k : Core) => k.run.bind (fun r => r.prepasses.find? (fun p => p.tile == e.tile && p.slot == e.slot && p.code.isSome))
  match e.saved with
  | some n =>
    match mapFind s.saves n with
    | some im => (match mine im with
      | some p => { s with saves := mapPut s.saves n (prepassEnd p code im) }
      | none => s)
    | none => s
  | none => match mine (coreOf s e.core) with
    | some p => finishPrepass e.core p code s
    | none => s

/-- AGREEMENT_COMPLETE (R101, R326): the code of a sequence is known to every member; the slots of its pre-passes complete,
and the step keeps the code for a MANCH that is issued again. -/
def execAgreementComplete (cctx : BitVec 10) (seq : Word) (step : DWord) (s : State) : Out :=
  match findColl s cctx.toNat seq step with
  | none => .next s
  | some k =>
    if isStepSeq seq || k.agreed.isSome then .next s else
    match agreedCode s k with
    | none => .next s
    | some code =>
      let s1 := modStep k.slot k.step (fun e => { e with agreed := (k.cctx, k.seq, code) :: e.agreed }) s
      .next (k.prepass.foldl (agreePrepass code) (setColl { k with agreed := some code, prepass := [] } s1))

/-! ## Completion (R322, R330, R331, R367) -/

/-- One output element: position, bytes, tally bits, whether it is non-finite, poison, whether this member owns it. -/
structure OutEl where
  at_ : Nat
  bytes : List Byte
  bits : Nat
  nf : Bool
  bad : Bool
  owned : Bool
  deriving DecidableEq, Repr

/-- An output element of a reduction (R323 to R325). -/
def CView.outRed (v : CView) (k : Coll) (e : Nat) (x : BitVec 96 × Bool) (owned : Bool) : OutEl :=
  let f := match fmtOf v.d.ofmt with | some f => f.elem | none => .fp32
  let enc := fun (n : Num) =>
    let c := encodeElem f .rne n
    { at_ := e, bytes := leBytes (f.bits / 8) c, bits := c, nf := n.special, bad := x.2, owned := owned }
  match v.red with
  | 0 => enc (decode32 (wd x.1.toNat))
  | 1 =>
    if v.d.kinds / 4 % 4 = 1 then
      { at_ := e, bytes := leBytes 12 x.1.toNat, bits := x.1.toNat, nf := (s96Of x.1).1 != 0, bad := x.2, owned := owned }
    else enc (s96Num x.1 (if v.coded then blockAnchor v k (e / 32) else v.d.anchor))
  | _ =>
    let w := pairBits (wd x.1.toNat)
    let i := x.1.toNat / 2 ^ 32 % 2 ^ 40
    { at_ := e, bytes := leBytes 4 w.toNat ++ leBytes 5 i ++ leBytes 7 0, bits := w.toNat ^^^ (i * 2 ^ 24)
      nf := (decode32 w).special, bad := x.2, owned := owned }

/-- The reduced value of an element as this member holds it. -/
def reducedVal (v : CView) (k : Coll) (e : Nat) : BitVec 96 × Bool :=
  let j := e / (max v.len 1)
  let p := j / (max v.gn 1)
  let g := j % (max v.gn 1)
  if p != v.pos then peerVal k 3 (v.q * v.sz + p) e
  else if g = v.q then shardVal v k e
  else peerVal k 2 (g * v.sz + v.pos) e

/-- An output element that is moved and not reduced. -/
def CView.outMove (v : CView) (e : Nat) (x : BitVec 96 × Bool) (owned : Bool) : OutEl :=
  let f := match fmtOf v.d.ifmt with | some f => f.elem | none => .fp32
  { at_ := e, bytes := leBytes (f.bits / 8) x.1.toNat, bits := x.1.toNat, nf := (decodeElem f x.1.toNat).special
    bad := x.2, owned := owned }

/-- The output of this member, in memory order (R322). -/
def collOutput (v : CView) (k : Coll) : List OutEl :=
  let n := v.d.count
  let b := n / (max v.ms.length 1)
  match v.d.op with
  | 0 => (List.range n).map (fun e => v.outRed k e (reducedVal v k e) (v.own.1 ≤ e && e < v.own.2))
  | 1 => (List.range (v.own.2 - v.own.1)).map (fun i => v.outRed k (v.own.1 + i) (shardVal v k (v.own.1 + i)) true)
  | 5 => if v.r = v.d.root then (List.range n).map (fun e => v.outRed k e (reducedVal v k e) true) else []
  | 2 => ((List.range v.ms.length).map (fun r => (List.range n).map (fun e =>
      let j := r % v.sz * v.gn + r / v.sz
      let x := if r = v.r then ownVal v k e
        else if r % v.sz = v.pos then peerVal k 2 r (j * n + e)
        else peerVal k 3 (v.q * v.sz + r % v.sz) (j * n + e)
      v.outMove (r * n + e) x (r == v.r)))).flatten
  | 3 => ((List.range v.ms.length).map (fun r => (List.range b).map (fun e =>
      let x := if r = v.r then ownVal v k (v.r * b + e)
        else if r / v.sz = v.q then peerVal k 0 r (v.q * b + e)
        else peerVal k 1 (r / v.sz * v.sz + v.pos) (r % v.sz * b + e)
      v.outMove (r * b + e) x (r == v.r)))).flatten
  | 4 => (List.range n).map (fun e =>
      let x := if v.r = v.d.root then ownVal v k e
        else if v.pos = v.root.2 then peerVal k 2 v.d.root e
        else peerVal k 3 (v.q * v.sz + v.root.2) e
      v.outMove e x (v.r == v.d.root))
  | _ => []

/-- The slowest member counted, and SLOW_PEER at the end of each run of 1,024 (R331, R367). -/
def countSlow (node : Nat) (s : State) : State :=
  let own := ownNode s
  let key := if node / 32 = own / 32 then node % 32 else 32
  let s1 := if key < 32 then fbump F.COL_SLOW.COUNT key 0 s else fbump F.COL_SLOW_OUT.COUNT 0 0 s
  let seen := mapPut s1.slowIn key (mapGet 0 s1.slowIn key + 1)
  if s1.slowRun + 1 < 1024 then { s1 with slowRun := s1.slowRun + 1, slowIn := seen }
  else
    let lim := fget s1 F.FLT_CFG.SLOW_PER1K
    seen.foldl (fun a (e : Nat × Nat) =>
      if lim = 0 || e.2 ≤ lim || e.1 = own % 32 then a
      else sendEvent 0 0x08 3 (det [(if e.1 = 32 then 0xFFFF else own / 32 * 32 + e.1, 2), (e.2, 2)]) none a)
      { s1 with slowRun := 0, slowIn := [] }

/-- The results of a collective written and tallied; none where a write is refused. -/
def collWrite (v : CView) (k : Coll) (out : List OutEl) (s : State) : State :=
  let f := rankedContribs k
  let d := match f with | c :: _ => collDescOf c.desc | [] => v.d
  let w := (out.headD ⟨0, [], 0, false, false, false⟩).bytes.length
  let s1 := out.zipIdx.foldl (fun a (x : OutEl × Nat) => stepWrite k.slot k.step (d.outAddr + w * x.2) x.1.bytes x.1.bad a) s
  let s2 := if out.isEmpty then s1 else dropResident k.slot [(d.outAddr, d.outAddr + w * out.length)] s1
  if !bitAt v.d.flags 1 then s2
  else
    let acc := (out.filter (·.owned)).foldl (fun (a : TensorAcc) x =>
      let i := (d.lidx + x.at_) % 2 ^ 40
      a.add (tallyTerm d.tag i x.bits) (if x.nf then some i else none) x.bad (declaredBlock s k.slot d.tag i)) TensorAcc.empty
    stepTally k.slot k.step [(d.tag, acc)] s2

/-- A completed collective: records, counts, and update descriptors of trigger kind 0 (R330, R331, R203). -/
def collEnd (k : Coll) (flags : Nat) (first : Option Nat) (s : State) : State :=
  let recd := collRecord s k flags stOk first
  let slow := collTimes s k
  let node := (collMembers s k).getD slow.2.1 0
  let seqs := if (collDesc k).op = 7 then (List.range (collDesc k).count).map (fun i => wd (k.seq.toNat + i)) else [k.seq]
  let s1 := { s with
    colls := s.colls.filter (fun e => !(e.cctx == k.cctx && e.step == k.step && (e.seq == k.seq || seqs.contains e.seq)))
    collsDone := s.collsDone ++ (k.seq :: seqs).eraseDups.map (fun q => (k.slot, k.step, k.cctx, q)) }
  let s2 := constFails (constRecords s k) (k.contribs.foldl (fun a c => giveRecord recd false c a) s1)
  settleBanks (fireWhere k.slot k.step (fun b => byteAt b 3 == 0 && getLE b 34 2 == k.cctx && getLE b 36 4 == k.seq.toNat)
    (touchCtx k.slot (countSlow node s2)))

/-- Whether a started collective has all it needs. -/
def collDone (s : State) (k : Coll) : Bool :=
  if (collDesc k).op = 7 then
    (List.range (collDesc k).count).all (fun i =>
      match findColl s k.cctx (wd (k.seq.toNat + i)) k.step with | some e => e.agreed.isSome | none => false)
  else
    let v := collView s k false
    k.todo.isEmpty && phaseOrder.all (fun p => gotPhase v k p && k.sent.contains p)

/-- Where a collective's results go: start and end. -/
def outRange (k : Coll) (out : List OutEl) : Nat × Nat :=
  let a := match rankedContribs k with | c :: _ => (collDescOf c.desc).outAddr | [] => 0
  (a, a + (out.headD ⟨0, [], 0, false, false, false⟩).bytes.length * out.length)

/-- A collective whose results are visible: its record, and the rest of its completion (R330). -/
def collFinish (v : CView) (k0 : Coll) (out : List OutEl) (s : State) : State :=
  match findColl s k0.cctx k0.seq k0.step with
  | none => s
  | some k =>
    let nf := out.filter (fun x => x.owned && x.nf)
    let d := match rankedContribs k with | c :: _ => collDescOf c.desc | [] => v.d
    let first := nf.foldl (fun (a : Option Nat) x => minOpt a (some ((d.lidx + x.at_) % 2 ^ 40))) none
    let flags := b2n (out.any (·.bad)) + 2 * b2n (decide (0 < k.resent)) + 4 * b2n (!nf.isEmpty) + 8 * b2n k.offSched
    collEnd k flags first s

/-- COLLECTIVE_COMPLETE (R195, R207, R322 to R331, R343): results, tallies and records; a fenced write waits, one that waits
for a page keeps the collective open, a refused one ends the collective with BAD_PARAM. -/
def execCollectiveComplete (cctx : BitVec 10) (seq : Word) (step : DWord) (s : State) : Out :=
  match findColl s cctx.toNat seq step with
  | none => .next s
  | some k =>
    if !k.started || !collDone s k || ctxState s k.slot != 1 then .next s else
    let v := collView s k false
    let out := collOutput v k
    let g := outRange k out
    if k.wrote then .next (if devWaits s g.1 (g.2 - g.1) then s else collFinish v k out s) else
    match accessCause s k.slot .coll g.1 (g.2 - g.1) with
    | some (a, cause) => .next (collRefuse k.slot k true (recordAfault a k.slot 2 cause s))
    | none =>
      if hitsHighHalf s [g] then .next (collRefuse k.slot k true s)
      else if !out.isEmpty && !(fencesOf s k.slot k.step true [g]).isEmpty then .next s
      else
        let s1 := collWrite v k out (collConsume k v s)
        if devWaits s1 g.1 (g.2 - g.1) then .next (modColl cctx.toNat seq step k.slot (fun c => { c with wrote := true }) s1)
        else .next (collFinish v k out s1)

/-! ## Aborts (R314, R332) -/

/-- COLL_ABORT_RECEIVE (R332): the collective ends with TERMINATED, the abort goes on to the own group, and the context
halts. -/
def execCollAbortReceive (body : List Byte) (s : State) : Out :=
  let c := getLE body 2 2
  let q := wd (getLE body 4 4)
  let t := dw (getLE body 8 8)
  match mapFind s.cctxs c with
  | none => .next (fbump F.COL_DROP.COUNT 0 0 s)
  | some x =>
    let open_ := findColl s c q t
    let done := s.collsDone.any (fun e => e.1 == x.slot && e.2.1 == t && e.2.2.1 == c && e.2.2.2 == q)
    let past := match ctxOf s x.slot with
      | some y => (match y.committed with | some m => decide (t.toNat ≤ m.toNat) | none => false)
      | none => true
    if open_.isNone && (done || past || ctxState s x.slot != 1) then .next (fbump F.COL_DROP.COUNT 0 0 s)
    else
      let k := open_.getD (Coll.fresh c q t x.slot)
      let group := x.members.filter (fun n => n / 32 == ownNode s / 32)
      .next (haltCtx x.slot (endColl stTerminated (getLE body 18 2) group k s))

/-- DEST_UNREACHABLE (R314, R332, R354): messages to the node fail their tasks, collectives that include it end, and
streams to it are lost. -/
def execDestUnreachable (node : NodeId) (s : State) : Out :=
  let n := node.toNat
  let busy := s.flowsTx.any (fun (e : FlowKey × FlowTx) => e.1.dst == node && !(e.2.kept.isEmpty && e.2.held.isEmpty))
  let lost := (route s n true { src := BitVec.ofNat 14 (ownNode s), dst := node, vc := 2, flow := 0 }).isNone
  if n = ownNode s || !(busy || lost) then .next s else
  let s1 := sendEvent 0 0x08 2 (det [(n, 2)]) none s
  let flows := s1.flowsTx.map (fun (e : FlowKey × FlowTx) =>
    if e.1.dst == node then (e.1, { e.2 with kept := [], held := [], pathDue := false }) else e)
  let s2 := { s1 with flowsTx := flows, flowWait := s1.flowWait.filter (fun (e : Pkt × Option Nat) => e.1.key.dst != node) }
  let ms := s2.msgOut.filter (fun (m : MsgOut) => m.dst == n)
  let s3 := ms.foldl (fun (a : State) (m : MsgOut) =>
    let b := { a with msgOut := a.msgOut.filter (fun (e : MsgOut) => e.id != m.id) }
    match m.saved with
    | none => taskFail m.core 9 0 b
    | some i => savedFail i 9 b) s2
  let hit := s3.colls.filter (fun (k : Coll) => (collMembers s3 k).contains n)
  let s4 := hit.foldl (fun (a : State) (k : Coll) =>
    if (findColl a k.cctx k.seq k.step).isNone then a
    else haltCtx k.slot (endColl stTerminated (ownNode a) ((collMembers a k).filter (· != n)) k a)) s3
  .next ((List.range 64).foldl (fun (a : State) c => match ctxOf a c with
    | some x => (match x.stream with
      | some m => if m.started && !m.toFile && m.buddy == n then ckptLost c a else a
      | none => a)
    | none => a) s4)

end Sys2Proof.Machine
end

