-- ==== Sys2Proof/Machine/Steps.lean ====
section
/-! DEFINITION. Steps: begin, record and commit, the step close and its agreement, replay, and audit comparison (R20, R40 to
R43, R161, R162, R244, R368, R372 to R379, R382, R383). -/

namespace Sys2Proof.Machine

/-! ## Posts (R160, R162, R374) -/

/-- A posted task of a step. -/
def postedTask (slot : Nat) (t : DWord) (d : TaskDesc × Option Nat) : Task :=
  { desc := d.1, slot := slot, step := t, home := d.1.target, tried := [], saved := none, poison := d.2.isSome, posted := true }

/-- Posts placed in their queues, in post order; descriptors read with poison are consumed by the task fabric (R369). -/
def enqueuePosts (slot : Nat) (ps : List Post) (s : State) : State :=
  let s1 := ps.foldl (fun a p => p.tasks.foldl (fun b d => placeTask slot d.1.target false (postedTask slot p.step d) b) a) s
  let die := fun (l : Nat) => match ctxOf s slot with | some x => dieOfL x l | none => 0
  ps.foldl (fun a p => p.tasks.foldl (fun b d => match d.2 with
    | some addr => consume (die d.1.target) slot 5 (addr / 64 * 64) false p.step b
    | none => b) a) s1

/-- The posts of a step. -/
def postsOf (s : State) (slot : Nat) (t : DWord) : List Post :=
  match ctxOf s slot with | some x => x.posts.filter (fun p => p.step == t) | none => []

/-! ## What is still to do in a step -/

/-- Whether a core runs a task of step `t` of a context, audits included. -/
def coreOnStep (slot : Nat) (t : DWord) (k : Core) : Bool :=
  (match k.run with | some r => r.task.slot == slot && r.task.step == t | none => false) ||
    (match k.probe with
      | some p => (match p.reply with | some (some u) => u.slot == slot && u.step == t | _ => false)
      | none => false)

/-- Whether a task of step `t` has not passed END: queued, gated, in the overflow ring, on its way, or running (R162). -/
def tasksLeft (s : State) (slot : Nat) (t : DWord) : Bool :=
  (match ctxOf s slot with
    | some x =>
      x.queues.any (fun (e : Nat × List Task) => e.2.any (fun u => u.step == t)) ||
        x.overflow.any (fun (e : Nat × List Task) => e.2.any (fun u => u.step == t)) ||
        x.gated.any (fun g => g.1.step == t)
    | none => false) ||
    s.cores.any (fun (e : Nat × Core) => coreOnStep slot t e.2)

/-- Whether a collective that this device has issued in step `t` is open. -/
def collsLeft (s : State) (slot : Nat) (t : DWord) : Bool :=
  s.colls.any (fun k => k.slot == slot && k.step == t && !k.contribs.isEmpty)

/-- Whether an update or a front stage of step `t` is still to complete (R20, R236). -/
def unitsLeft (s : State) (slot : Nat) (t : DWord) : Bool :=
  (ctxUpds s slot).any (fun u => u.2.2.armed == t) ||
    (ctxSolvs s slot).any (fun e =>
      let v := solvOf e.2.2.bytes
      v.front && v.step ≤ t.toNat && !e.2.2.removing && !(solverOf s e.1).doneFront.contains (e.2.1, t))

/-! ## Begin (R40, R161, R244, R345) -/

/-- The next step of a context to begin. -/
def nextStep (x : Ctx) : Option StepSt := minBy? (fun e => e.num.toNat) (x.steps.filter (fun e => !e.begun))

/-- Whether a step may begin: its context runs, the step before the last one has committed, and no replay is on its way
(R161, R374). -/
def beginReady (s : State) (slot : Nat) (x : Ctx) (e : StepSt) : Bool :=
  ctxState s slot == 1 && !x.terminated && x.steps.all (fun o =>
    e.num.toNat ≤ o.num.toNat || (o.begun && o.num + 1 == e.num && !o.replaying && !o.replayed))

/-- What R244 gives a descriptor at the begin of step `t`: none before its first solution is due; the statistics step that
becomes current with the consecutive reuses, or `none` inside where the step must wait. -/
def solvCurrent (fast : Bool) (t : DWord) (d : SolvDesc) : Option (Option (DWord × Nat)) :=
  let v := solvOf d.bytes
  if d.removing || t.toNat < d.base.toNat + v.stale then none else
  let want := t - dw v.stale
  if want.toNat < d.next.toNat then some (some (want, 0))
  else if fast && v.reuseOk && d.current.isSome && d.reuses < v.maxReuse && d.base.toNat < d.next.toNat then
    some (some (d.next - 1, d.reuses + 1))
  else some none

/-- The solver descriptors of a context that hold back the begin of a step: die and number. -/
def solvStalls (s : State) (slot : Nat) (t : DWord) : List (Nat × Nat) :=
  (ctxSolvs s slot).filterMap (fun e => match solvCurrent (!portable s slot) t e.2.2 with
    | some none => some (e.1, e.2.1)
    | _ => none)

/-- The time at which a descriptor's stall began is noted once. -/
def noteStall (s : State) (w : Nat × Nat) : State :=
  modSolver w.1 (fun o => match mapFind o.descs w.2 with
    | some d => { o with descs := mapPut o.descs w.2 { d with stallFrom := some (d.stallFrom.getD s.time.now) } }
    | none => o) s

/-- One descriptor at the begin of a step: the stall counted, the reuse counted, the current word written (R243, R244). -/
def solvBegin (slot : Nat) (t : DWord) (s : State) (e : Nat × Nat × SolvDesc) : State :=
  let d := e.2.2
  let s1 := match d.stallFrom with
    | some f => fbumpBy F.SOLV_STALL.US e.1 0 ((s.time.now.toNat - f.toNat) / 16000) s
    | none => s
  match solvCurrent (!portable s slot) t d with
  | some (some (c, n)) =>
    let d1 := { d with current := some c, reuses := n, curs := d.curs ++ [(t, c, n)], stallFrom := none }
    let s2 := modSolver e.1 (fun o => { o with descs := mapPut o.descs e.2.1 d1 }) s1
    let s3 := if 0 < n then modStep slot t (fun e => { e with solverReuse := true }) (fbump F.SOLV_REUSE.COUNT e.1 0 s2) else s2
    stepWrite slot t (solvOf d.bytes).curAddr (leBytes 8 c.toNat) false s3
  | _ => modSolver e.1 (fun o => { o with descs := mapPut o.descs e.2.1 { d with stallFrom := none } }) s1

/-- Register writes that wait for a step begin take effect (R40, R232). -/
def applyPending (slot : Nat) (s : State) : State :=
  match ctxOf s slot with
  | none => s
  | some x => x.pendingRegs.foldl (fun a w => match regAt w.1 with
      | some (r, i, j) => rset r i j (if r = .RNG_STAT then rget a r i j &&& ~~~ w.2 else w.2) a
      | none => a) (setCtx slot { x with pendingRegs := [] } s)

/-- Slots of a context's record ring (R40): values 0 to 7 of `SLOTS_LOG2` act as 8. -/
def ringLog (s : State) (slot : Nat) : Nat := max 8 (fget s F.RPR_CFG.SLOTS_LOG2 slot)

/-- Whether the whole record ring lies in compute-plane granules of the context (R40). -/
def ringOk (s : State) (slot : Nat) : Bool :=
  (accessCause s slot .mover (fget s F.RPR_TLY_BASE.ADDR slot * 4096) (64 * 2 ^ ringLog s slot)).isNone

/-- The ring judged where one of its registers has just taken effect (R40). -/
def judgeRing (slot : Nat) (offs : List Nat) (s : State) : State :=
  if !(offs.contains (regOff .RPR_CFG slot 0) || offs.contains (regOff .RPR_TLY_BASE slot 0)) then s else
  let ok := ringOk s slot
  let s1 := modCtx slot (fun x => { x with ringBad := !ok }) s
  if ok then s1 else fset F.RPR_STAT.ADDR_FAULT slot 0 1 s1

/-- The tally settings and the ranges of a step that begins; a REPLAY command for the step sets the level and the stop tag
(R40, R45). -/
def beginStep (s : State) (slot : Nat) (x : Ctx) (e : StepSt) : StepSt :=
  let lvl := min 2 (fget s F.RPR_CFG.TLY_LEVEL slot)
  let rs := match x.replaySet with
    | some r => if r.step == e.num then some r else none
    | none => none
  { e with
    begun := true, stampBegin := stampAt s 0, tlyOn := fbit s F.RPR_CFG.TLY_EN slot && !x.ringBad
    tlyLevel := match rs with | some r => r.level | none => lvl
    stopTag := match rs with | some r => r.stop | none => none
    tlyBase := fget s F.RPR_TLY_BASE.ADDR slot * 4096, tlyLog := ringLog s slot
    heldRanges := stepHoldRanges s slot e.num }

/-- Task counts of a context's cores restart with a step (R171). -/
def restartCounts (slot : Nat) (s : State) : State :=
  { s with cores := s.cores.map (fun (e : Nat × Core) =>
      if cstat s F.CORE_STAT.CTX e.1 == slot then (e.1, { e.2 with tasksRun := 0, tasksStolen := 0 }) else e) }

/-- A step begins. -/
def stepBegins (slot : Nat) (t : DWord) (s : State) : State :=
  let offs := match ctxOf s slot with | some x => x.pendingRegs.map (·.1) | none => []
  let s1 := judgeRing slot offs (applyPending slot (ckptDecide slot (t - 1) s))
  let bank := 4096 * (t.toNat % 2)
  let s2 := modCtx slot (fun x => { x with
    joins := mapClear x.joins bank (bank + 4096), holdList := x.holdNext.getD x.holdList, holdNext := none }) s1
  let s2w := modStep slot t (fun e => { e with
    win := winNow s2 slot, holds := match ctxOf s2 slot with | some x => x.holdList | none => [] }) s2
  let s3 := (ctxSolvs s2w slot).foldl (solvBegin slot t) s2w
  let s4 := placeHolds slot t s3
  let s5 := match ctxOf s4 slot with
    | some x => modStep slot t (beginStep s4 slot x) s4
    | none => s4
  let ps := postsOf s5 slot t
  enqueuePosts slot ps (touchCtx slot (restartCounts slot s5))

/-- STEP_BEGIN (R40, R161, R244): the next posted step begins once its conditions hold; one that solutions hold back waits. -/
def execStepBegin (k : Slot) (s : State) : Out :=
  match ctxOf s k.val with
  | none => .next s
  | some x =>
    match nextStep x with
    | none => .next s
    | some e =>
      if !beginReady s k.val x e then .next s
      else
        let w := solvStalls s k.val e.num
        if w.isEmpty then .next (stepBegins k.val e.num s) else .next (w.foldl noteStall s)

/-! ## The step record (R34 to R38, R42, R43, R368) -/

/-- The tags of tensors that an image declares as tallied (R174). -/
def talliedTags (x : Ctx) : List Nat :=
  match x.image with
  | some im => (im.tensors.filter (fun (e : Nat × List Byte) => bitAt (byteAt e.2 3) 0)).map (fun (e : Nat × List Byte) => e.1)
  | none => []

/-- Whether this device owns the cursor tally (R35). -/
def ownsCursor (s : State) (slot : Nat) : Bool :=
  match stepCctx s slot with
  | some c => (match mapFind s.cctxs c with | some y => y.members.head? == some (ownNode s) | none => true)
  | none => true

/-- The contributions of the cursor: 32 elements on its owner (R35). -/
def cursorAcc (own : Bool) (cursor : List Byte) : TensorAcc :=
  if own then (List.range 32).foldl (fun (a : TensorAcc) j => a.add (tallyTerm 0x7FFFFF j (getLE cursor (8 * j) 8)) none false none) TensorAcc.empty
  else TensorAcc.empty

/-- The tallied tensors of a step's record, ascending by tag: those with an owned element or declared as tallied (R40, R42). -/
def recordTensors (s : State) (slot : Nat) (x : Ctx) (e : StepSt) : SMap TensorAcc :=
  let tags := talliedTags x
  let mine := e.tens.filter (fun (t : Nat × TensorAcc) => t.2.count != 0 || tags.contains t.1)
  mapPut (tags.foldl (fun (m : SMap TensorAcc) g => if (mapFind m g).isSome then m else mapPut m g TensorAcc.empty) mine)
    0x7FFFFF (cursorAcc (ownsCursor s slot) e.cursor)

/-- The local step tally (R37, R38). -/
def stepFold (t : DWord) (m : SMap TensorAcc) : DWord :=
  mix64 (m.foldl (fun (a : DWord) (e : Nat × TensorAcc) => mix64 (a ^^^ dw (e.1 * 2 ^ 40)) + e.2.sum) 0 ^^^ t)

/-- A tensor slot (R42). -/
def tensorSlot (e : Nat × TensorAcc) : List Byte :=
  padTo 64 (leBytes 8 e.2.sum.toNat ++ leBytes 5 e.2.count ++ leBytes 3 e.1 ++ leBytes 5 (e.2.firstNf.getD 0xFFFFFFFFFF) ++
    leBytes 1 (b2n e.2.poisoned + 2 * b2n (decide (0x800000 ≤ e.1))) ++ leBytes 2 (satTo 65535 e.2.raises))

/-- The tile slots of a tensor, ascending by block (R42). -/
def tileSlots (e : Nat × TensorAcc) : List (List Byte) :=
  e.2.tiles.map (fun (t : Nat × Nat × Nat) =>
    padTo 64 (leBytes 5 t.1 ++ leBytes 3 e.1 ++ leBytes 5 t.2.1 ++ leBytes 1 t.2.2))

/-- The block-tally slots of a tensor, four blocks each, the last one padded (R42). A block that no element of this device
was added to in the step gets no entry: the spec does not say (DESIGN CHOICE, log entry 69). -/
def blockSlots (e : Nat × TensorAcc) : List (List Byte) :=
  let es := e.2.blocks.map (fun (b : Nat × DWord) => leBytes 8 b.2.toNat ++ leBytes 5 b.1 ++ leBytes 3 e.1)
  let pad := leBytes 8 0 ++ leBytes 5 0xFFFFFFFFFF ++ leBytes 3 0
  (chunksOf 4 (es.length + 1) es).map (fun c => (c ++ List.replicate (4 - c.length) pad).flatten)

/-- The tile and block-tally slots of a tensor in ascending block order; a block-tally slot stands at its first block, after
a tile slot of that block (R42, log entry 69). -/
def tagSlots (level : Nat) (t : Nat × TensorAcc) : List (List Byte) :=
  let tiles := if 1 ≤ level then tileSlots t else []
  let blocks := if 2 ≤ level then blockSlots t else []
  (sortKey (fun (p : Nat × List Byte) => p.1)
    (tiles.map (fun b => (2 * getLE b 0 5, b)) ++ blocks.map (fun b => (2 * getLE b 8 5 + 1, b)))).map (·.2)

/-- The slots of a step record after its header (R42, R368). -/
def recordSlots (x : Ctx) (e : StepSt) (m : SMap TensorAcc) : List (List Byte) :=
  m.map tensorSlot ++ (e.tens.map (tagSlots e.tlyLevel)).flatten ++ x.faultSlots

/-- The step header (R42). -/
def stepHeader (s : State) (slot : Nat) (e : StepSt) (stamp tally : DWord) (bad : Bool) (count : Nat) : List Byte :=
  padTo 64 (leBytes 8 e.num.toNat ++ leBytes 8 stamp.toNat ++ leBytes 8 tally.toNat ++ leBytes 4 count ++
    leBytes 1 (b2n bad + 2 * b2n e.obs + 4 * b2n e.solverReuse + 8 * b2n e.replayed + 16 * b2n (portable s slot)) ++
    leBytes 1 e.tlyLevel ++ leBytes 2 (fget s F.GBL_EDITION.EDITION) ++ leBytes 8 (ownNode s) ++ leBytes 8 (satTo (2 ^ 64 - 1) e.raises))

/-- Free slots of a record ring: one slot always stays unused (R41). -/
def ringFree (s : State) (slot : Nat) (e : StepSt) : Nat :=
  let n := 2 ^ e.tlyLog
  (fget s F.RPR_TLY_RING.TAIL slot + n - fget s F.RPR_TLY_RING.HEAD slot % n - 1) % n

/-- Slots written at the head of the record ring (R41, R42). -/
def writeRecord (slot : Nat) (e : StepSt) (slots : List (List Byte)) (s : State) : State :=
  let n := 2 ^ e.tlyLog
  let h := fget s F.RPR_TLY_RING.HEAD slot
  fset F.RPR_TLY_RING.HEAD slot 0 ((h + slots.length) % n)
    (slots.zipIdx.foldl (fun (a : State) (w : List Byte × Nat) =>
      stepWrite slot e.num (e.tlyBase + 64 * ((h + w.2) % n)) w.1 false a) s)

/-! ## Commit (R20, R41, R150, R162, R342, R378) -/

/-- Whether nothing of step `e` is left to do, but for ring room. -/
def commitReady (s : State) (slot : Nat) (x : Ctx) (e : StepSt) : Bool :=
  e.begun && ctxState s slot == 1 && !x.terminated && !e.replaying && !tasksLeft s slot e.num &&
    !unitsLeft s slot e.num && !collsLeft s slot e.num && !stepWaits s slot e.num && (e.closed || !multiDevice s slot)

/-- The commit replies of a step's posts (R422). -/
def commitReplies (slot : Nat) (e : StepSt) (stamp tally : DWord) (s : State) : State :=
  let st := if e.replayed then stReplayed else stOk
  let ys := [wd e.num.toNat, wd (e.num.toNat / 2 ^ 32), wd stamp.toNat, wd (stamp.toNat / 2 ^ 32), wd tally.toNat, wd (tally.toNat / 2 ^ 32)]
  (postsOf s slot e.num).foldl (fun a p => if p.notify then finishTaken p.src p.tag st ys a else a) s

/-- The end of a replay reported (R366, R378, R403). -/
def replayDone (slot : Nat) (e : StepSt) (s : State) : State :=
  if !e.replayed then s else
  let s1 := sendEvent 0 0x02 3 (det [(slot, 1), (0, 7), (e.num.toNat, 8)]) (some slot) s
  breachAt 0 4 1 2 1 e.stampBegin slot (e.num.toNat % 2 ^ 32) s1

/-- What a committed step leaves behind is dropped: its holds, resident entries, solver notes, records of collectives, and the
REPLAY setting that named it (R150, R243, R342, R422). -/
def afterCommit (slot : Nat) (t : DWord) (s : State) : State :=
  let s1 := dropHolds slot t s
  let s2 := { s1 with
    collsDone := s1.collsDone.filter (fun e => !(e.1 == slot && e.2.1 == t))
    cores := s1.cores.map (fun (e : Nat × Core) => (e.1, { e.2 with resident := e.2.resident.filter (fun r => r.slot != slot) }))
    solvers := s1.solvers.map (fun (e : Nat × Solver) => (e.1, { e.2 with
      descs := e.2.descs.map (fun (d : Nat × SolvDesc) =>
        if d.2.slot == slot then (d.1, { d.2 with curs := d.2.curs.filter (fun c => c.1 != t) }) else d) })) }
  match ctxOf s2 slot with
  | none => s2
  | some x =>
    match x.replaySet with
    | some r =>
      if r.step != t then s2
      else
        let s3 := setCtx slot { x with replaySet := none } s2
        if r.stop.isSome then finishTaken r.src r.tag stOk [] s3 else s3
    | none => s2

/-- The commit of a step whose record fits (R20, R41, R42, R346). -/
def commitStep (slot : Nat) (x : Ctx) (e : StepSt) (slots : List (List Byte)) (stamp tally : DWord) (bad : Bool) (s : State) : State :=
  let recd := if e.tlyOn then stepHeader s slot e stamp tally bad slots.length :: slots else []
  let s1 := if e.tlyOn then writeRecord slot e recd s else s
  let s2 := if e.tlyOn && bad then fset F.RPR_STAT.POISONED slot 0 1 s1 else s1
  let s3 := if e.solverReuse then fset F.RPR_STAT.SOLVER_REUSE slot 0 1 s2 else s2
  let s4 := streamStart slot e.num stamp e.cursor recd.flatten (ckptDecide slot e.num s3)
  let s5 := replayDone slot e (commitReplies slot e stamp (if e.tlyOn then tally else 0) s4)
  let s6 := modCtx slot (fun y => { y with
    committed := some e.num, steps := y.steps.filter (fun o => o.num != e.num), posts := y.posts.filter (fun p => p.step != e.num)
    faultSlots := y.faultSlots.drop x.faultSlots.length }) s5
  touchCtx slot (afterCommit slot e.num s6)

/-- STEP_COMMIT (R20, R41, R42, R162, R374): the oldest step commits once everything of it is done and its record has room; a
single-device step that has consumed poison replays instead. -/
def execStepCommit (k : Slot) (s : State) : Out :=
  match ctxOf s k.val with
  | none => .next s
  | some x =>
    match oldestStep x with
    | none => .next s
    | some e =>
      if e.begun && (e.consumed || e.mismatch) && !e.replayed && !e.replaying && ctxState s k.val == 1 && !multiDevice s k.val then
        .next (replayOrEnd k.val e.num (if e.consumed then 0 else 1) s)
      else if !commitReady s k.val x e then .next s
      else
        let m := recordTensors s k.val x e
        let slots := recordSlots x e m
        if e.tlyOn && ringFree s k.val e < slots.length + 1 then .next (fset F.RPR_STAT.RING_WAIT k.val 0 1 s)
        else
          .next (commitStep k.val x e slots (stampAt s 0) (stepFold e.num m)
            (m.any (fun (t : Nat × TensorAcc) => t.2.poisoned)) s)

/-! ## The step close and replay (R372 to R379) -/

/-- Whether a replay may go on: the tasks of both steps have ended, running updates and front stages of the context are
done, the rows of the lines poisoned in the step are retired, and the context's flows other than the agreement's own are
closed (R374 steps 1, 2 and 4). -/
def replayReady (s : State) (slot : Nat) (e : StepSt) : Bool :=
  !tasksLeft s slot e.num && !tasksLeft s slot (e.num + 1) &&
    (List.range 16).all (fun m => match cuRun s m with | some (_, d) => d.slot != slot | none => true) &&
    (List.range 8).all (fun d => match (solverOf s d).running with
      | some w => w.stage == 1 || (match mapFind (solverOf s d).descs w.num with | some v => v.slot != slot | none => true)
      | none => true) &&
    e.poisonedLines.all (fun l => let (m, o) := locate s (64 * l); !(stackOf s m).retiring.any (fun r => r.1 == lineRow (o / 64))) &&
    s.flowsTx.all (fun (f : FlowKey × FlowTx) =>
      let c := f.1.flow.toNat
      let mine := match mapFind s.cctxs c with | some y => y.slot == slot | none => false
      !mine || (f.1.vc != 1 && f.1.vc != 2) || (f.1.vc == 2 && stepCctx s slot == some c) || (f.2.kept.isEmpty && f.2.held.isEmpty))

/-- A number for a descriptor that is put back: its own, or the lowest free one. -/
def updNumber (k : Stack) (num : Nat) : Nat :=
  if (mapFind k.descs num).isNone then num else ((List.range 256).find? (fun n => (mapFind k.descs n).isNone)).getD num

/-- A descriptor whose update for step `t` had completed is armed for `t` again (R208). -/
def rearmDone (t : DWord) (s : State) (u : Nat × Nat × UpdDesc) : State :=
  let d := { u.2.2 with armed := t, fired := false, keptFire := false, reruns := 0 }
  modStack u.1 (fun k =>
    let n := match mapFind k.descs u.2.1 with
      | some o => if o.slot == d.slot && o.bytes == d.bytes && o.armed == t + 1 then u.2.1 else updNumber k u.2.1
      | none => u.2.1
    { k with descs := mapPut k.descs n d }) s

/-- The descriptors of a context armed for `t` or the step after it are unfired, and those done are armed again (R208,
R374 step 3). -/
def rearmStep (slot : Nat) (t : DWord) (dones : List (Nat × Nat × UpdDesc)) (s : State) : State :=
  let mine := fun (d : UpdDesc) => d.slot == slot && (d.armed == t || d.armed == t + 1)
  let s1 := (List.range 16).foldl (fun a m => modStack m (fun k =>
    { k with
      fires := k.fires.filter (fun n => match mapFind k.descs n with | some d => !mine d | none => false)
      descs := k.descs.map (fun (e : Nat × UpdDesc) =>
        if mine e.2 then (e.1, { e.2 with fired := false, keptFire := false, reruns := 0 }) else e) }) a) s
  dones.foldl (rearmDone t) s1

/-- The solvers of a context set back: front stages of both steps are to run again, and the step after `t` has no current
solution (R236, R374 step 3). -/
def resetSolvers (slot : Nat) (t : DWord) (s : State) : State :=
  (List.range 8).foldl (fun a d => modSolver d (fun o =>
    let mine := fun (n : Nat) => match mapFind o.descs n with | some v => v.slot == slot | none => false
    { o with
      doneFront := o.doneFront.filter (fun f => !(mine f.1 && (f.2 == t || f.2 == t + 1)))
      waited := o.waited.filter (fun f => !(mine f.1 && (f.2 == t || f.2 == t + 1)))
      descs := o.descs.map (fun (e : Nat × SolvDesc) =>
        if e.2.slot != slot then e else
        let cs := e.2.curs.filter (fun c => c.1 != t + 1)
        if cs.length = e.2.curs.length then e
        else match cs.getLast? with
          | some c => (e.1, { e.2 with curs := cs, current := some c.2.1, reuses := c.2.2 })
          | none => (e.1, { e.2 with curs := cs, current := none, reuses := 0 })) }) a) s

/-- A step with nothing contributed to it. -/
def freshStep (e : StepSt) : StepSt :=
  { e with
    contributed := false, closed := false, consumed := false, mismatch := false, obs := false, raises := 0, tens := []
    poisonedLines := [], boxSrcs := [], updDone := [], agreed := [] }

/-- The held contents returned, the descriptors re-armed, and the step after `t` set back to before its begin (R374
step 3). -/
def restoreStep (slot : Nat) (t : DWord) (s : State) : State :=
  match ctxOf s slot with
  | none => s
  | some x =>
    let dones := fun (n : DWord) => match stepSt? x n with | some e => e.updDone | none => []
    let s0 := dropWaits slot t (dropWaits slot (t + 1) s)
    let s1 := restoreHolds slot t (dropHolds slot (t + 1) (restoreHolds slot (t + 1) s0))
    let s2 := resetSolvers slot t (rearmStep slot t (dones t) (rearmStep slot (t + 1) (dones (t + 1)) s1))
    let steps := x.steps.map (fun e =>
      if e.num == t then freshStep e
      else if e.num == t + 1 then { freshStep e with begun := false, solverReuse := false } else e)
    { modCtx slot (fun y => { y with steps := steps, bufs := [] }) s2 with
      msgIn := s2.msgIn.filter (fun m => m.slot != slot) }

/-- The current words of a replayed step written again (R243). -/
def rewriteCurs (slot : Nat) (t : DWord) (s : State) : State :=
  (ctxSolvs s slot).foldl (fun a e => match e.2.2.curs.find? (fun c => c.1 == t) with
    | some c => stepWrite slot t (solvOf e.2.2.bytes).curAddr (leBytes 8 c.2.1.toNat) false a
    | none => a) s

/-- The replay of step `t` runs (R374 step 5). -/
def replayRuns (slot : Nat) (t : DWord) (s : State) : State :=
  let s1 := rewriteCurs slot t (fbump F.FLT_REPLAYS.COUNT 0 0 s)
  let s2 := modStep slot t (fun e => { e with replaying := false, replayed := true, contributed := false })
    (modCtx slot (fun x => { x with joins := [] }) s1)
  enqueuePosts slot (postsOf s2 slot t) (touchCtx slot s2)

/-- The integrity unit's code for a step whose tasks, audits and collectives are done (R372, R377): a step that cannot be
replayed terminates the context, which contributes 0xFF. -/
def contributeClose (slot : Nat) (e : StepSt) (s : State) : State :=
  let s1 := modStep slot e.num (fun o => { o with contributed := true }) s
  if !(e.consumed || e.mismatch) then agreeOwn slot e.num 0xFFFFFFFF 0x01 s1
  else if e.poisonedLines.any (fun l => e.heldRanges.any (fun r => r.1 < 64 * l + 64 && 64 * l < r.2)) then
    terminateCtx slot 0 e.num s1
  else agreeOwn slot e.num 0xFFFFFFFF 0x80 s1

/-- STEP_CLOSE_CONTRIBUTE (R372, R374): the device contributes to the step-close agreement of its oldest step or, in a replay,
restores the step and contributes to the replay-start agreement. -/
def execStepCloseContribute (k : Slot) (s : State) : Out :=
  match ctxOf s k.val with
  | none => .next s
  | some x =>
    match minBy? (fun e => e.num.toNat) (x.steps.filter (fun e => e.begun && !e.contributed)) with
    | none => .next s
    | some e =>
      if !multiDevice s k.val || ctxState s k.val != 1 || x.terminated then .next s
      else if e.replaying then
        if replayReady s k.val e then
          .next (agreeOwn k.val e.num 0xFFFFFFFE 0x01
            (modStep k.val e.num (fun o => { o with contributed := true }) (restoreStep k.val e.num s)))
        else .next s
      else if tasksLeft s k.val e.num || collsLeft s k.val e.num then .next s
      else .next (contributeClose k.val e s)

/-- The outcome of a step-close agreement (R372, R374, R377). -/
def closeAgreed (slot : Nat) (c : Nat) (e : StepSt) (code : Nat) (s : State) : State :=
  let s1 := modStep slot e.num (fun o => { o with closed := true }) s
  if code < 0x80 then s1
  else if code = 0xFF then terminateCtx slot 4 e.num s1
  else if e.replayed then terminateCtx slot 1 e.num s1
  else
    let s2 := modStep slot e.num (fun o => { o with contributed := false }) s1
    if e.poisonedLines.any (fun l => e.heldRanges.any (fun r => r.1 < 64 * l + 64 && 64 * l < r.2)) then
      terminateCtx slot 0 e.num (modColl c 0xFFFFFFFE e.num slot id s2)
    else startReplay slot e.num (if e.mismatch && !e.consumed then 1 else 0) s2

/-- STEP_CLOSE_AGREED (R372, R374, R377): the step-close agreement of the oldest step that waits for it completes. -/
def execStepCloseAgreed (k : Slot) (s : State) : Out :=
  match stepCctx s k.val, ctxOf s k.val with
  | some c, some x =>
    match s.colls.find? (fun q => q.cctx == c && q.seq == 0xFFFFFFFF && q.slot == k.val && (agreedCode s q).isSome && q.own.isSome) with
    | none => .next s
    | some q =>
      match agreedCode s q, stepSt? x q.step with
      | some code, some e =>
        let s1 := dropColl q s
        if x.terminated || ctxState s k.val != 1 then .next s1 else .next (closeAgreed k.val c e code s1)
      | _, _ => .next (dropColl q s)
  | _, _ => .next s

/-- REPLAY_START_AGREED (R374): the replay-start agreement completes, or in a single-device context the replay is ready, and
the step's posted tasks run again. -/
def execReplayStartAgreed (k : Slot) (s : State) : Out :=
  match ctxOf s k.val with
  | none => .next s
  | some x =>
    match x.steps.find? (fun e => e.replaying) with
    | none => .next s
    | some e =>
      if ctxState s k.val != 1 then .next s
      else if !multiDevice s k.val then
        if replayReady s k.val e then .next (replayRuns k.val e.num (restoreStep k.val e.num s)) else .next s
      else
        match s.colls.find? (fun q => q.seq == 0xFFFFFFFE && q.slot == k.val && q.step == e.num && q.own.isSome && (agreedCode s q).isSome) with
        | none => .next s
        | some q => .next (replayRuns k.val e.num (dropColl q s))

/-! ## Audits (R382, R383) -/

/-- A core taken out of service after an audit mismatch: its place is vacant, its queue an orphan queue, and a task it still
runs goes back to the head of its queue unless its step is being replayed. -/
def takeOut (c : Nat) (s : State) : State :=
  let out := fun (a : State) => setCstat F.CORE_STAT.STATE c 0 (setCstat F.CORE_STAT.CTX c 0xFF (setCstat F.CORE_STAT.LCORE c 0xFFF
    (modCore c (fun k => { k with suspect := true, clearDue := true, probe := none }) a)))
  match (coreOf s c).run with
  | none => out s
  | some r =>
    let slot := r.task.slot
    let s1 := out (freeCore c (dropAudit c s))
    let s2 := dropContribs c s1
    match ctxOf s slot with
    | none => s2
    | some x =>
      let dead := x.steps.any (fun e => e.replaying && (e.num == r.task.step || e.num + 1 == r.task.step))
      match lcoreOf x c with
      | some l => if dead then s2 else placeTask slot l true r.task s2
      | none => if dead then s2 else placeTask slot r.task.home true r.task s2

/-- An audit mismatch (R383): reported, the original core taken out of service, both cores suspect, the step replayed. -/
def auditMismatch (c : Nat) (r : Run) (s : State) : State :=
  let slot := r.task.slot
  let t := r.task.step
  let s1 := sendEvent (dieOf c) 0x04 1
    (det [(slot, 1), (coreCode r.orig, 2), (coreCode c, 2), (0, 3), (r.task.desc.taskId.toNat, 4), (t.toNat % 2 ^ 32, 4)]) (some slot)
    (fbump F.AUD_MISMATCH.COUNT 0 0 s)
  let s2 := modStep slot t (fun e => { e with mismatch := true }) (modCore c (fun k => { k with suspect := true }) (freeCore c s1))
  let st := match ctxOf s2 slot with | some x => stepSt? x t | none => none
  let first := match ctxOf s2 slot with | some x => (match oldestStep x with | some o => o.num == t | none => false) | none => false
  let s3 := match st with
    | some e =>
      if e.replayed then terminateCtx slot 2 t s2
      else if e.replaying || multiDevice s2 slot || !first then s2
      else replayOrEnd slot t 1 s2
    | none => s2
  updateUnits (takeOut r.orig s3)

/-- AUDIT_COMPARE (R44, R382, R383): once the original and the audit on core `c` have ended, their task tallies are compared. -/
def execAuditCompare (c : CoreId) (s : State) : Out :=
  match (coreOf s c.val).run with
  | none => .next s
  | some r0 =>
    match r0.refTally with
    | none => .next s
    | some want =>
      if !r0.isAudit || !r0.ended then .next s
      else
        let r := settleRegion r0
        if r.taskTally = want then .next (freeCore c.val s) else .next (auditMismatch c.val r s)

end Sys2Proof.Machine
end

