-- ==== Sys2Proof/Machine/Frame.lean ====
section
/-! DEFINITION. Link frames: the Reed-Solomon code, the CRC, the link header, and the link-control flit (R267 to R272, R277). -/

namespace Sys2Proof.Machine

/-! ## The code (R268) -/

/-- Twice an element of GF(2⁸) over x⁸ + x⁴ + x³ + x² + 1. -/
def gfTwice (a : Nat) : Nat := if a < 128 then 2 * a else (2 * a % 256) ^^^ 0x1D

/-- The product of two field elements, bit by bit. -/
def gfMulAux : Nat → Nat → Nat → Nat
  | 0, _, _ => 0
  | n + 1, a, b => (if b % 2 = 1 then a else 0) ^^^ gfMulAux n (gfTwice a) (b / 2)

/-- The product of two field elements. -/
def gfMul (a b : Nat) : Nat := gfMulAux 8 a b

/-- A power of a field element. -/
def gfPow (a : Nat) : Nat → Nat
  | 0 => 1
  | n + 1 => gfMul a (gfPow a n)

/-- The inverse of a field element that is not 0. -/
def gfInv (a : Nat) : Nat := gfPow a 254

/-- The coefficients of x³ to x⁰ of the generator (x + 1)(x + α)(x + α²)(x + α³). -/
def rsGen : List Nat :=
  [3 ^^^ 12, 2 ^^^ 32 ^^^ gfMul 3 12, gfMul 3 32 ^^^ gfMul 2 12, gfMul 2 32]

/-- One data symbol taken into the remainder. -/
def rsStep (r : List Nat) (d : Nat) : List Nat :=
  let f := d ^^^ r.headD 0
  ((r.drop 1 ++ [0]).zip rsGen).map (fun (p : Nat × Nat) => p.1 ^^^ gfMul f p.2)

/-- The four parity symbols of a codeword's data symbols. -/
def rsParity (data : List Nat) : List Nat := data.foldl rsStep [0, 0, 0, 0]

/-- A codeword evaluated at a point. -/
def rsEval (cw : List Nat) (x : Nat) : Nat := cw.foldl (fun a d => gfMul a x ^^^ d) 0

/-- The four syndromes of a codeword. -/
def rsSyn (cw : List Nat) : List Nat := [rsEval cw 1, rsEval cw 2, rsEval cw 4, rsEval cw 8]

/-- The locator of symbol `i`: α to the power 71 − i. -/
def rsLoc (i : Nat) : Nat := gfPow 2 (71 - i)

/-- One wrong symbol that explains the syndromes: position and error. -/
def rsOne (s : List Nat) : Option (Nat × Nat) :=
  let e := s.getD 0 0
  if e = 0 then none else
  ((List.range 72).find? (fun i =>
    let x := rsLoc i
    s.getD 1 0 == gfMul e x && s.getD 2 0 == gfMul e (gfMul x x) && s.getD 3 0 == gfMul e (gfMul x (gfMul x x)))).map
    (fun i => (i, e))

/-- Two wrong symbols that explain the syndromes. -/
def rsTwo (s : List Nat) : Option ((Nat × Nat) × (Nat × Nat)) :=
  (List.range 72).findSome? (fun j => (List.range j).findSome? (fun i =>
    let x := rsLoc i
    let y := rsLoc j
    let e := gfMul (s.getD 1 0 ^^^ gfMul (s.getD 0 0) y) (gfInv (x ^^^ y))
    let f := s.getD 0 0 ^^^ e
    if e != 0 && f != 0 && s.getD 2 0 == (gfMul e (gfMul x x) ^^^ gfMul f (gfMul y y)) &&
        s.getD 3 0 == (gfMul e (gfPow x 3) ^^^ gfMul f (gfPow y 3)) then some ((i, e), (j, f)) else none))

/-- Wrong symbols that explain the syndromes: none, one or two; nothing where no such pattern does. -/
def rsErrors (s : List Nat) : Option (List (Nat × Nat)) :=
  if s.all (· == 0) then some []
  else match rsOne s with
    | some p => some [p]
    | none => (rsTwo s).map (fun x => [x.1, x.2])

/-- A codeword with an error taken out. -/
def rsFix (cw : List Nat) (p : Nat × Nat) : List Nat := cw.set p.1 (cw.getD p.1 0 ^^^ p.2)

/-- A codeword decoded, with the number of symbols corrected; none where it cannot be. -/
def rsDecode (cw : List Nat) : Option (List Nat × Nat) :=
  (rsErrors (rsSyn cw)).map (fun es => (es.foldl rsFix cw, es.length))

/-- The symbols of codeword `c` of a frame. -/
def frameWord (c : Nat) (frame : List Byte) : List Nat := (List.range 72).map (fun i => byteAt frame (2 * i + c))

/-! ## The CRC (R270) -/

/-- One bit of CRC-32C, reflected. -/
def crcBit (c : Word) : Word := if c.getLsbD 0 then (c >>> 1) ^^^ 0x82F63B78#32 else c >>> 1

/-- One byte of CRC-32C. -/
def crcByte (c : Word) (b : Byte) : Word :=
  let x := c ^^^ b.setWidth 32
  crcBit (crcBit (crcBit (crcBit (crcBit (crcBit (crcBit (crcBit x)))))))

/-- CRC-32C of bytes. -/
def crc32c (bs : List Byte) : Word := bs.foldl crcByte 0xFFFFFFFF#32 ^^^ 0xFFFFFFFF#32

/-! ## Frames (R267, R272) -/

/-- The two codewords' parity put behind 136 bytes. -/
def addParity (data : List Byte) : List Byte :=
  let p := fun (c : Nat) => rsParity ((List.range 68).map (fun i => byteAt data (2 * i + c)))
  let p0 := p 0
  let p1 := p 1
  data ++ ((List.range 4).map (fun i => [by8 (p0.getD i 0), by8 (p1.getD i 0)])).flatten

/-- The link header of a data flit. -/
def flitHeader (f : Flit) : Nat :=
  f.vc * 2 ^ 29 + 2 ^ 27 + b2n f.sop * 2 ^ 26 + b2n f.eop * 2 ^ 25 + b2n f.retx * 2 ^ 24 + b2n f.shr * 2 ^ 23 +
    f.poison.toNat * 2 ^ 21 + f.seq % 2 ^ 21

/-- A frame of a header and a body. -/
def frameOf (header : Nat) (body : List Byte) : List Byte :=
  let d := leBytes 4 header ++ padTo 128 body
  addParity (d ++ leBytes 4 (crc32c d).toNat)

/-- The frame of a data flit. -/
def dataFrame (f : Flit) : List Byte := frameOf (flitHeader f) f.body

/-- The frame of a link-control flit: 0 in every header field but KIND. -/
def ctlFrame (body : List Byte) : List Byte := frameOf (2 * 2 ^ 27) body

/-- A received frame: the bytes before the CRC and the symbols corrected; none where it is not good (R270). -/
def frameGood (frame : List Byte) : Option (List Byte × Nat) :=
  match rsDecode (frameWord 0 frame), rsDecode (frameWord 1 frame) with
  | some (a, n), some (b, m) =>
    let bs := ((List.range 68).map (fun i => [by8 (a.getD i 0), by8 (b.getD i 0)])).flatten
    if crc32c (bs.take 132) = wd (getLE bs 132 4) then some (bs.take 132, n + m) else none
  | _, _ => none

/-- The frame bytes that a good frame's codewords correct: symbol i of codeword c is byte 2i + c. -/
def frameFixes (frame : List Byte) : List Nat :=
  ([0, 1].map (fun c => match rsErrors (rsSyn (frameWord c frame)) with
    | some es => es.map (fun (e : Nat × Nat) => 2 * e.1 + c)
    | none => [])).flatten

/-! ## Lanes (R269) -/

/-- The physical lanes that carry a direction's active lanes 0 to W − 1: at width 8 lane j is physical lane j, but the
substituted one is physical lane 8; at width 4 they are the four lowest healthy lanes. -/
def activeLanes (width4 : Bool) (subst failed : Nat) : List Nat :=
  if width4 then ((List.range 9).filter (fun i => !bitAt failed i)).take 4
  else (List.range 8).map (fun j => if j = subst then 8 else j)

/-- The active lane and the lane position of frame byte `k` at width `w`. -/
def laneOf (w k : Nat) : Nat × Nat := (k / 2 % w, 2 * (k / (2 * w)) + k % 2)

/-- The bytes of a frame by physical lane, in lane position order. -/
def laneBytes (ls : List Nat) (frame : List Byte) : SMap (List Byte) :=
  (ls.zipIdx).foldl (fun (a : SMap (List Byte)) (l : Nat × Nat) =>
    mapPut a l.1 ((frame.zipIdx.filter (fun (b : Byte × Nat) => (laneOf (max ls.length 1) b.2).1 == l.2)).map (·.1))) []

/-- The KIND of a good frame. -/
def frameKind (bs : List Byte) : Nat := getLE bs 0 4 / 2 ^ 27 % 4

/-- The data flit of a good frame. -/
def frameFlit (bs : List Byte) : Flit :=
  let h := getLE bs 0 4
  { vc := h / 2 ^ 29 % 8, sop := bitAt h 26, eop := bitAt h 25, retx := bitAt h 24, shr := bitAt h 23
    poison := BitVec.ofNat 2 (h / 2 ^ 21), seq := h % 2 ^ 21, body := (bs.drop 4).take 128, ref := false, src := none
    owed := none, pool := none }

/-! ## The link-control flit (R277) -/

/-- The body of the link-control flit a port sends now. -/
def ctlBody (s : State) (p : Nat) : List Byte :=
  let k := portOf s p
  let vc := fun (v : Nat) =>
    let r := (mapFind k.rx v).getD RxVc.empty
    leBytes 3 r.nextSeq ++ leBytes 3 r.freedDed ++ leBytes 1 (b2n r.nak) ++ leBytes 1 0
  padTo 128 (((List.range 8).map vc).flatten ++ leBytes 3 k.freedShr ++ leBytes 1 k.lcmd ++ leBytes 1 k.lcmdLane ++
    leBytes 1 (b2n (fbit s F.LNK_HP.SVC_MARK p) + 2 * b2n (portState s p == 4) + 4 * b2n k.drainDone) ++
    leBytes 2 (ownNode s) ++ leBytes 1 p ++ leBytes 1 (bitsOf k.cfg.toNat 31 30))

end Sys2Proof.Machine
end

