-- ==== Sys2Proof/Machine/Time.lean ====
section
/-! DEFINITION. Machine time: the copies, exchanges, choice of source, lock, holdover, pulses, and leaving and rejoining the
slot schedule (R248 to R257, R261, R263). -/

namespace Sys2Proof.Machine

/-- The absolute value of a signed 64-bit amount. -/
def abs64 (v : DWord) : Nat := if v.toNat < 2 ^ 63 then v.toNat else 2 ^ 64 - v.toNat

/-- A signed 64-bit amount shifted right by one. -/
def half64 (v : DWord) : DWord := v.sshiftRight 1

/-! ## The slot schedule (R258, R261) -/

/-- The guards in mt of this device's valid entries. -/
def guards (s : State) : List Nat :=
  ((List.range 36).map (fun p => (List.range 64).filterMap (fun e =>
    if fbit s F.SLOT_ENT_B.VALID p e then some (fget s F.SLOT_ENT_B.GUARD p e * 256) else none))).flatten

/-- The smallest guard, if any entry is valid. -/
def leastGuard (s : State) : Option Nat := minBy? id (guards s)

/-- Contexts with VC1 traffic on the device. -/
def vc1Ctxs (s : State) : List Nat :=
  ((s.flowsTx.map (fun (e : FlowKey × FlowTx) => e.1) ++ s.flowsRx.map (fun (e : FlowKey × FlowRx) => e.1)).filterMap (fun k =>
    if k.vc == 1 then (match mapFind s.cctxs k.flow.toNat with | some c => some c.slot | none => none) else none)).eraseDups

/-- The device leaves the schedule once its error exceeds four smallest guards (R261, R403). -/
def offCheck (s : State) : State :=
  let err := fget s F.MT_ERR.MT
  match leastGuard s with
  | none => s
  | some g =>
    let s1 := modTime (fun t => { t with errOkSince := if err ≤ g then some (t.errOkSince.getD t.now) else none }) s
    if fbit s F.MT_STAT.OFF_SCHED || err ≤ 4 * g then s1
    else
      let cs := vc1Ctxs s1
      let s2 := fset F.MT_STAT.OFF_SCHED 0 0 1 (modTime (fun t => { t with leftAt := some (stampAt s 0), offCtxs := cs }) s1)
      cs.foldl (fun a c => breachAt 0 3 0 3 0 (stampAt s 0) c 0 a) s2

/-- The device has stayed within one smallest guard for 1 ms by now (R261). -/
def mayRejoin (s : State) : Bool :=
  match s.time.errOkSince, leastGuard s with
  | some t, some g => decide (16000000 ≤ (s.time.now - t).toNat) && decide (fget s F.MT_ERR.MT ≤ g)
  | _, _ => false

/-- `MT_ERR` written, and the schedule judged on it. -/
def setErr (v : Nat) (s : State) : State := offCheck (fset F.MT_ERR.MT 0 0 (satTo 0xFFFFFFFF v) s)

/-- OFF_SCHEDULE_REJOIN (R261): at a frame boundary after 1 ms within one smallest guard the device rejoins. -/
def execOffScheduleRejoin (s : State) : Out :=
  match s.time.leftAt with
  | some l =>
    if !fbit s F.MT_STAT.OFF_SCHED || !mayRejoin s then .next s
    else
      let s1 := fset F.MT_STAT.OFF_SCHED 0 0 0 (modTime (fun t => { t with leftAt := none, offCtxs := [] }) s)
      .next (s.time.offCtxs.foldl (fun a c => breachAt 0 3 0 3 1 l c 0 a) s1)
  | none => .next s

/-- HOLDOVER_ERROR_CROSSES_FOUR_GUARDS (R261, R263): the error that has grown is judged at that moment. -/
def execHoldoverErrorCrossesFourGuards (s : State) : Out := .next (offCheck s)

/-! ## Sources (R253, R254, R257) -/

/-- The figure of TIME_PPS, in mt, where it is a candidate. -/
def ppsFigure (s : State) : Option Nat := if fbit s F.MT_CTRL.PPS_EN && s.time.ppsCand then some 16 else none

/-- The figure of a port, in mt, where it is a candidate. -/
def portFigure (s : State) (p : Nat) : Option Nat :=
  if !portUp s p || !fbit s F.MT_ASYM.DISC_EN p then none else
  match (portOf s p).lastReply with
  | some (locked, node, err) =>
    if locked && node != ownNode s then some (err + 4 + fget s F.MT_ASYM.RESID p * 8) else none
  | none => none

/-- The present source's figure, while it qualifies. -/
def sourceFigure (s : State) : Option Nat :=
  match fget s F.MT_STAT.SRC with
  | 1 => ppsFigure s
  | 2 => portFigure s (fget s F.MT_STAT.SRC_PORT)
  | _ => none

/-- The best candidate: its figure, `SRC` and `SRC_PORT`. Ties go to TIME_PPS, then to the lowest port. -/
def bestSource (s : State) : Option (Nat × Nat × Nat) :=
  let pps := match ppsFigure s with | some f => [(f, 1, 0)] | none => []
  minBy? (fun (c : Nat × Nat × Nat) => c.1) (pps ++ (List.range 36).filterMap (fun p => match portFigure s p with
    | some f => some (f, 2, p)
    | none => none))

/-- A source taken up: a device that has never locked acquires. -/
def takeSource (src port : Nat) (s : State) : State :=
  let s1 := fset F.MT_STAT.SRC_PORT 0 0 port (fset F.MT_STAT.SRC 0 0 src s)
  let s2 := if fget s F.MT_STAT.STATE = 0 then fset F.MT_STAT.STATE 0 0 1 s1 else s1
  if fget s F.MT_STAT.SRC = 0 then modTime (fun t => { t with lockRun := 0 }) s2 else s2

/-- The choice of source (R253); with no candidate the device enters holdover, or runs free where it has never locked
(R257). -/
def reselect (s : State) : State :=
  match bestSource s with
  | none =>
    if fget s F.MT_STAT.SRC = 0 then s
    else
      fset F.MT_STAT.STATE 0 0 (if s.time.everLocked then 3 else 0)
        (fset F.MT_STAT.SRC_PORT 0 0 0 (fset F.MT_STAT.SRC 0 0 0 (modTime (fun t => { t with lockRun := 0, errTicks := 0, slew := 0 }) s)))
  | some (f, src, p) =>
    match sourceFigure s with
    | some now => if f + 16 ≤ now then takeSource src p s else s
    | none => takeSource src p s

/-- The device steered by an offset (source's time minus its own): stepped before the first lock, slewed from it on; locked
after 16 consecutive offsets within 2 ns (R254); `MT_ERR` once locked (R253). -/
def steer (figure : Nat) (off : DWord) (s : State) : State :=
  let small := abs64 off ≤ 32
  let s1 := modTime (fun t =>
    if t.everLocked then { t with slew := off, lockRun := if small then t.lockRun + 1 else 0 }
    else { t with now := t.now + off, lockRun := if small then t.lockRun + 1 else 0 }) s
  let s2 := if 16 ≤ s1.time.lockRun then
      fset F.MT_STAT.STATE 0 0 2 (modTime (fun t => { t with everLocked := true, lockRun := 16, errTicks := 0 }) s1)
    else s1
  if fget s2 F.MT_STAT.STATE = 2 then setErr (figure + abs64 off) s2 else s2

/-! ## Copies (R249) -/

/-- MT_COPY_CORRECTION (R249): the keeper slews a die's copy: it moves by one toward the keeper with the next mt. -/
def execMtCopyCorrection (d : Die) (s : State) : Out :=
  if mapGet 0 s.time.copies d.val = 0 then .next s
  else .next (modTime (fun t => { t with copySlew := mapPut t.copySlew d.val true }) s)

/-! ## Exchanges (R251, R252) -/

/-- The stamp of a port's PHY boundary: the copy of the port's die. -/
def portStamp (s : State) (p : Nat) : DWord := s.time.now + mapGet 0 s.time.copies (portDie p)

/-- The flags of an exchange flit. -/
def exchFlags (s : State) : Nat :=
  b2n (fbit s F.MT_STAT.OFF_SCHED) + 2 * b2n (fget s F.MT_STAT.STATE == 3) + 4 * b2n (fget s F.MT_STAT.STATE == 2)

/-- The body of an exchange flit (R251). -/
def exchBody (s : State) (type seq : Nat) (t1 t2 t3 : DWord) : List Byte :=
  let src := if fget s F.MT_STAT.SRC = 2 then fget s F.LNK_NEIGH.NODE (fget s F.MT_STAT.SRC_PORT) else 0xFFFF
  padTo 128 (leBytes 1 type ++ leBytes 1 (exchFlags s) ++ leBytes 2 seq ++ leBytes 2 (ownNode s) ++ leBytes 2 src ++
    leBytes 8 t1.toNat ++ leBytes 8 t2.toNat ++ leBytes 8 t3.toNat ++ leBytes 4 (fget s F.MT_ERR.MT))

/-- An exchange flit as its first symbol crosses the PHY boundary of port `p`: a request takes `T1`, a reply `T3`, at that
moment (R251). -/
def stampFlit (s : State) (p : Nat) (f : Flit) : Flit :=
  if f.vc != 0 then f else
  match byteAt f.body 0 with
  | 0x21 => { f with body := putBytes f.body 8 (leBytes 8 (portStamp s p).toNat) }
  | 0x22 => { f with body := putBytes f.body 24 (leBytes 8 (portStamp s p).toNat) }
  | _ => f

/-- The port keeps the send stamp of the request that is outstanding. -/
def noteStamp (p : Nat) (f : Flit) (s : State) : State :=
  if f.vc = 0 && byteAt f.body 0 = 0x21 && getLE f.body 2 2 = (portOf s p).reqSeq.toNat && (portOf s p).reqT1.isSome then
    modPort p (fun k => { k with reqT1 := some (dw (getLE f.body 8 8)) }) s
  else s

/-- A VC0 flit put on a port. -/
def sendVc0 (p : Nat) (body : List Byte) (s : State) : State :=
  enqueueFlits p [vc0Flit body] s

/-- EXCHANGE_REQUEST_SEND (R251): an enabled port that is up sends a request. -/
def execExchangeRequestSend (p : PortId) (s : State) : Out :=
  if !fbit s F.MT_ASYM.DISC_EN p.val || !portUp s p.val then .next s
  else
    let t1 := portStamp s p.val
    let q := (portOf s p.val).reqSeq + 1
    .next (sendVc0 p.val (exchBody s 0x21 q.toNat t1 0 0)
      (modPort p.val (fun k => { k with reqSeq := q, reqT1 := some t1 }) s))

/-- What an exchange flit says of its sender's place on the schedule. -/
def noteFarSched (p : Nat) (body : List Byte) (s : State) : State :=
  modPort p (fun k => { k with farOffSched := bitAt (byteAt body 1) 0 }) s

/-- A request received: the reply is sent, unless the request was resent (R251). -/
def exchRequest (p : Nat) (body : List Byte) (resent : Bool) (s : State) : State :=
  if resent || byteAt body 0 != 0x21 || !portUp s p then s
  else
    let t := portStamp s p
    sendVc0 p (exchBody s 0x22 (getLE body 2 2) (dw (getLE body 8 8)) t t) (noteFarSched p body s)

/-- A reply received (R252 to R254, R263): the port keeps its delays; the source is chosen; the offset steers where the port is
the source; a disagreement with TIME_PPS is recorded. -/
def exchReply (p : Nat) (body : List Byte) (resent : Bool) (s : State) : State :=
  match (portOf s p).reqT1 with
  | none => s
  | some t1 =>
    if byteAt body 0 != 0x22 || getLE body 2 2 != (portOf s p).reqSeq.toNat || !portUp s p || !fbit s F.MT_ASYM.DISC_EN p then s
    else if resent then modPort p (fun k => { k with reqT1 := none }) s
    else
      let t2 := dw (getLE body 16 8)
      let t3 := dw (getLE body 24 8)
      let t4 := portStamp s p
      let asym := (BitVec.ofNat 24 (fget s F.MT_ASYM.ASYM p)).signExtend 64
      let mean := half64 ((t4 - t1) - (t3 - t2))
      let off := half64 ((t2 - t1) - (t4 - t3) - asym)
      let s1 := modPort p (fun k => { k with
        reqT1 := none, fwd := mean + half64 asym, rev := mean - half64 asym
        lastReply := some (bitAt (byteAt body 1) 2, getLE body 6 2, getLE body 32 4) }) (noteFarSched p body s)
      let s2 := reselect s1
      if fget s2 F.MT_STAT.SRC = 2 && fget s2 F.MT_STAT.SRC_PORT = p then
        steer ((portFigure s2 p).getD 0) off s2
      else if fget s2 F.MT_STAT.SRC = 1 && fget s2 F.MT_ERR.MT < abs64 off then
        fset F.MT_STAT.DISAGREE 0 0 (satTo 65535 (abs64 off / 16)) s2
      else s2

/-! ## TIME_PPS and TIME_10M (R256) -/

/-- mt in a second. -/
def mtSecond : Nat := 16000000000

/-- `MT_CTRL` or `MT_ASYM[p]` written: a pulse input that is no longer enabled is forgotten, and the source is chosen again
(R253, R256). -/
def sourceWritten (s : State) : State :=
  reselect (if fbit s F.MT_CTRL.PPS_EN then s
    else modTime (fun t => { t with ppsGood := 0, ppsSeen := false, ppsCand := false, ppsDropped := false }) s)

/-- The offset that brings the edge onto a whole second: the nearest multiple minus the edge's own time. -/
def ppsOffset (s : State) : DWord :=
  let d := (s.time.now.toNat + 2 ^ 64 - fget s F.MT_CTRL.PPS_DLY) % 2 ^ 64 % mtSecond
  if d ≤ mtSecond / 2 then 0 - dw d else dw (mtSecond - d)

/-- PPS_EDGE (R256): a valid edge makes TIME_PPS a candidate, after 16 in a row where it had been dropped, and steers where
it is the source; one that is more than 1 µs off its place is ignored and counted. Before the first lock the first edge sets
the place of the next (DESIGN CHOICE, log entry 77). -/
def execPpsEdge (s : State) : Out :=
  if !fbit s F.MT_CTRL.PPS_EN then .next s
  else
    let off := ppsOffset s
    if (s.time.everLocked || s.time.ppsSeen) && 16000 < abs64 off then
      .next (fbump F.MT_STAT.PPS_BAD 0 0 (modTime (fun t => { t with ppsGood := 0 }) s))
    else
      let n := satTo 16 (s.time.ppsGood + 1)
      let back := !s.time.ppsDropped || n = 16
      let s1 := modTime (fun t => { t with ppsGood := n, ppsSeen := true, ppsCand := t.ppsCand || back, ppsDropped := !back }) s
      let s2 := reselect s1
      if fget s2 F.MT_STAT.SRC = 1 then .next (steer 16 off s2) else .next s2

/-- PPS_MISS_TIMEOUT (R256, R257): no valid edge for 1.1 s. -/
def execPpsMissTimeout (s : State) : Out :=
  if !fbit s F.MT_CTRL.PPS_EN then .next s
  else
    .next (reselect (fset F.MT_STAT.PPS_MISS 0 0 1
      (modTime (fun t => { t with ppsGood := 0, ppsSeen := false, ppsCand := false, ppsDropped := true }) s)))

/-- TIME_10M_LOST (R256, R466): TIME_10M has no edges; `MT_ERR` grows as in holdover. -/
def execTime10mLost (s : State) : Out := .next (modTime (fun t => { t with tenLost := true }) s)

/-- TIME_10M_RETURN (R466): edges resume. -/
def execTime10mReturn (s : State) : Out := .next (modTime (fun t => { t with tenLost := false, errTicks := 0 }) s)

end Sys2Proof.Machine
end

