-- ==== Sys2Proof/Machine/Ports.lean ====
section
/-! DEFINITION. Port states: attention, credits, failure, drain, training, spare-port adoption, presence and the service
button (R278, R279, R285 to R298, R302, R337). -/

namespace Sys2Proof.Machine

/-! ## A port's parts -/

/-- The transmit side of a virtual channel. -/
def txVc (k : Port) (v : Nat) : TxVc := (mapFind k.tx v).getD TxVc.empty

/-- The receive side of a virtual channel. -/
def rxVc (k : Port) (v : Nat) : RxVc := (mapFind k.rx v).getD RxVc.empty

/-- `s` with a channel's transmit side changed. -/
def modTx (p v : Nat) (f : TxVc → TxVc) (s : State) : State := modPort p (fun k => { k with tx := mapPut k.tx v (f (txVc k v)) }) s

/-- `s` with a channel's receive side changed. -/
def modRx (p v : Nat) (f : RxVc → RxVc) (s : State) : State := modPort p (fun k => { k with rx := mapPut k.rx v (f (rxVc k v)) }) s

/-- The role read at the entry to TRAINING. -/
def roleOf (k : Port) : Nat := bitsOf k.cfg.toNat 31 30

/-- Whether the port's pool lies in the store room (R293). -/
def lrOn (k : Port) : Bool := bitAt k.cfg.toNat 29

/-- Whether the map of both directions is settled. -/
def mapStable (k : Port) : Bool := k.lcmd == 0 && !k.txNarrowDue && k.txSubstDue.isNone

/-- Flits of a store-room pool (R278). -/
def poolFlits (k : Port) : Nat := k.lrMib * 8192

/-- Dedicated credits of a virtual channel (R278). -/
def dedSize (k : Port) (v : Nat) : Nat := if lrOn k then (if v = 0 then 512 else poolFlits k / 32) else 16

/-- Shared credits of a port (R278). -/
def shrSize (k : Port) : Nat := if lrOn k then 25 * (poolFlits k / 32) else 384

/-- A credit returned by a port to the pool it came from (R279). -/
def freeCredit (p v : Nat) (shr : Bool) (s : State) : State :=
  if shr then modPort p (fun k => { k with freedShr := (k.freedShr + 1) % 2 ^ 24 }) s
  else modRx p v (fun r => { r with freedDed := (r.freedDed + 1) % 2 ^ 24 }) s

/-- The credit a flit still holds returned, and its place in a store-room pool with it. -/
def payOwed (f : Flit) (s : State) : State :=
  match f.owed with
  | some (q, shr) => freeCredit q f.vc shr (match f.pool with
    | some a => modPort q (fun k => { k with poolUsed := k.poolUsed.filter (· != (a - k.lrBase * 4096) / 128) }) s
    | none => s)
  | none => s

/-- A flit that holds no credit of port `p`. -/
def forgetOwed (p : Nat) (f : Flit) : Flit :=
  match f.owed with
  | some (q, _) => if q = p then { f with owed := none, pool := none } else f
  | none => f

/-- The flits a port holds: queued and kept ones, those of packets that are not whole, handed over, held for a slot, or held
back by the injector. -/
def flitsIn (k : Port) : List Flit :=
  (k.tx.map (fun (e : Nat × TxVc) => e.2.queue ++ e.2.kept)).flatten ++ (k.rx.map (fun (e : Nat × RxVc) => e.2.partialPkt)).flatten ++
    k.arrived ++ (k.slotHeld.map (·.flits)).flatten ++ (match k.heldSwap with | some f => [f] | none => [])

/-- Whether a flit anywhere on the device still holds a credit of port `p`'s receiver: its buffer and pool are not empty
(R279, R282, R296). -/
def receiverBusy (s : State) (p : Nat) : Bool :=
  s.ports.any (fun (e : Nat × Port) => (flitsIn e.2).any (fun f => match f.owed with | some (q, _) => q == p | none => false))

/-- Every flit of a port changed. -/
def mapFlits (g : Flit → Flit) (k : Port) : Port :=
  { k with
    tx := k.tx.map (fun (e : Nat × TxVc) => (e.1, { e.2 with
      queue := e.2.queue.map g, kept := e.2.kept.map g, replay := e.2.replay.map g }))
    arrived := k.arrived.map g
    slotHeld := k.slotHeld.map (fun h => { h with flits := h.flits.map g })
    heldSwap := k.heldSwap.map g }

/-! ## Attention (R297) -/

/-- The attention state of a port. -/
def attnOf (s : State) (p : Nat) : Nat :=
  match portState s p with
  | 6 => if fbit s F.LNK_HP.PRESENT p then 5 else 0
  | 4 => 2
  | 5 => 3
  | 3 =>
    if fbit s F.LNK_HP.SVC_MARK p then 1
    else if (portOf s p).trainedShow then 4
    else if fbit s F.LNK_HP.FAR_MARK p then 6 else 0
  | _ => 0

/-- `LNK_HP.ATTN` brought up to date. -/
def updateAttn (p : Nat) (s : State) : State := fset F.LNK_HP.ATTN p 0 (attnOf s p) s

/-- Whether the device is in Attic-only (R454). -/
def atticOnly (s : State) : Bool := fget s F.PWR_STAT.STATE == 2

/-- The pattern of an attention state as milliseconds on and off in turn from the start of its period (R468); Safe is
steady, and no millisecond of it is off. -/
def attnPattern (code : Nat) : List (Nat × Nat) :=
  match code with
  | 1 => [(500, 500)]
  | 2 => [(125, 125)]
  | 3 => [(1000, 0)]
  | 4 => [(100, 100), (100, 700)]
  | 5 => [(100, 900)]
  | 6 => [(1000, 1000)]
  | _ => []

/-- Whether a pattern is on `t` mt after the start of its period. -/
def patternOn : List (Nat × Nat) → Nat → Bool
  | [], _ => false
  | (on, off) :: rest, t =>
    if t < on * 16000000 then true else if t < (on + off) * 16000000 then false else patternOn rest (t - (on + off) * 16000000)

/-- The period of a pattern in mt. -/
def patternPeriod (l : List (Nat × Nat)) : Nat := l.foldl (fun a x => a + (x.1 + x.2) * 16000000) 0

/-- The light `ATTN[p]` (R468, R469): the pattern of the port's attention state at the present position of machine time, whose
periods begin at whole seconds; before the first lock machine time is the free count. In Attic-only every light is off. -/
def attnLight (s : State) (p : Nat) : Bool :=
  let l := attnPattern (fget s F.LNK_HP.ATTN p)
  !atticOnly s && !l.isEmpty && patternOn l (s.time.now.toNat % max (patternPeriod l) 1)

/-- A port takes a state; one that leaves UP is no source of time any more (R257, R263). -/
def setPortState (p st : Nat) (s : State) : State :=
  let s1 := updateAttn p (fset F.LNK_STAT.STATE p 0 st s)
  if portUp s p && st != 3 then reselect s1 else s1

/-- A port has no width outside UP, DRAINING and SAFE (R303, R340). -/
def noWidth (p : Nat) (s : State) : State := fset F.RT_PWT.HALVED p 0 0 (fset F.LNK_STAT.WIDTH p 0 0 s)

/-- A link event of a port (R366). -/
def linkEvent (p code : Nat) (l : List (Nat × Nat)) (s : State) : State :=
  sendEvent (portDie p) 0x07 code (det ((p, 1) :: l)) none s

/-! ## Flows of a port that stops (R337, R403) -/

/-- The contexts whose traffic a flow carries. -/
def flowCtxs (s : State) (k : FlowKey) (t : FlowTx) : List Nat :=
  if k.vc.val ≤ 2 then (match mapFind s.cctxs k.flow.toNat with | some c => [c.slot] | none => [])
  else
    (((t.kept ++ t.held).filterMap (fun q => if q.ptype = 1 then some (byteAt q.payload 70) else none)) ++
      (s.ctxs.filterMap (fun (e : Nat × Ctx) => match e.2.stream with
        | some st => if k.flow.toNat / 4096 = 15 && st.buddy = k.dst.toNat then some e.1 else none
        | none => none))).eraseDups

/-- The breach of a held flow ends as the flow reopens (R403 cause 0x05). -/
def endHold (k : FlowKey) (s : State) : State :=
  match flowTx? s k with
  | none => s
  | some t =>
    match t.breach with
    | none => s
    | some (start, cs) =>
      cs.foldl (fun a c => breachAt 0 4 2 5 1 start c k.dst.toNat a) (setFlowTx k { t with breach := none } s)

/-- Another port that carries a stream to a node (R352). -/
def streamPort? (s : State) (node : Nat) : Option Nat :=
  (List.range 36).find? (fun p => portUp s p && fbit s F.LNK_NEIGH.VALID p && fget s F.LNK_NEIGH.NODE p == node &&
    s.ctxs.any (fun (e : Nat × Ctx) => match e.2.stream with | some st => bitAt st.ports p | none => false))

/-- The port a pinned flow is pinned to once its own is gone (R352, R361). -/
def repin (s : State) (k : FlowKey) (t : FlowTx) : Option Nat :=
  match t.pinned with
  | none => none
  | some q => if portUp s q then some q else match streamPort? s k.dst.toNat with
    | some r => some r
    | none => some q

/-- A flow whose port failed counts as closed: every unacknowledged packet is resent on the new path, and what it held
follows (R337). -/
def flowFail (k : FlowKey) (s : State) : State :=
  match flowTx? s k with
  | none => s
  | some t =>
    let t1 := { t with pinned := repin s k t }
    let path := flowPath s k t1
    let s1 := endHold k (setFlowTx k { t1 with port := path, held := [], pathDue := false } s)
    let s2 := t.kept.foldl (fun a pk => resendOn path pk a) s1
    t.held.foldl (fun a pk => match flowTx? a k with | some u => flowSend pk u a | none => a) s2

/-- Every flow on a port that failed. -/
def flowsFail (p : Nat) (s : State) : State :=
  (s.flowsTx.filter (fun (e : FlowKey × FlowTx) => e.2.port == some p)).foldl (fun a e => flowFail e.1 a) s

/-! ## Failure (R291, R298) -/

/-- A port's link layer emptied: its own flits and partial packets go, credits that they hold are returned, and nothing holds
a credit of this port any more. -/
def dropLink (p : Nat) (s : State) : State :=
  let k := portOf s p
  let fl := (k.tx.map (fun (e : Nat × TxVc) => e.2.queue ++ e.2.kept)).flatten
  let s1 := fl.foldl (fun a f => payOwed f a) s
  let s2 := { s1 with ports := s1.ports.map (fun (e : Nat × Port) => (e.1, mapFlits (forgetOwed p) e.2)) }
  modPort p (fun k =>
    { k with
      tx := [], rx := [], usedShr := 0, advShr := 0, freedShr := 0, sinceCtl := 0, sinceMarker := 0, ctlDue := false
      curVc := none, drrVc := 3, lcmd := 0, lcmdLane := 0, wire := [], lanes := [], markerOut := none, markerLanes := []
      laneCorr := [], laneRuns := [], farLr := none, poolUsed := [], txNarrowDue := false
      backDue := false, txSubstDue := none, drainDone := false, farDraining := false, farDone := false, trainPending := false, tagsUsed := []
      heldSwap := none, reqT1 := none, lastReply := none, farOffSched := false, slotSent := [], tagWaited := []
      altVc1 := false, drainDue := false, trainedShow := false }) s2

/-- Whether an unused spare port is at hand (R292). -/
def sparePort (s : State) : Bool :=
  (List.range 36).any (fun p => fget s F.LNK_CFG.ROLE p == 3 && portState s p != 6 && fget s F.LNK_STAT.ADOPTED p == 0x3F)

/-- A port becomes FAILED: the record, its kept flits discarded, its flows recovered end to end, the time source chosen
again (R263, R291). -/
def portFail (p cause : Nat) (s : State) : State :=
  let node := fget s F.LNK_NEIGH.NODE p
  let s0 := modPort p (fun k => { k with everPresent := false, quiet := false }) (dropLink p s)
  let s1 := setPortState p 6 (noWidth p (fset F.LNK_STAT.CAUSE p 0 cause s0))
  let s2 := linkEvent p 4 [(cause, 1), (node, 2)] (fset F.LNK_HP.FAR_MARK p 0 0 s1)
  let s3 := if cause < 4 && !sparePort s2 then
      noteSparesOut 2 p ((List.range 36).filter (fun q => portUp s2 q)).length s2
    else s2
  reselect (flowsFail p s3)

/-! ## Entry to TRAINING (R285, R302) -/

/-- An event drives WAKE# where `ATTIC_WAKE` enables it (R455). -/
def driveWake (f : Fld) (s : State) : State := if fbit s f then modPlat (fun x => { x with wake := true }) s else s

/-- TRAINING entered, its lanes still to lock: the settings are read; a port whose ROLE is 0, or whose die is in reset, is OFF. -/
def enterTraining (p : Nat) (s : State) : State :=
  let cfg := rget s .LNK_CFG p
  let off := bitsOf cfg.toNat 31 30 = 0 || 3 ≤ fget s F.DIE_PWR.STATE (portDie p)
  let s1 := modPort p (fun k => { k with
    cfg := cfg, lrBase := fget s F.LNK_LR_BASE.ADDR p, lrMib := fget s F.LNK_LR_CFG.SIZE_MIB p, trainPending := false })
    (dropLink p s)
  let s2 := noWidth p (fset F.LNK_STAT.CAUSE p 0 0 (fset F.LNK_STAT.LANE_LOCK p 0 0 (fset F.LNK_HP.FAR_MARK p 0 0 s1)))
  let s3 := reselect (setPortState p (if off then 0 else 2) s2)
  flowsFail p s3

/-- TRAINING_RETRY_TIMER (R286): 1 s after a failed attempt. -/
def execTrainingRetryTimer (p : PortId) (s : State) : Out :=
  if portState s p.val = 2 && (portOf s p.val).trainPending then .next (enterTraining p.val s) else .next s

/-! ## Drains (R296) -/

/-- A drain starts: DRAINING, reported in the control flits; the routing engine puts nothing new on a port that is not UP. -/
def drainStart (p : Nat) (s : State) : State :=
  setPortState p 4 (modPort p (fun k => { k with ctlDue := true, drainDue := false, drainDone := false }) s)

/-- A marked port that is UP drains, once its map is in force (R302). -/
def drainAsk (p : Nat) (s : State) : State :=
  if !portUp s p || !fbit s F.LNK_HP.SVC_MARK p then s
  else if mapStable (portOf s p) then drainStart p s
  else modPort p (fun k => { k with drainDue := true }) s

/-- A drain that waited for the new map starts. -/
def drainResume (p : Nat) (s : State) : State :=
  if (portOf s p).drainDue && mapStable (portOf s p) then
    if portUp s p then drainStart p s else modPort p (fun k => { k with drainDue := false }) s
  else s

/-- SERVICE_BUTTON_PRESS (R295): a press needs a preceding high, which ends a stuck level (R466). -/
def execServiceButtonPress (s : State) : Out :=
  let s1 := modPlat (fun x => { x with svcStuck := false }) s
  if atticOnly s then .next (driveWake F.ATTIC_WAKE.SVC s1) else .next ((List.range 36).foldl (fun a p => drainAsk p a) s1)

/-- Whether nothing uses the port any more (R296). -/
def drained (s : State) (p : Nat) : Bool :=
  let k := portOf s p
  !(s.flowsTx.any (fun (e : FlowKey × FlowTx) => e.2.port == some p && !e.2.kept.isEmpty)) &&
    k.tx.all (fun (e : Nat × TxVc) => e.2.queue.isEmpty && e.2.kept.isEmpty) &&
    k.rx.all (fun (e : Nat × RxVc) => e.2.partialPkt.isEmpty) && k.arrived.isEmpty && k.slotHeld.isEmpty && !receiverBusy s p

/-- The end of a drain judged: DRAIN_DONE once nothing uses the port, SAFE once both ends report it. -/
def drainCheck (p : Nat) (s : State) : State :=
  if portState s p != 4 then s else
  let done := drained s p
  let s1 := if done != (portOf s p).drainDone then modPort p (fun k => { k with drainDone := done, ctlDue := true }) s else s
  if done && (portOf s1 p).farDone then setPortState p 5 s1 else s1

/-- DRAIN_TIMEOUT (R296): a drain that has not reached SAFE within 10 s is abandoned. -/
def execDrainTimeout (p : PortId) (s : State) : Out :=
  if portState s p.val != 4 then .next s
  else
    let s1 := modPort p.val (fun k => { k with drainDone := false, ctlDue := true }) s
    .next (linkEvent p.val 6 [] (setPortState p.val 3 (fset F.LNK_HP.DRAIN_ABORT p.val 0 1 s1)))

/-- `SVC_MARK` written (R296): clearing it in SAFE returns the port to UP through training. -/
def svcMark (p : Nat) (mark : Bool) (s : State) : State :=
  let was := fbit s F.LNK_HP.SVC_MARK p
  let s1 := updateAttn p (fset F.LNK_HP.SVC_MARK p 0 (b2n mark) s)
  let s2 := if was != mark then modPort p (fun k => { k with ctlDue := true }) s1 else s1
  if was && !mark && portState s p = 5 then
    enterTraining p (modPort p (fun k => { k with attempts := 0, everPresent := false, quiet := false }) s2)
  else s2

/-- ATTN_TRAINED_EXPIRY (R297). -/
def execAttnTrainedExpiry (p : PortId) (s : State) : Out :=
  .next (updateAttn p.val (modPort p.val (fun k => { k with trainedShow := false }) s))

/-! ## Presence (R295, R298) -/

/-- PRESENCE_CHANGE: a port that was UP or DRAINING fails; a FAILED one stays FAILED; any other is NO_CABLE. A cable that
comes back starts training, from phase 9 of start-up on. -/
def execPresenceChange (p : PortId) (present : Bool) (s : State) : Out :=
  let q := p.val
  if fbit s F.LNK_HP.PRESENT q == present || mapGet false s.plat.flapping q then .next s
  else
    let s1 := fset F.LNK_HP.PRESENT q 0 (b2n present) s
    let st := portState s q
    let back := modPort q (fun k => { k with attempts := 0, everPresent := st == 1, quiet := false }) s1
    if atticOnly s then .next (driveWake F.ATTIC_WAKE.PRSNT s1)
    else if present && fget s F.BOOT_STAT.PHASE < 9 then .next back
    else if present then .next (enterTraining q back)
    else
      let s2 := fset F.LNK_STAT.LANE_LOCK q 0 0 (modPort q (fun k => { k with quiet := false }) s1)
      if st = 3 || st = 4 then .next (portFail q 5 s2)
      else if st = 6 then .next (updateAttn q s2)
      else .next (setPortState q 1 (noWidth q (dropLink q s2)))

/-! ## Training (R286, R290, R292, R293) -/

/-- Lanes of a mask. -/
def lanesIn (m : Nat) : Nat := popCount 9 m

/-- The substituted lane of a direction whose lanes 0 to 7 lack one at most: 0xF none; nothing where the direction cannot run
at width 8. -/
def substFor (lock : Nat) : Option Nat :=
  match (List.range 8).filter (fun i => !bitAt lock i) with
  | [] => some 0xF
  | [i] => if bitAt lock 8 then some i else none
  | _ => none

/-- The first address of a pool that is not in a store-room granule (R293), with the cause R188 would record. -/
def poolBad (s : State) (k : Port) : Option (Nat × Nat) :=
  let a := k.lrBase * 4096
  let n := k.lrMib * 2 ^ 20
  if n = 0 then some (a, 0) else
  (List.range ((a + n - 1) / 2 ^ 30 - a / 2 ^ 30 + 1)).findSome? (fun i =>
    let g := a / 2 ^ 30 + i
    let at0 := if i = 0 then a else g * 2 ^ 30
    if 1024 ≤ g || !fbit s F.MEM_GMAP.VALID g then some (at0, 0)
    else if !fbit s F.MEM_GMAP.STORE g then some (at0, 2) else none)

/-- The failed port whose neighbour a spare port has met (R292). -/
def adoptee (s : State) (p node : Nat) : Option Nat :=
  (List.range 36).find? (fun f => f != p && portState s f == 6 && fbit s F.LNK_NEIGH.VALID f && fget s F.LNK_NEIGH.NODE f == node &&
    !((List.range 36).any (fun q => q != p && fget s F.LNK_STAT.ADOPTED q == f)))

/-- The failed port's entries of every table copied to the adopting port (R308). -/
def adoptRoutes (d p f : Nat) (s : State) : State :=
  let s1 := (List.range 32).foldl (fun a m =>
    if fbit a F.RT_DIRECT.VALID m && fget a F.RT_DIRECT.PORT m == f then ruleSet d F.RT_DIRECT.PORT m 0 p a else a) s
  let s2 := (List.range 512).foldl (fun a g =>
    let b := if fbit a F.RT_RAIL.VALID g && fget a F.RT_RAIL.PORT_A g == f then ruleSet d F.RT_RAIL.PORT_A g 0 p a else a
    if fbit b F.RT_RAIL.B_VALID g && fget b F.RT_RAIL.PORT_B g == f then ruleSet d F.RT_RAIL.PORT_B g 0 p b else b) s1
  ruleSet d F.RT_PWT.WEIGHT p 0 (fget s F.RT_PWT.WEIGHT f) s2

/-- A spare port adopts a failed port: its role, EXPECT fields, weights and routes; the records, where a port with CAUSE 0 was
retired by command, with its record then (R292, R388). -/
def adopt (p f : Nat) (s : State) : State :=
  let d := portDie p
  let copy := fun (g : Fld) (a : State) => ruleSet d g p 0 (fget s g f) a
  let s1 := copy F.LNK_CFG.EXPECT_NODE (copy F.LNK_CFG.EXPECT_EN (copy F.LNK_CFG.ROLE s))
  let s2 := copy F.LNK_WRR1.W7 (copy F.LNK_WRR0.W3 (copy F.LNK_WRR0.W4 (copy F.LNK_WRR0.W5 (copy F.LNK_WRR0.W6 s1))))
  let s3 := s2.ctxs.foldl (fun a (e : Nat × Ctx) => modCtx e.1 (fun x =>
    { x with weights := (List.range 5).foldl (fun w i => mapSet 0 w (5 * p + i) (mapGet 0 x.weights (5 * f + i))) x.weights }) a) s2
  let s4 := modPort p (fun k => { k with cfg := wd (setBits k.cfg.toNat 31 30 (fget s F.LNK_CFG.ROLE f)) }) (adoptRoutes d p f s3)
  let s5 := linkEvent p 5 [(f, 1)] (fset F.LNK_STAT.ADOPTED p 0 f s4)
  if fget s F.LNK_STAT.CAUSE f = 0 then noteSpareIn 2 p p f 5 s5 else noteSpareIn 2 p p f 4 (noteRetired 2 f f 4 s5)

/-- A failed attempt: repeated 1 s later, FAILED after eight in a row. An end that trains from SAFE, its far cable pulled, goes
on without a report until the cable returns (R296). -/
def attemptFailed (p : Nat) (s : State) : State :=
  let n := (portOf s p).attempts + 1
  if (portOf s p).quiet then modPort p (fun k => { k with trainPending := true }) s
  else if 8 ≤ n then portFail p 3 (modPort p (fun k => { k with attempts := 0 }) s)
  else modPort p (fun k => { k with attempts := n, trainPending := true }) s

/-- Narrowing takes effect: the port reports width 4, and the routing engine halves its weight (R290, R308). -/
def narrowed (p : Nat) (s : State) : State :=
  let s1 := fset F.RT_PWT.HALVED p 0 1 (fset F.LNK_LANES.RX_SUBST p 0 0xF (fset F.LNK_LANES.TX_SUBST p 0 0xF s))
  if fget s1 F.LNK_STAT.WIDTH p = 4 then s1
  else noteSparesOut 1 p 4 (linkEvent p 3 [] (fset F.LNK_STAT.WIDTH p 0 4 s1))

/-- The port comes UP at a width: the link layer starts afresh and the receiver owes the whole of its credits (R279). -/
def portComesUp (p : Nat) (r : TrainResult) (rs ts : Option Nat) (s : State) : State :=
  let k0 := portOf s p
  let rx := (List.range 8).map (fun v => (v, { RxVc.empty with freedDed := dedSize k0 v % 2 ^ 24 }))
  let s1 := modPort p (fun k => { k with
    rx := rx, freedShr := shrSize k0 % 2 ^ 24, attempts := 0, ctlDue := true, rto := 64000 + r.roundTrip
    trainedShow := k.everPresent, everPresent := false, quiet := false }) (dropLink p s)
  let s2 := fset F.LNK_LR_STAT.RTT_64NS p 0 (satTo 65535 (r.roundTrip.toNat / 1024)) s1
  let s3 := match rs, ts with
    | some a, some b =>
      fset F.RT_PWT.HALVED p 0 0 (fset F.LNK_LANES.RX_SUBST p 0 a (fset F.LNK_LANES.TX_SUBST p 0 b (fset F.LNK_STAT.WIDTH p 0 8 s2)))
    | _, _ => narrowed p s2
  setPortState p 3 s3

/-- TRAINING_ATTEMPT_END (R286): lanes, pool, identity, roles, adoption. -/
def execTrainingAttemptEnd (p : PortId) (r : TrainResult) (s : State) : Out :=
  let q := p.val
  let k := portOf s q
  if portState s q != 2 || k.trainPending then .next s
  else
    let rl := r.rxLock.toNat
    let tl := r.txLock.toNat
    let s1 := fset F.LNK_LANES.TX_FAILED q 0 (511 - tl) (fset F.LNK_LANES.RX_FAILED q 0 (511 - rl) (fset F.LNK_STAT.LANE_LOCK q 0 rl s))
    match (if lrOn k then poolBad s k else none) with
    | some (a, c) => .next (portFail q 3 (recordAfault a 0 3 c s1))
    | none =>
      if lanesIn rl < 4 || lanesIn tl < 4 then .next (attemptFailed q s1)
      else
        let s2 := fset F.LNK_NEIGH.VALID q 0 1 (fset F.LNK_NEIGH.PORT q 0 r.farPort.toNat
          (fset F.LNK_NEIGH.ROLE q 0 r.farRole.toNat (fset F.LNK_NEIGH.NODE q 0 r.farNode.toNat s1)))
        let role := roleOf k
        let far := r.farRole.toNat
        let up := fun (a : State) => portComesUp q r (substFor rl) (substFor tl) a
        if bitAt k.cfg.toNat 28 && bitsOf k.cfg.toNat 27 14 != r.farNode.toNat then .next (portFail q 4 s2)
        else if role = 3 then
          match adoptee s2 q r.farNode.toNat with
          | none => .next (up s2)
          | some f => if fget s2 F.LNK_CFG.ROLE f = far then .next (up (adopt q f s2)) else .next (portFail q 4 s2)
        else if role != far && far != 3 then .next (portFail q 4 s2)
        else .next (up s2)

end Sys2Proof.Machine
end

