-- ==== Sys2Proof/Machine/Zstd.lean ====
section
/-! DEFINITION. The Zstandard frames of the file store: the frame the S8 writes for a chunk, and the frames it takes on a restore
(R355, R356). Where the fields of a frame lie is RFC 8878's, which R356 names (PRESUMED, log entry 4). -/

namespace Sys2Proof.Machine

/-! ## The content checksum: the low 32 bits of XXH64 with seed 0 -/

/-- The five primes of XXH64. -/
def xxPrime : Nat → DWord
  | 1 => 0x9E3779B185EBCA87
  | 2 => 0xC2B2AE3D27D4EB4F
  | 3 => 0x165667B19E3779F9
  | 4 => 0x85EBCA77C2B2AE63
  | _ => 0x27D4EB2F165667C5

/-- One round of a lane. -/
def xxRound (acc lane : DWord) : DWord := (acc + lane * xxPrime 2).rotateLeft 31 * xxPrime 1

/-- A lane merged into the hash. -/
def xxMerge (h v : DWord) : DWord := (h ^^^ xxRound 0 v) * xxPrime 1 + xxPrime 4

/-- The hash of the bytes after the last whole stripe: words of 8, one of 4, then bytes. -/
def xxTail (h : DWord) (b : List Byte) : DWord :=
  let w := b.length / 8
  let h1 := (List.range w).foldl (fun (a : DWord) i =>
    (a ^^^ xxRound 0 (dw (getLE b (8 * i) 8))).rotateLeft 27 * xxPrime 1 + xxPrime 4) h
  let r := b.drop (8 * w)
  let h2 := if r.length < 4 then h1 else (h1 ^^^ dw (getLE r 0 4) * xxPrime 1).rotateLeft 23 * xxPrime 2 + xxPrime 3
  (if r.length < 4 then r else r.drop 4).foldl (fun (a : DWord) x =>
    (a ^^^ dw x.toNat * xxPrime 5).rotateLeft 11 * xxPrime 1) h2

/-- XXH64 with seed 0. -/
def xxh64 (b : List Byte) : DWord :=
  let n := b.length / 32
  let lane := fun (k : Nat) (v : DWord) => (List.range n).foldl (fun (a : DWord) i => xxRound a (dw (getLE b (32 * i + 8 * k) 8))) v
  let h0 : DWord := if n = 0 then xxPrime 5 else
    let v1 := lane 0 (xxPrime 1 + xxPrime 2)
    let v2 := lane 1 (xxPrime 2)
    let v3 := lane 2 0
    let v4 := lane 3 (0 - xxPrime 1)
    [v1, v2, v3, v4].foldl xxMerge (v1.rotateLeft 1 + v2.rotateLeft 7 + v3.rotateLeft 12 + v4.rotateLeft 18)
  let h := xxTail (h0 + dw b.length) (b.drop (32 * n))
  let a := (h ^^^ h >>> 33) * xxPrime 2
  let c := (a ^^^ a >>> 29) * xxPrime 3
  c ^^^ c >>> 32

/-- The content checksum of a frame. -/
def contentChecksum (b : List Byte) : Nat := (xxh64 b).toNat % 2 ^ 32

/-! ## The frame written (R355, R356) -/

/-- The frame of a chunk of at most 4 MiB: magic, single segment with a content size of 4 bytes and a checksum, no dictionary, the
blocks, the checksum. How a chunk is cut and compressed into blocks is open. -/
def zstdFrame (chunk : List Byte) : List Byte :=
  leBytes 4 0xFD2FB528 ++ leBytes 1 0xA4 ++ leBytes 4 chunk.length ++ Config.zstdBlocks chunk ++ leBytes 4 (contentChecksum chunk)

/-! ## The frames accepted (R356) -/

/-- A frame header: content size if it is present, window size, whether a checksum follows, bytes. -/
structure ZHead where
  size : Option Nat
  window : Nat
  checked : Bool
  len : Nat
  deriving DecidableEq, Repr

/-- The header after the magic; none where R356 refuses it: a set reserved bit, a dictionary, a window above 8 MiB, or a cut. -/
def zHead (b : List Byte) : Option ZHead :=
  let d := byteAt b 0
  let single := bitAt d 5
  let dict := [0, 1, 2, 4].getD (d % 4) 0
  let win := if single then 0 else 1
  let fcs := [if single then 1 else 0, 2, 4, 8].getD (d / 64) 0
  let len := 1 + win + dict + fcs
  let w := byteAt b 1
  let size := if fcs = 0 then none else some (getLE b (1 + win + dict) fcs + (if fcs = 2 then 256 else 0))
  let window := if single then size.getD 0 else 2 ^ (10 + w / 8) + 2 ^ (10 + w / 8) / 8 * (w % 8)
  if b.length < len || bitAt d 3 || getLE b (1 + win) dict != 0 || 2 ^ 23 < window then none
  else some { size := size, window := window, checked := bitAt d 2, len := len }

/-- The blocks of a frame from `b` on, with the content and the compressed blocks of the frame so far: the content and what
follows the last block. A Compressed block's content is that of RFC 8878 and open here. -/
def zBlocks (most : Nat) : Nat → List (List Byte) → List Byte → List Byte → Option (List Byte × List Byte)
  | 0, _, _, _ => none
  | fuel + 1, seen, out, b =>
    let h := getLE b 0 3
    let n := h / 8
    let body := b.drop 3
    let kind := h / 2 % 4
    let used := if kind = 1 then 1 else n
    if b.length < 3 || body.length < used || most < n then none else
    let got := match kind with
      | 0 => some (body.take n)
      | 1 => some (List.replicate n (body.getD 0 0))
      | 2 => Config.zstdCompressed seen out (body.take n)
      | _ => none
    match got with
    | none => none
    | some c =>
      if most < c.length then none else
      let seen1 := if kind = 2 then seen ++ [body.take n] else seen
      if h % 2 = 1 then some (out ++ c, body.drop used) else zBlocks most fuel seen1 (out ++ c) (body.drop used)

/-- One frame after its magic: its content and what follows it. -/
def zFrame (b : List Byte) : Option (List Byte × List Byte) :=
  match zHead b with
  | none => none
  | some h =>
    match zBlocks (min (2 ^ 17) (max h.window 1)) b.length [] [] (b.drop h.len) with
    | none => none
    | some (out, rest) =>
      let sum := if h.checked then 4 else 0
      if rest.length < sum || (h.checked && getLE rest 0 4 != contentChecksum out) ||
          (match h.size with | some n => n != out.length | none => false) then none
      else some (out, rest.drop sum)

/-- Whether an image's bytes are all there: the header says how many they are (R350). -/
def imageWhole (im : List Byte) : Bool := 128 ≤ im.length && getLE im 24 8 ≤ im.length

/-- The image that frames spell, read until it is whole; skippable frames are skipped, anything else is refused. -/
def zFrames : Nat → List Byte → List Byte → Option (List Byte)
  | 0, _, _ => none
  | fuel + 1, out, b =>
    if imageWhole out then some out else
    let magic := getLE b 0 4
    if b.length < 8 then none
    else if magic / 16 = 0x184D2A5 then zFrames fuel out (b.drop (8 + getLE b 4 4))
    else if magic != 0xFD2FB528 then none
    else match zFrame (b.drop 4) with
      | none => none
      | some (c, rest) => zFrames fuel (out ++ c) rest

/-- The image in a host ring, none where a frame is refused. -/
def zstdContent (b : List Byte) : Option (List Byte) := zFrames (b.length + 1) [] b

end Sys2Proof.Machine
end

