-- ==== Sys2Proof/Machine/Stream.lean ====
section
/-! DEFINITION. Checkpoint streams to the buddy and to the file store, the buddy region, and restores (R343, R352 to R362). -/

namespace Sys2Proof.Machine

/-! ## Stream packets (log entry 18) -/

/-- The payload of a stream packet: a word, flags, status, context slot, buddy slot, then data from byte 16. Flags: bit 0 the
header of an image, bit 1 refusal, bit 2 restore request, bit 3 restore data, bit 4 first packet of an image. -/
def streamPayload (off flags status ctx slot : Nat) (data : List Byte) : List Byte :=
  leBytes 8 off ++ leBytes 1 flags ++ leBytes 2 status ++ leBytes 1 ctx ++ leBytes 1 slot ++ leBytes 3 0 ++ data

/-- The key of a stream flow toward a node. -/
def streamKey (s : State) (node cls flow : Nat) : FlowKey :=
  { src := BitVec.ofNat 14 (ownNode s), dst := BitVec.ofNat 14 node, vc := Fin.ofNat 8 (3 + cls), flow := BitVec.ofNat 16 flow }

/-- A packet of `PTYPE` 0x04, kept by reference (R282, R352). -/
def streamPkt (key : FlowKey) (payload : List Byte) (poison : Nat → Bool) : Pkt :=
  { ptype := 4, key := key, tag := 0, tagged := true, e2e := 0, payload := payload, poison := halvesOf payload.length poison
    ref := true, src := none }

/-- Pages that a waiting write would give a third held version (R343). -/
def waitedPages (s : State) : List Nat :=
  (s.cellars.map (fun (e : Nat × Stack) => e.2.waitCow.filterMap (fun w =>
    if cowBlock s e.1 w.1 w.2.1 = some false then pageAt s e.1 w.1 else none))).flatten

/-- The ports of a stream that can carry it now: UP, with the buddy at the far end (R352). -/
def streamPorts (s : State) (m : Stream) : List Nat :=
  (List.range 36).filter (fun p => bitAt m.ports p && portUp s p && fbit s F.LNK_NEIGH.VALID p && fget s F.LNK_NEIGH.NODE p == m.buddy)

/-- The piece to send next: one that a waiting write needs, else the first; the directory and the header wait until every
other piece is acknowledged. -/
def nextPiece (s : State) (m : Stream) : Option (Piece × List Piece) :=
  let wait := waitedPages s
  match takeFirst? (fun (p : Piece) => p.pages.any wait.contains) m.todo with
  | some r => some r
  | none => match m.todo with
    | p :: t => if t.length < 2 && !m.out.isEmpty then none else some (p, t)
    | [] => none

/-- The context of a slot whose stream is served: the one in the slot, else a context stowed from it (R362). -/
def streamOwner (s : State) (k : Nat) : Nat :=
  let has := fun (j : Nat) => match ctxOf s j with | some x => x.stream.isSome | none => false
  if has k then k else match s.stowed.find? (fun e => e.slot == k && has (stowTag e.entry)) with
    | some e => stowTag e.entry
    | none => k

/-- STREAM_PAGE_SEND (R352): the next piece of a context's cut sent on the stream port with the fewest unacknowledged bytes. -/
def execStreamPageSend (k : Slot) (s : State) : Out :=
  let o := streamOwner s k.val
  match ctxOf s o with
  | none => .next s
  | some x =>
    match x.stream with
    | none => .next s
    | some m =>
      if !m.started || m.toFile then .next s
      else match streamPorts s m, nextPiece s m with
        | [], _ => .next (ckptLost o s)
        | _, none => .next s
        | ps, some (c, rest) =>
          let load := fun (p : Nat) => m.out.foldl (fun (a : Nat) (o : Piece × Nat) => if o.2 = p then a + o.1.len else a) 0
          let p := (minBy? load ps).getD 0
          let key := streamKey s m.buddy m.cls (0xF000 + p)
          let first := m.out.isEmpty && m.acked == 0
          let parts := (List.range ((c.len + 4095) / 4096)).map (fun i => (c.off + 4096 * i, min 4096 (c.len - 4096 * i)))
          let s1 := setCtx o { x with stream := some { m with todo := rest, out := m.out ++ [(c, p)] } } s
          .next (parts.foldl (fun a (q : Nat × Nat) =>
            let flags := b2n (decide (q.1 = 0)) + 16 * b2n (first && q.1 == c.off)
            sendPktOn (some p)
              (streamPkt key (streamPayload q.1 flags 0 (slotNo s o) 0 ((m.image.drop q.1).take q.2))
                (fun i => 16 ≤ i && m.poison.getD ((q.1 + i - 16) / 64) false)) a) s1)

/-- Whether a piece sent on a port is acknowledged end to end: no packet of its flow that holds a part of it is left. -/
def pieceAcked (s : State) (m : Stream) (o : Piece × Nat) : Bool :=
  let key := streamKey s m.buddy m.cls (0xF000 + o.2)
  let holds := fun (q : Pkt) => q.ptype == 4 && decide (o.1.off ≤ getLE q.payload 0 8) && decide (getLE q.payload 0 8 < o.1.off + o.1.len)
  !(match flowTx? s key with | some t => (t.kept ++ t.held).any holds | none => false) &&
    !s.flowWait.any (fun (e : Pkt × Option Nat) => e.1.key == key && holds e.1)

/-- The cut versions of pages released (R342). -/
def dropCutPages (slot : Nat) (t : DWord) (pages : List Nat) (s : State) : State :=
  { s with held := s.held.filter (fun h => !(h.isCut && h.slot == slot && h.step == t && pages.contains h.page)) }

/-- Acknowledged pieces of a context's stream taken off it, their pages released; the stream that has none left is complete
(R342, R354). -/
def streamAcked (s : State) (slot : Nat) : State :=
  match ctxOf s slot with
  | none => s
  | some x =>
    match x.stream with
    | none => s
    | some m =>
      let done := m.out.filter (pieceAcked s m)
      if done.isEmpty then s else
      let out := m.out.filter (fun o => !pieceAcked s m o)
      let busy := ((m.todo ++ out.map (·.1)).map (·.pages)).flatten
      let acked := done.foldl (fun (a : Nat) (o : Piece × Nat) => a + o.1.len) m.acked
      let free := ((done.map (fun (o : Piece × Nat) => o.1.pages)).flatten).filter (fun p => !busy.contains p)
      let s1 := fset F.CKP_SENT.MIB slot 0 (acked / 2 ^ 20) (setCtx slot { x with stream := some { m with out := out, acked := acked } } s)
      let s2 := dropCutPages slot m.step free s1
      if m.todo.isEmpty && out.isEmpty then ckptComplete slot s2 else s2

/-! ## The buddy region (R353) -/

/-- The device address of a buddy slot. -/
def buddyBase (s : State) (k : Nat) : Nat :=
  fget s F.STR_BUDDY_BASE.ADDR * 4096 + k * (fget s F.STR_BUDDY_CFG.SLOT_GIB * 2 ^ 30)

/-- Whether a buddy slot holds a complete image. -/
def buddyValid (s : State) (k : Nat) : Bool :=
  if k = 0 then fbit s F.STR_BUDDY_STAT.SLOT0_VALID else fbit s F.STR_BUDDY_STAT.SLOT1_VALID

/-- A buddy slot's validity set. -/
def setBuddyValid (k : Nat) (b : Bool) (s : State) : State :=
  if k = 0 then fset F.STR_BUDDY_STAT.SLOT0_VALID 0 0 (b2n b) s else fset F.STR_BUDDY_STAT.SLOT1_VALID 0 0 (b2n b) s

/-- The slot that a new image goes to: not the newest valid one. -/
def buddyNext (s : State) : Nat :=
  if fget s F.STR_BUDDY_CFG.SLOTS = 1 then 0
  else
    let step := fun (k : Nat) => getLE (devBytes s (buddyBase s k) 16) 8 8
    match buddyValid s 0, buddyValid s 1 with
    | false, _ => 0
    | true, false => 1
    | true, true => if step 1 < step 0 then 1 else 0

/-- The pieces of a slot's image forgotten. -/
def clearGot (k : Nat) (s : State) : State :=
  { s with buddyGot := s.buddyGot.filter (fun (e : Nat × Nat) => e.1 / 2 ^ 41 != k) }

/-- A new image begins in its slot, whose old image becomes invalid. -/
def buddyBegin (s : State) : State :=
  let k := buddyNext s
  fset F.STR_BUDDY_STAT.RX_SLOT 0 0 k (fset F.STR_BUDDY_STAT.RECEIVING 0 0 1 (setBuddyValid k false (clearGot k s)))

/-- The refusal of a stream, sent to its source. -/
def buddyRefuse (src cls : Nat) (s : State) : State :=
  sendPktOn none (streamPkt (streamKey s src cls 0xF0FE) (streamPayload 0 2 stBadParam 0 0 []) (fun _ => false)) s

/-- Data of a stream written into the buddy slot; the header, once every byte of the image is there, makes the slot valid. -/
def buddyPut (off : Nat) (data : List Byte) (poison : Nat → Bool) (isHead : Bool) (s : State) : State :=
  let k := fget s F.STR_BUDDY_STAT.RX_SLOT
  let a := buddyBase s k + off
  let s1 := devWriteP a data (fun l => (List.range 64).any (fun i => a ≤ 64 * l + i && 64 * l + i < a + data.length && poison (64 * l + i - a))) s
  let s2 := { s1 with buddyGot := mapPut s1.buddyGot (2 ^ 41 * k + off) data.length }
  let got := (s2.buddyGot.filter (fun (e : Nat × Nat) => e.1 / 2 ^ 41 == k)).foldl (fun n (e : Nat × Nat) => n + e.2) 0
  if isHead && bitAt (byteAt data 38) 1 && got == getLE data 24 8 then
    fset F.STR_BUDDY_STAT.RECEIVING 0 0 0 (setBuddyValid k true (clearGot k s2))
  else s2

/-- A stream packet at the buddy: from the wrong node, or of an image larger than a slot, it is discarded and refused. -/
def buddyTake (src cls off : Nat) (data : List Byte) (poison : Nat → Bool) (isFirst isHead : Bool) (s : State) : State :=
  if fget s F.STR_BUDDY_CFG.SLOTS = 0 || fget s F.STR_BUDDY_CFG.SRC_NODE != src then buddyRefuse src cls s
  else
    let s1 := if isFirst || !fbit s F.STR_BUDDY_STAT.RECEIVING then buddyBegin s else s
    if fget s F.STR_BUDDY_CFG.SLOT_GIB * 2 ^ 30 < off + data.length then
      buddyRefuse src cls (fset F.STR_BUDDY_STAT.RECEIVING 0 0 0 s1)
    else buddyPut off data poison isHead s1

/-- BUDDY_STREAM_RECEIVE (R353): one stream packet, with its poison by 64 bytes of data. -/
def execBuddyStreamReceive (src : NodeId) (off : DWord) (data : List Byte) (poison : List Bool) (last : Bool) (s : State) : Out :=
  .next (buddyTake src.toNat 0 off.toNat data (fun i => poison.getD (i / 64) false) false last s)

/-! ## The file store (R355) -/

/-- Bytes written into a host ring from a position, wrapping. -/
def ringPut (base size pos : Nat) (bs : List Byte) (s : State) : State :=
  let n := size - pos % size
  hostWrite base (bs.drop n) (fun _ => false) (hostWrite (base + pos % size) (bs.take n) (fun _ => false) s)

/-- FS_STREAM_CHUNK (R342, R355): the next 4 MiB of the image becomes one frame in the host ring; pages that lie before its
end are released. -/
def execFsStreamChunk (k : Slot) (s : State) : Out :=
  let o := streamOwner s k.val
  match ctxOf s o with
  | none => .next s
  | some x =>
    match x.stream, x.fsRing with
    | some m, some (base, size) =>
      if !m.started || !m.toFile || size = 0 then .next s
      else
        let chunk := (m.image.drop m.acked).take (2 ^ 22)
        let frame := zstdFrame chunk
        let acked := m.acked + chunk.length
        let done := m.todo.filter (fun p => decide (p.off + p.len ≤ acked))
        let todo := m.todo.filter (fun p => decide (acked < p.off + p.len))
        let busy := (todo.map (·.pages)).flatten
        let free := ((done.map (·.pages)).flatten).filter (fun p => !busy.contains p)
        let m1 : Stream := { m with acked := acked, todo := todo }
        let s1 := setCtx o { x with stream := some m1, fsPos := (x.fsPos + frame.length) % size } s
        let s2 := dropCutPages o m.step free (fset F.CKP_SENT.MIB o 0 (acked / 2 ^ 20) (ringPut base size x.fsPos frame s1))
        if m.image.length ≤ acked then .next (ckptComplete o s2) else .next s2
    | _, _ => .next s

/-! ## Restores (R357 to R359) -/

/-- A directory entry read from its bytes: where its section lies, and the fields that select it. -/
structure DirEnt where
  kind : Nat
  fmt : Nat
  slot : Nat
  tag : Nat
  lidx : Nat
  elems : Nat
  off : Nat
  len : Nat
  ident : Nat
  deriving DecidableEq, Repr

/-- A directory entry of an image. -/
def dirEntOf (b : List Byte) : DirEnt :=
  { kind := byteAt b 0, fmt := byteAt b 1, slot := byteAt b 2, tag := getLE b 4 3, lidx := getLE b 8 5, elems := getLE b 13 5
    off := getLE b 18 8, len := getLE b 26 8, ident := getLE b 48 8 }

/-- The directory of a well-formed image. -/
def imageDir (im : List Byte) : Option (List DirEnt) :=
  let n := getLE im 32 4
  let total := getLE im 24 8
  let dir := (List.range n).map (fun i => dirEntOf ((im.drop (128 + 64 * i)).take 64))
  if 128 ≤ im.length && getLE im 0 4 = 0x5338434B && getLE im 4 2 = 1 && bitAt (byteAt im 38) 1 && total ≤ im.length &&
      128 + 64 * n ≤ total && dir.all (fun e => decide (e.off + e.len ≤ total)) then some dir else none

/-- A restore map entry (log entry 19). -/
structure MapEnt where
  kind : Nat
  fmt : Nat
  slot : Nat
  tag : Nat
  lidx : Nat
  count : Nat
  addr : Nat
  addr2 : Nat
  ident : Nat
  deriving DecidableEq, Repr

/-- A map entry read from its 32 bytes. -/
def mapEntOf (b : List Byte) : MapEnt :=
  { kind := byteAt b 0, fmt := byteAt b 1, slot := byteAt b 2, tag := getLE b 4 3, lidx := getLE b 8 5, count := getLE b 13 5
    addr := getLE b 18 5, addr2 := getLE b 23 5, ident := getLE b 28 4 }

/-- Whether a map entry selects elements that keep their logical index. -/
def MapEnt.tensor (e : MapEnt) : Bool := e.kind == 1 || e.kind == 2

/-- Bytes of an element of a map entry in the image. -/
def MapEnt.width (e : MapEnt) : Nat :=
  if e.kind = 1 then 4 else if e.kind = 2 then (match fmtOf e.fmt with | some f => f.elem.bits / 8 | none => 0) else 8

/-- Whether a section is one a map entry names. -/
def MapEnt.names (e : MapEnt) (d : DirEnt) : Bool :=
  d.kind == e.kind && (if e.tensor then d.tag == e.tag && d.slot == e.slot
    else if e.kind == 5 then d.slot == e.slot && d.ident % 2 ^ 32 == e.ident
    else d.ident % 2 ^ 32 == e.ident)

/-- Where element `i` of a map entry lies in the image. -/
def MapEnt.find (e : MapEnt) (dir : List DirEnt) (i : Nat) : Option Nat :=
  (dir.find? (fun d => e.names d && decide (d.lidx ≤ e.lidx + i) && decide (e.lidx + i < d.lidx + d.elems))).map
    (fun d => d.off + (e.lidx + i - d.lidx) * e.width)

/-- The destination ranges of a map entry with the plane each must lie in (none: either). -/
def MapEnt.dests (e : MapEnt) : List (Nat × Nat × Option Bool) :=
  match e.kind with
  | 1 => [(e.addr, 2 * e.count, some false), (e.addr2, 2 * e.count, some true)]
  | 2 => [(e.addr, e.width * e.count, none)]
  | 0x0A => [(e.addr, 8 * e.count, none)]
  | 5 => []
  | 7 => []
  | _ => [(e.addr, 8 * e.count, some false)]

/-- Whether a destination lies in granules of the context and in the right plane (R187, R357). -/
def destOk (s : State) (slot : Nat) (r : Nat × Nat × Option Bool) : Bool :=
  (accessCause s slot .update r.1 r.2.1).isNone &&
    (match r.2.2 with
      | none => true
      | some pl => r.2.1 == 0 || (List.range ((r.1 + r.2.1 - 1) / 2 ^ 30 - r.1 / 2 ^ 30 + 1)).all (fun i =>
          fbit s F.MEM_GMAP.PLANE (r.1 / 2 ^ 30 + i) == pl))

/-- Whether a map entry can be loaded: its format is the section's, every element has a section, its destinations are right. -/
def entOk (s : State) (slot : Nat) (dir : List DirEnt) (e : MapEnt) : Bool :=
  1 ≤ e.kind && e.kind ≤ 0x0A && 0 < e.width && e.slot < 8 &&
    dir.all (fun d => !e.names d || !e.tensor || d.fmt == e.fmt) &&
    (List.range e.count).all (fun i => (e.find dir i).isSome) && e.dests.all (destOk s slot)

/-- The selected elements of a map entry, each byte with its poison. -/
def entData (im : List Byte) (bad : Nat → Bool) (dir : List DirEnt) (e : MapEnt) : List (List (Byte × Bool)) :=
  (List.range e.count).map (fun i =>
    let o := (e.find dir i).getD 0
    (List.range e.width).map (fun j => (im.getD (o + j) 0, bad (o + j))))

/-- Bytes with poison written at a device address; a line that takes a poisoned byte is written poisoned (R190, R358). -/
def putPoisoned (addr : Nat) (bs : List (Byte × Bool)) (s : State) : State :=
  devWriteP addr (bs.map (·.1)) (fun l => (List.range 64).any (fun i =>
    addr ≤ 64 * l + i && (bs.getD (64 * l + i - addr) (0, false)).2)) s

/-- One map entry loaded. -/
def loadEnt (slot : Nat) (im : List Byte) (bad : Nat → Bool) (dir : List DirEnt) (s : State) (e : MapEnt) : State :=
  let els := entData im bad dir e
  match e.kind with
  | 1 => putPoisoned e.addr ((els.map (fun b => b.drop 2)).flatten) (putPoisoned e.addr2 ((els.map (fun b => b.take 2)).flatten) s)
  | 5 => modCtx slot (fun x => { x with solvSaved := x.solvSaved ++ [(e.addr, els.flatten.map (·.1))] }) s
  | 7 =>
    let b := els.flatten.map (·.1)
    rset64 .RNG_LSKEY_LO .RNG_LSKEY_HI slot (dw (getLE b 8 8)) (rset64 .RNG_SRKEY_LO .RNG_SRKEY_HI slot (dw (getLE b 0 8)) s)
  | _ => putPoisoned e.addr els.flatten s

/-- The tally of a map entry's elements (R358). -/
def entTally (im : List Byte) (dir : List DirEnt) (e : MapEnt) : DWord :=
  let data := (entData im (fun _ => false) dir e).flatten
  if e.tensor then secTally e.tag e.lidx e.width data
  else if e.kind = 8 then secTally 0x7FFFFF e.lidx 8 data
  else secTally 0xFFFFFF e.lidx 8 data

/-- A restore ends with a status. -/
def restoreEnd (slot status : Nat) (ys : List Word) (s : State) : State :=
  match ctxOf s slot with
  | none => s
  | some x => match x.restoreCmd with
    | none => s
    | some r => finishTaken r.src r.tag status ys (setCtx slot { x with restoreCmd := none } s)

/-- The image of a restore, where it is at hand: from the own buddy slot, from packets received, or from the host ring; and
whether a frame was refused. -/
def restoreImage (s : State) (x : Ctx) (r : Restore) : Option (List Byte) × (Nat → Bool) × Bool :=
  match r.node with
  | none =>
    match x.fsRing with
    | none => (none, fun _ => false, true)
    | some (base, size) => match zstdContent (hostBytes s base size) with
      | some im => (some im, fun _ => false, false)
      | none => (none, fun _ => false, true)
  | some (node, k) =>
    if node = ownNode s then
      let a := buddyBase s k
      (some (devBytes s a (getLE (devBytes s a 128) 24 8)), fun i => devPoison s (a + i) 1, false)
    else
      (if imageWhole r.image then some r.image else none, fun i => r.poison.getD i false, false)

/-- RESTORE_COMPLETE (R357 to R359): the image is loaded by the map, the tallies go to the host, and the context's current
step is the image's. -/
def execRestoreComplete (k : Slot) (s : State) : Out :=
  match ctxOf s k.val with
  | none => .next s
  | some x =>
    match x.restoreCmd with
    | none => .next s
    | some r =>
      match restoreImage s x r with
      | (_, _, true) => .next (restoreEnd k.val stBadParam [] s)
      | (none, _, false) => .next s
      | (some im, bad, false) =>
        let es := r.map.map mapEntOf
        match imageDir im with
        | none => .next (restoreEnd k.val stBadParam [] s)
        | some dir =>
          if !es.all (entOk s k.val dir) then .next (restoreEnd k.val stBadParam [] s)
          else
            let s1 := es.foldl (loadEnt k.val im bad dir) s
            let tallies := (es.map (fun e => leBytes 8 (entTally im dir e).toNat)).flatten
            let t := dw (getLE im 8 8)
            let s2 := modCtx k.val (fun x => { x with
              lastPosted := some t, committed := some t, restored := some t, refStamp := none, terminated := false
              stepFailed := false, stopHalted := false }) (hostWrite r.tallyAddr tallies (fun _ => false) s1)
            let s3 := if ctxState s2 k.val = 2 then fset F.CTX_STAT.STATE k.val 0 1 s2 else s2
            .next (restoreEnd k.val stOk [wd es.length] s3)

/-! ## Delivery of stream packets -/

/-- The reply to a restore request: the image in pieces, or a refusal (R357, R362). -/
def restoreServe (src ctx k : Nat) (s : State) : State :=
  let key := streamKey s src 0 0xF0FF
  let refuse := fun (st : Nat) => sendPktOn none (streamPkt key (streamPayload 0 10 st ctx k []) (fun _ => false)) s
  if fbit s F.STR_BUDDY_STAT.RECEIVING && fget s F.STR_BUDDY_STAT.RX_SLOT == k then refuse stBusy
  else if 2 ≤ k || !buddyValid s k then refuse stBadParam
  else
    let a := buddyBase s k
    let n := getLE (devBytes s a 128) 24 8
    (List.range ((n + 4095) / 4096)).foldl (fun b i =>
      let data := devBytes s (a + 4096 * i) (min 4096 (n - 4096 * i))
      sendPktOn none (streamPkt key (streamPayload (4096 * i) 8 0 ctx k data) (fun j => 16 ≤ j && devPoison s (a + 4096 * i + (j - 16)) 1)) b) s

/-- A stream packet delivered (R312). -/
def streamDeliver (pk : Pkt) (s : State) : State :=
  let b := pk.payload
  let fl := byteAt b 8
  let st := getLE b 9 2
  let ctx := byteAt b 11
  let src := pk.key.src.toNat
  let data := b.drop 16
  if bitAt fl 3 then
    if bitAt fl 1 then restoreEnd ctx st [] s
    else modCtx ctx (fun x => match x.restoreCmd with
      | some r => { x with restoreCmd := some { r with
          image := r.image ++ data
          poison := r.poison ++ (List.range data.length).map (fun i => payloadPoison pk (16 + i) 1) } }
      | none => x) s
  else if bitAt fl 2 then restoreServe src ctx (byteAt b 12) s
  else if bitAt fl 1 then
    (s.ctxs.filter (fun (e : Nat × Ctx) => match e.2.stream with
      | some m => m.started && !m.toFile && m.buddy == src
      | none => false)).foldl (fun a e => ckptAbandon e.1 stBadParam a) s
  else
    buddyTake src (pk.key.vc.val - 3) (getLE b 0 8) data (fun i => payloadPoison pk (16 + i) 1) (bitAt fl 4) (bitAt fl 0) s

end Sys2Proof.Machine
end

