-- ==== Sys2Proof/Machine/Tenancy.lean ====
section
/-! DEFINITION. Tenant contexts: port weights, binding and release of a slot, stowing and unstowing, moves of core groups
(R392 to R403). -/

namespace Sys2Proof.Machine

/-! ## Port weights (R393) -/

/-- The sum of the weights of class `k` on port `p` over the bound contexts that are not stowed. -/
def weightSum (s : State) (p k : Nat) : Nat :=
  (s.ctxs.filter (fun (e : Nat × Ctx) => e.1 < 64)).foldl (fun a e => a + mapGet 0 e.2.weights (5 * p + k)) 0

/-- The weight field of VC3 + `k`. -/
def weightFld (k : Nat) : Fld :=
  match k with
  | 0 => F.LNK_WRR0.W3
  | 1 => F.LNK_WRR0.W4
  | 2 => F.LNK_WRR0.W5
  | 3 => F.LNK_WRR0.W6
  | _ => F.LNK_WRR1.W7

/-- One weight register of a port rewritten, with its log entry, whose origin `mk` gives. -/
def rewriteWeight (mk : LogEntry → LogEntry) (p : Nat) (r : Reg) (ks : List Nat) (s : State) : State :=
  let old := rget s r p
  let t := ks.foldl (fun a k =>
    let n := weightSum a p k
    fset (weightFld k) p 0 (if n = 0 then 1 else min 255 n) a) s
  logRule (mk (logBase (.rule (by8 (portDie p))) 0 0 (regOff r p 0) (dw old.toNat) (dw (rget t r p).toNat))) t

/-- `LNK_WRR0` and `LNK_WRR1` of every port rewritten from the contexts' grants, each rewrite entered in the log. -/
def rewriteWeights (mk : LogEntry → LogEntry) (s : State) : State :=
  (List.range 36).foldl (fun a p => rewriteWeight mk p .LNK_WRR1 [4] (rewriteWeight mk p .LNK_WRR0 [0, 1, 2, 3] a)) s

/-! ## What names a slot -/

/-- The registers of a slot's windows (R40, R232, R363). -/
def windowRegs : List Reg :=
  [.RNG_SRKEY_LO, .RNG_SRKEY_HI, .RNG_LSKEY_LO, .RNG_LSKEY_HI, .RNG_LS_BASE, .RNG_LS_CNT, .RNG_STAT, .RPR_CFG, .RPR_TLY_BASE,
   .RPR_TLY_RING, .RPR_STAT, .RPR_OBS_COUNT, .CKP_CFG, .CKP_PERIOD_LO, .CKP_PERIOD_HI, .CKP_PORTS_LO, .CKP_PORTS_HI,
   .CKP_BUDDY, .CKP_STAT, .CKP_STEP_LO, .CKP_STEP_HI, .CKP_SENT]

/-- A slot's windows at their reset values. -/
def resetWindows (k : Nat) (s : State) : State := windowRegs.foldl (fun a r => rset r k 0 (regReset r k) a) s

/-- A context with its windows, descriptors, holds, microprograms, collective contexts and messages put under another tag
(R400, R401). -/
def retag (a b : Nat) (s : State) : State :=
  let t := fun (k : Nat) => if k = a then b else k
  let s1 := (.CTX_STAT :: windowRegs).foldl (fun (z : State) r => rset r a 0 (regReset r a) (rset r b 0 (rget z r a) z)) s
  { s1 with
    ctxs := match mapFind s1.ctxs a with
      | some x => mapPut (mapDel s1.ctxs a) b x
      | none => s1.ctxs
    cellars := s1.cellars.map (fun (e : Nat × Stack) => (e.1, { e.2 with
      descs := e.2.descs.map (fun (d : Nat × UpdDesc) => (d.1, { d.2 with slot := t d.2.slot })) }))
    solvers := s1.solvers.map (fun (e : Nat × Solver) => (e.1, { e.2 with
      descs := e.2.descs.map (fun (d : Nat × SolvDesc) => (d.1, { d.2 with slot := t d.2.slot })) }))
    ucode := s1.ucode.map (fun (e : Nat × UcodeSlot) => (e.1, { e.2 with slot := t e.2.slot }))
    held := s1.held.map (fun h => { h with slot := t h.slot })
    cctxs := s1.cctxs.map (fun (e : Nat × Cctx) => (e.1, { e.2 with slot := t e.2.slot }))
    colls := s1.colls.map (fun c => { c with slot := t c.slot })
    collsDone := s1.collsDone.map (fun d => (t d.1, d.2))
    msgIn := s1.msgIn.map (fun m => { m with slot := t m.slot }) }

/-- The cores of a context's core groups read another context, or none. -/
def setGroupCtx (g v : Nat) (s : State) : State :=
  (groupCores s g).foldl (fun a c => setCstat F.CORE_STAT.CTX c v (setCstat F.CORE_STAT.LCORE c 0xFFF a)) s

/-! ## Idle contexts (R398) -/

/-- Whether a task of a slot runs on a core, is saved, or is on its way to a thief. -/
def slotRuns (s : State) (k : Nat) : Bool :=
  s.cores.any (fun (e : Nat × Core) => runSlot e.2 == k && e.2.run.isSome ||
    (match e.2.probe with | some p => (match p.reply with | some (some t) => t.slot == k | _ => false) | none => false)) ||
  s.saves.any (fun (e : Nat × Core) => runSlot e.2 == k && e.2.run.isSome)

/-- Whether a cellar update of a slot is running, or one is queued too where `queued`. -/
def slotUpdates (s : State) (k : Nat) (queued : Bool) : Bool :=
  s.cellars.any (fun (e : Nat × Stack) =>
    let mine := fun (n : Nat) => match mapFind e.2.descs n with | some d => d.slot == k | none => false
    (match e.2.running with | some u => mine u.num | none => false) || (queued && e.2.fires.any mine))

/-- Whether solver work of a slot is running, or some is due too where `queued`. -/
def slotSolves (s : State) (k : Nat) (queued : Bool) : Bool :=
  s.solvers.any (fun (e : Nat × Solver) =>
    let mine := fun (n : Nat) => match mapFind e.2.descs n with | some d => d.slot == k | none => false
    (match e.2.running with | some w => mine w.num | none => false) ||
      (queued && (frontDue s e.1 ++ factDue s e.1).any (fun w => mine w.1)))

/-- The conditions of R398 but for the 10 ms without activity. -/
def workless (s : State) (k : Nat) : Bool :=
  match ctxOf s k with
  | none => false
  | some x =>
    ctxState s k == 1 && x.queues.all (fun (e : Nat × List Task) => e.2.isEmpty) && x.overflow.all (fun (e : Nat × List Task) => e.2.isEmpty) &&
      x.gated.isEmpty && !slotRuns s k && !s.colls.any (fun c => c.slot == k) && !slotUpdates s k true &&
      !slotSolves s k true && x.restoreCmd.isNone

/-! ## Stowing (R399 to R401) -/

/-- The lowest free entry of the stow area, where the stows in progress leave one. -/
def freeEntry (s : State) : Option Nat :=
  if fget s F.TEN_STOW_CFG.ENTRIES ≤ s.stowed.length + s.mgmt.stows.length then none
  else (List.range (fget s F.TEN_STOW_CFG.ENTRIES)).find? (fun n => !s.stowed.any (fun e => e.entry == n))

/-- The stow of an idle context begins. -/
def startStow (k : Nat) (cmd : Option (CmdSrc × Packet)) (s : State) : State :=
  fset F.CTX_STAT.STATE k 0 3 (modMgmt (fun m => { m with stows := m.stows ++ [(k, cmd)] }) s)

/-- Slot state written to entry `n`: the context and all it owns are kept under the entry's tag, its granules read STOWED, its
cores read no context, its weights drop out. -/
def stowNow (k n : Nat) (s : State) : State :=
  match ctxOf s k with
  | none => s
  | some x =>
    let s1 := x.groups.foldl (fun a g => setGroupCtx g 0xFF a) s
    let s2 := x.granules.foldl (fun a g => rset .MEM_GSTOW g 0 (wd (2 ^ 31 + n)) a) s1
    let s3 := fset F.CTX_STAT.STATE (stowTag n) 0 0 (retag k (stowTag n) s2)
    rewriteWeights id (fbump F.TEN_STOWS.COUNT 0 0
      { s3 with stowed := insertKey (fun (e : Stowed) => e.entry) { slot := k, entry := n, waiting := none, told := false } s3.stowed })

/-- The stowed context that returns to a slot next: the one with the earliest first trigger. -/
def nextUnstow (s : State) (k : Nat) : Option Stowed :=
  minBy? (fun e => match e.waiting with | some w => w.2.toNat | none => 0)
    (s.stowed.filter (fun e => e.slot == k && e.waiting.isSome))

/-- A waiting context's return begins where its slot allows it: at once where the slot is free, after a stow of the occupant
where that is idle. -/
def tryUnstow (k : Nat) (s : State) : State :=
  match nextUnstow s k with
  | none => s
  | some _ =>
    if ctxState s k = 0 then fset F.CTX_STAT.STATE k 0 4 (modMgmt (fun m => { m with unstows := m.unstows ++ [k] }) s)
    else if ctxState s k = 1 && fbit s F.CTX_STAT.IDLE k && (freeEntry s).isSome then startStow k none s
    else s

/-- A doorbell, command or packet for a stowed context (R401): its first one starts the unstow, or the wait for the slot,
whose breach it begins. -/
def trigger (entry fn : Nat) (s : State) : State :=
  match s.stowed.find? (fun e => e.entry == entry) with
  | none => s
  | some e =>
    if e.waiting.isSome then s else
    let go := (nextUnstow s e.slot).isNone &&
      (ctxState s e.slot == 0 || (ctxState s e.slot == 1 && fbit s F.CTX_STAT.IDLE e.slot && (freeEntry s).isSome))
    let e1 := { e with waiting := some (fn, s.time.now), told := !go }
    let s1 := { s with stowed := s.stowed.map (fun f => if f.entry = entry then e1 else f) }
    if go then tryUnstow e.slot s1
    else breachAt 0 4 0 6 0 s.time.now (stowTag entry) fn (fbump F.TEN_STOW_WAIT.COUNT 0 0 s1)

/-- The saved state restored to the slot (R401). -/
def unstowNow (k : Nat) (e : Stowed) (s : State) : State :=
  let s1 := retag (stowTag e.entry) k { s with stowed := s.stowed.filter (fun f => f.entry != e.entry) }
  let s2 := fset F.CTX_STAT.STATE k 0 1 s1
  match ctxOf s2 k with
  | none => s2
  | some x =>
    let s3 := x.granules.foldl (fun a g => rset .MEM_GSTOW g 0 0 a) s2
    let s4 := x.groups.foldl (fun a g => (groupCores a g).foldl (fun b c =>
      setCstat F.CORE_STAT.LCORE c ((lcoreOf x c).getD 0xFFF) (setCstat F.CORE_STAT.CTX c k b)) a) s3
    let s5 := rewriteWeights id (touchCtx k s4)
    if e.told then match e.waiting with
      | some (fn, start) => breachAt 0 4 0 6 1 start k fn s5
      | none => s5
    else s5

/-- The stowed context that a handle names. -/
def stowedBy (s : State) (h : Nat) : Option Stowed :=
  s.stowed.find? (fun e => e.slot == h % 64 && (match ctxOf s (stowTag e.entry) with | some x => x.serial == h / 64 | none => false))

/-! ## Binding (R392, R399, R422) -/

/-- The serial number a bind gives: the lowest that no context of the slot holds (R416). -/
def freshSerial (s : State) (k : Nat) : Nat :=
  ((List.range 1023).map (· + 1)).find? (fun n => (stowedBy s (k + 64 * n)).isNone) |>.getD 1

/-- A granule's change of owner put behind its zero fill (R186). -/
def fillTo (g : Nat) (entry : Word) (s : State) : State :=
  modMgmt (fun m => { m with zeroFills := m.zeroFills ++ [{ granule := g, entry := entry }] }) s

/-- The entry of granule `g` owned by slot `k`. -/
def ownedEntry (s : State) (g k : Nat) : Word :=
  wd (setBits (setBits (rget s .MEM_GMAP g).toNat F.MEM_GMAP.OWNED.hi F.MEM_GMAP.OWNED.lo 1) F.MEM_GMAP.CTX.hi F.MEM_GMAP.CTX.lo k)

/-- The entry of granule `g` owned by nobody. -/
def freedEntry (s : State) (g : Nat) : Word :=
  wd (setBits (setBits (rget s .MEM_GMAP g).toNat F.MEM_GMAP.OWNED.hi F.MEM_GMAP.OWNED.lo 0) F.MEM_GMAP.CTX.hi F.MEM_GMAP.CTX.lo 0)

/-- A core group given to a context (or to none): its re-binding point, then its cores' shelves are to be cleared. -/
def giveGroup (g v : Nat) (s : State) : State :=
  let s1 := setGroupCtx g v (rebindPoint g s)
  (groupCores s1 g).foldl (fun a c => modCore c (fun k => { k with clearDue := true, margin := none }) a) s1

/-- A context bound into a free slot. -/
def bindInto (mk : LogEntry → LogEntry) (k fn : Nat) (mode : Bool) (groups granules : List Nat) (weights : SMap Nat)
    (s : State) : State :=
  let x := { Ctx.empty with
    serial := freshSerial s k, groups := groups, granules := granules, weights := weights, lastActive := s.time.now }
  let s1 := setCtx k x (resetWindows k s)
  let s2 := fset F.CTX_STAT.STATE k 0 1 (fset F.CTX_STAT.MODE k 0 (b2n mode) (fset F.CTX_STAT.OWNER_FN k 0 fn (fset F.CTX_STAT.IDLE k 0 0 s1)))
  let s3 := groups.foldl (fun a g => giveGroup g k a) s2
  let s4 := ((groups.map (· / 16)).eraseDups).foldl (fun a d => cycBreak 6 d a) s3
  rewriteWeights mk (granules.foldl (fun a g => fillTo g (ownedEntry a g k) a) s4)

/-! ## Release (R211, R246, R362, R379, R392) -/

/-- A core that leaves a context: its task is gone. -/
def dropCore (c : Nat) (s : State) : State :=
  freeCore c (modCore c (fun k => { k with probe := none, moving := false, tokenFrozen := false, clearDue := true }) (dropAudit c s))

/-- Whether a started store of a slot's cores has still to complete (R180). -/
def storesLeft (s : State) (k : Nat) : Bool :=
  s.cores.any (fun (c : Nat × Core) => c.2.engines.any (fun (e : Nat × EngineItem) =>
    (match itemOwner c.2 e.2 with | some o => o.1 == k | none => false) &&
      e.2.item.kind == 0 && !e.2.fenced && (tmvOf e.2.desc).op == 1))

/-- Whether an unbinding may complete: the running update and solver work of the context have ended, its started stores have
completed, and no move takes or gives it a core group. -/
def releaseReady (s : State) (k : Nat) : Bool :=
  !slotUpdates s k false && !slotSolves s k false && !storesLeft s k &&
    !s.mgmt.moves.any (fun m => m.src == k || m.dst == some k)

/-- A command that a context owed a reply ends with TERMINATED. -/
def endOwed (r : Option (CmdSrc × BitVec 16)) (s : State) : State :=
  match r with
  | some (src, tag) => finishTaken src tag stTerminated [] s
  | none => s

/-- Every resource of a slot released; its granules are to be zero-filled (R422). -/
def releaseSlot (mk : LogEntry → LogEntry) (k : Nat) (s : State) : State :=
  match ctxOf s k with
  | none => s
  | some x =>
    let s1 := ckptAbandon k stTerminated (failPosts k s)
    let s2 := endOwed (x.ckptCmd.map (fun c => (c.1, c.2.1))) (endOwed (x.restoreCmd.map (fun r => (r.src, r.tag)))
      (endOwed (x.replaySet.bind (fun r => if r.stop.isSome then some (r.src, r.tag) else none)) s1))
    let s3 := x.groups.foldl (fun a g => giveGroup g 0xFF ((seatsOf a g).foldl (fun b c => dropCore c b) a)) s2
    let s4 := ((x.groups.map (· / 16)).eraseDups).foldl (fun a d => cycBreak 6 d a) s3
    let mineOut := fun (m : MsgOut) => match m.saved with
      | some n => (match mapFind s4.saves n with | some im => runSlot im == k | none => false)
      | none => x.groups.any (fun g => (seatsOf s4 g).contains m.core)
    let s5 := { s4 with
      saves := s4.saves.filter (fun (e : Nat × Core) => runSlot e.2 != k)
      msgOut := s4.msgOut.filter (fun m => !mineOut m)
      msgIn := s4.msgIn.filter (fun m => m.slot != k)
      colls := s4.colls.filter (fun c => c.slot != k)
      collsDone := s4.collsDone.filter (fun d => d.1 != k)
      cctxs := s4.cctxs.filter (fun (e : Nat × Cctx) => e.2.slot != k)
      held := s4.held.filter (fun h => h.slot != k)
      ucode := s4.ucode.filter (fun (e : Nat × UcodeSlot) => e.2.slot != k)
      cellars := s4.cellars.map (fun (e : Nat × Stack) =>
        let mine := fun (n : Nat) => match mapFind e.2.descs n with | some d => d.slot == k | none => false
        (e.1, { e.2 with fires := e.2.fires.filter (fun n => !mine n), descs := e.2.descs.filter (fun (d : Nat × UpdDesc) => d.2.slot != k) }))
      solvers := s4.solvers.map (fun (e : Nat × Solver) =>
        let mine := fun (n : Nat) => match mapFind e.2.descs n with | some d => d.slot == k | none => false
        (e.1, { e.2 with
          doneFront := e.2.doneFront.filter (fun w => !mine w.1), waited := e.2.waited.filter (fun w => !mine w.1)
          descs := e.2.descs.filter (fun (d : Nat × SolvDesc) => d.2.slot != k) })) }
    let s6 := x.granules.foldl (fun a g => fillTo g (freedEntry a g) a) s5
    let s7 := rset .CTX_STAT k 0 0 { clearFails k s6 with ctxs := mapDel s6.ctxs k }
    tryUnstow k (rewriteWeights mk s7)

/-- The unbinding of a slot begins: the context halts (R422). -/
def startUnbind (k : Nat) (cmd : Option (CmdSrc × BitVec 16)) (s : State) : State :=
  modMgmt (fun m => { m with unbinding := m.unbinding ++ [(k, cmd)] }) (haltCtx k s)

/-- An unbinding that may complete does; the reply of its command waits for the zero fills. -/
def tryUnbind (s : State) (u : Nat × Option (CmdSrc × BitVec 16)) : State :=
  if !releaseReady s u.1 then s else
  let gs := match ctxOf s u.1 with | some x => x.granules | none => []
  let mk := match u.2.bind (fun c => findTaken s c.1 c.2) with
    | some t => asCmd t.src t.pk
    | none => id
  let s1 := modMgmt (fun m => { m with unbinding := m.unbinding.filter (fun v => v.1 != u.1) }) (releaseSlot mk u.1 s)
  match u.2 with
  | some (src, tag) => modTaken src tag (fun t => { t with final := some (stOk, []), waits := gs }) s1
  | none => s1

/-- `FN_STAT.FLR_BUSY` while a function's contexts are still being unbound (R408). -/
def flrBusy (s : State) (f : Nat) : Bool := s.mgmt.unbinding.any (fun u => u.2.isNone && ownerOf s u.1 == f)

/-- Unbindings after a Function Level Reset completed where they may, with their functions' `FLR_BUSY`. -/
def finishFlr (s : State) : State :=
  let s1 := (s.mgmt.unbinding.filter (fun u => u.2.isNone)).foldl tryUnbind s
  (List.range 65).foldl (fun a f =>
    if fbit a F.FN_STAT.FLR_BUSY f && !flrBusy a f then fset F.FN_STAT.FLR_BUSY f 0 0 a else a) s1

/-- CONTEXT_IDLE (R398, R401): 10 ms without activity have passed for a context without work; a context that waits for its
slot starts to return. -/
def execContextIdle (k : Slot) (s : State) : Out :=
  let s := finishFlr s
  if workless s k.val then .next (tryUnstow k.val (fset F.CTX_STAT.IDLE k.val 0 1 s)) else .next s

/-! ## Moves of core groups (R394 to R397) -/

/-- The context that holds a core group. -/
def groupOwner (s : State) (g : Nat) : Option Nat :=
  (s.ctxs.find? (fun (e : Nat × Ctx) => e.2.groups.contains g)).map (·.1)

/-- The cores of a group that run tasks, whose images a move saves. -/
def runningIn (s : State) (g : Nat) : List Nat := (groupCores s g).filter (fun c => (coreOf s c).run.isSome)

/-- Images that the re-binding area still takes: 192, less those saved and those that moves in progress will save (R395). -/
def savesFree (s : State) : Nat :=
  (if fget s F.TEN_REBIND_BASE.ADDR = 0 then 0 else 192) - s.saves.length - s.mgmt.moves.foldl (fun a m => a + m.saves.length) 0

/-- The move of a group begins: its cores stop issuing (phase 1). -/
def startMove (g src : Nat) (dst : Option Nat) (cmd : Option (CmdSrc × BitVec 16)) (s : State) : State :=
  let m : Move := { group := g, src := src, dst := dst, request := s.time.now, late := false, cmd := cmd, saves := runningIn s g }
  (groupCores s g).foldl (fun a c => modCore c (fun k => { k with moving := true }) a)
    (cycBreak 6 (g / 16) (modMgmt (fun n => { n with moves := n.moves ++ [m] }) s))

/-- Whether a core of a moving group has stopped and drained: its freeze has run to its end and every started item that no
fence holds has completed (R84, R394). In a context that has halted no freeze ends. -/
def drainedCore (s : State) (c : Nat) : Bool :=
  let k := coreOf s c
  match k.run with
  | none => k.engines.isEmpty
  | some r =>
    let frozen := k.repeatDue || k.slowDue.isSome || slowNow k || k.tokenFrozen ||
      (cstat s F.CORE_STAT.FRZ c == 1 && (match fetch s k with | some b => !arrivalOk s c k r b | none => false))
    !(frozen && ctxState s r.task.slot == 1) && k.engines.all (fun (e : Nat × EngineItem) => e.2.fenced)

/-- The save image of a running core (phases 3 and 4): results in flight land, accumulators are added into their crate tile,
started items that a fence holds return to the queue. -/
def saveImage (s : State) (c n : Nat) : Core :=
  let k := coreOf s c
  let slot := runSlot k
  let k1 := landAll (constLines s slot) k.pend.length k
  let k2 := match k1.accTile with | some ct => spill ct k1 | none => k1
  { k2 with
    queue := (k.engines.map (fun (e : Nat × EngineItem) => e.2.item)) ++ k.queue, engines := []
    run := k2.run.map (fun r => { r with task := { r.task with saved := some n }, audit := none }) }

/-- The lowest save number not in use. -/
def freeSave (s : State) : Nat := (List.range (s.saves.length + 1)).find? (fun n => (mapFind s.saves n).isNone) |>.getD 0

/-- A running core's task saved: its items stay with it, and it goes to the head of its logical core's queue (R396, R397). -/
def saveCore (c : Nat) (s : State) : State :=
  match (coreOf s c).run with
  | none => s
  | some r =>
    let n := freeSave s
    let s1 := settleSlow c (dropAudit c s)
    let im := saveImage s1 c n
    let l := match ctxOf s r.task.slot with | some x => (servedL s x c).getD r.task.home | none => r.task.home
    let s2 := { s1 with
      saves := mapPut s1.saves n im
      msgOut := s1.msgOut.map (fun m => if m.core = c && m.saved.isNone then { m with saved := some n } else m)
      colls := s1.colls.map (collToSaved c n) }
    modCtx r.task.slot (fun x => { x with queues := mapPut x.queues l ({ r.task with saved := some n } :: queueOf x l) })
      (freeCore c s2)

/-- A stolen task on its way to a core of a moving group goes back to the head of its queue. -/
def returnProbe (c : Nat) (s : State) : State :=
  match (coreOf s c).probe with
  | none => s
  | some p =>
    let s1 := modCore c (fun k => { k with probe := none }) s
    match p.reply with
    | some (some t) => modCtx t.slot (fun x => { x with queues := mapPut x.queues t.home (t :: queueOf x t.home) }) s1
    | _ => s1

/-- The token pool of a context on a die kept as it stands until the next window (R87). -/
def keepPool (k d : Nat) (s : State) : State := modCtx k (fun x => { x with tokens := mapPut x.tokens d (poolLeft x d) }) s

/-- Whether a move may complete: every core has stopped and drained; the last core group of a context leaves once its
updates and solver work have completed. -/
def moveReady (s : State) (m : Move) : Bool :=
  (groupCores s m.group).all (drainedCore s) &&
    (match ctxOf s m.src with
      | some x => x.groups.any (· != m.group) || ctxState s m.src != 1 ||
          (!slotUpdates s m.src true && !slotSolves s m.src true)
      | none => true)

/-- The two contexts of a move. -/
def moveCtxs (m : Move) : List Nat := m.src :: m.dst.toList

/-- The group changes hands: images saved, cores cleared, retired members replaced, grants rewritten. -/
def moveNow (m : Move) (s : State) : State :=
  let d := m.group / 16
  let s1 := (groupCores s m.group).foldl (fun a c => modCore c (fun k => { k with moving := false, tokenFrozen := false })
    (saveCore c (returnProbe c a))) s
  let s2 := (moveCtxs m).foldl (fun a k => keepPool k d a) s1
  let s3 := modCtx m.src (fun x => { x with groups := x.groups.filter (· != m.group) }) s2
  let dest := match m.dst with
    | some k => if ctxState s3 k = 1 || ctxState s3 k = 2 then some k else none
    | none => none
  match dest with
  | some k => giveGroup m.group k (modCtx k (fun x => { x with groups := insertKey id m.group x.groups }) s3)
  | none => giveGroup m.group 0xFF s3

/-- MOVE_COMPLETE (R394 to R397, R386 to R388, R403): the oldest move that may complete does. -/
def execMoveComplete (s : State) : Out :=
  match takeFirst? (moveReady s) s.mgmt.moves with
  | none => .next s
  | some (m, rest) =>
    let go := fun (a : State) => moveNow m (modMgmt (fun n => { n with moves := rest }) a)
    let s1 := match m.cmd with
      | some (src, tag) => loggedAs src tag go s
      | none => go s
    let s2 := if m.late then (moveCtxs m).foldl (fun a k => breachAt 0 4 0 7 1 m.request k m.group a) s1 else s1
    .next (match m.cmd with
      | some (src, tag) => finishTaken src tag stOk [] s2
      | none => s2)

/-- MOVE_BEYOND_3_MS (R394, R403): the oldest move not yet late passes 3 ms. -/
def execMoveBeyond3Ms (s : State) : Out :=
  match s.mgmt.moves.find? (fun m => !m.late) with
  | none => .next s
  | some m =>
    let s1 := modMgmt (fun n => { n with moves := n.moves.map (fun o => if o.group = m.group then { o with late := true } else o) })
      (fbump F.TEN_MOVE_LATE.COUNT 0 0 s)
    .next ((moveCtxs m).foldl (fun a k => breachAt 0 4 0 7 0 m.request k m.group a) s1)

end Sys2Proof.Machine
end

