-- ==== Sys2Proof/Machine/Margin.lean ====
section
/-! DEFINITION. Margin runs on units bound to no context (R384 to R386, R383). -/

namespace Sys2Proof.Machine

/-- Stress levels of a row (R385). -/
def marginLevels (row : Nat) : Nat := match row with | 0 => 5 | 1 => 3 | _ => 1

/-- Whether a core belongs to no context: a spare, or an active core of a core group that nobody holds. -/
def looseCore (s : State) (c : Nat) : Bool :=
  (coreOf s c).run.isNone && !(coreOf s c).moving &&
    (cstat s F.CORE_STAT.STATE c == 0 ||
      (cstat s F.CORE_STAT.STATE c == 1 && cstat s F.CORE_STAT.CTX c == 0xFF &&
        (match seatOf s c with | some g => (groupOwner s g).isNone | none => true)))

/-- Whether a unit may be tested under a row: it is bound to no context, and the row's stress acts on it (R87, R384, R385). -/
def marginOk (s : State) (u : UnitRef) (row : Nat) : Bool :=
  let p := u.place.val
  match u.kind.val with
  | 0 =>
    let c := 272 * p + u.unit
    p < 8 && u.unit < 272 && row < 3 && looseCore s c && (coreOf s c).margin.isNone &&
      (List.range 16).any (fun k => (groupOwner s (16 * p + k)).isNone) &&
      (row != 2 || (1360 ≤ fget s F.DIE_SENS.TJ p && fget s F.DIE_SENS.TJ p ≤ 1600))
  | 1 =>
    row == 3 && u.unit == 8 && portUp s p && fget s F.LNK_STAT.WIDTH p == 8 && fget s F.LNK_LANES.TX_SUBST p == 0xF &&
      !bitAt (fget s F.LNK_LANES.TX_FAILED p) 8
  | 3 => p < 16 && row == 4 && stackOk s p && u.unit < 2 ^ 26 && (pageAt s p (64 * rowLine u.unit)).isNone
  | 5 => p < 16 && row == 5 && stackOk s p && 64 ≤ u.unit && u.unit < (stackOf s p).engines
  | _ => false

/-- MARGIN_RUN_START (R384, R385, R426): a run of firmware test kernels under one stress row begins, unless margin runs are off or
shed. A run on a core is an intervention in its die's schedule (R46). -/
def execMarginRunStart (u : UnitRef) (row : Fin 6) (s : State) : Out :=
  if fget s F.FLT_CFG.MRG_DAYS = 0 || 2 ≤ fget s F.MGMT_LOAD.SHED || s.mgmt.margins.any (fun m => m.1 == u) || !marginOk s u row.val
  then .next s
  else
    let s1 := fbump F.MRG_RUNS.COUNT 0 0 (modMgmt (fun m => { m with margins := m.margins ++ [(u, row.val)] }) s)
    if u.kind.val = 0 then
      .next (cycBreak 6 u.place.val (modCore (272 * u.place.val + u.unit) (fun k => { k with margin := some row.val }) s1))
    else .next s1

/-- The unit of a failed run retired; it is bound to no context, so that is at once (R386 to R388). -/
def marginRetire (u : UnitRef) (s : State) : State :=
  let p := u.place.val
  match u.kind.val with
  | 0 =>
    let c := 272 * p + u.unit
    let k := coreOf s c
    let s1 := retireCore (if k.suspect then k.retireDue.getD 1 else 0) c s
    match seatOf s1 c with
    | some g => fillSeats g s1
    | none => if (spareOf s1 p).isNone then noteSparesOut 0 p (activeOn s1 p) s1 else s1
  | 1 => noteSparesOut 1 p 8 (noteRetired 1 p 8 0
      (fset F.LNK_LANES.TX_FAILED p 0 (fget s F.LNK_LANES.TX_FAILED p + 2 ^ 8) s))
  | 3 => needRetire p u.unit 0 s
  | 5 =>
    if (stackOf s p).running.isSome then modStack p (fun k => { k with engDue := k.engDue ++ [(u.unit, 0)] }) s
    else retireEngine p (u.unit, 0) s
  | _ => s

/-- MARGIN_RUN_DONE (R383, R385, R386): the results of the levels run so far, ascending. A unit fails at the first level that
fails; a run whose levels are not all done pauses; a suspect that passes returns to the spares. -/
def execMarginRunDone (u : UnitRef) (passed : List Bool) (s : State) : Out :=
  match s.mgmt.margins.find? (fun m => m.1 == u) with
  | none => .next s
  | some (_, row) =>
    let c := 272 * u.place.val + u.unit
    let s1 := modMgmt (fun m => { m with margins := m.margins.filter (fun n => n.1 != u) }) s
    if u.kind.val = 0 && (coreOf s c).margin != some row then .next s1
    else
      let lv := passed.findIdx (· == false)
      let clear := fun (k : Core) => { k with margin := none }
      if lv < marginLevels row && lv < passed.length then
        let s2 := if u.kind.val = 0 then modCore c clear s1 else s1
        let s3 := sendEvent (spareOrigin u.kind.val u.place.val) 0x05 1
          (det [(u.kind.val, 1), (u.place.val, 1), (u.unit % 65536, 2), (row, 1), (lv, 1)]) none (fbump F.MRG_FAILS.COUNT 0 0 s2)
        .next (marginRetire u s3)
      else if passed.length < marginLevels row then .next s
      else if u.kind.val = 0 then
        .next (modCore c (fun k => { k with margin := none, suspect := false, clearDue := true }) s1)
      else .next s1

end Sys2Proof.Machine
end

