-- ==== Sys2Proof/Machine/Views.lean ====
section
/-! DEFINITION. What a register reads as: its stored value, with the fields that show other state put in. -/

namespace Sys2Proof.Machine

/-- The reader's latch of `MT_NOW_HI`: one for each function, and one for each other kind of reader (R250). -/
def readerKey (o : Origin) : Nat :=
  match o with
  | .host f => f.val
  | .firmware c => 65 + c.val
  | .dieAgent d => 73 + d.val
  | .mctp _ => 81
  | .testPort => 82
  | .rule _ => 83

/-- A register value with one field put in, saturating at the field's width. -/
def putFld (f : Fld) (x : Nat) (v : Word) : Word := wd (setBits v.toNat f.hi f.lo (satTo (2 ^ (f.hi + 1 - f.lo) - 1) x))

/-- How many indices below `n` satisfy `p`. -/
def countIf (n : Nat) (p : Nat → Bool) : Nat := (idxWhere n p).length

/-- A stack's frames that lie in no valid granule (`CEL_STAT.FRAMES_FREE`): 64 MiB frames of the 48 GiB (R184, R212); a
stack out of service has none, as at reset (DESIGN CHOICE, log entry 87). -/
def framesFree (s : State) (m : Nat) : Nat :=
  if !stackOk s m then 0 else
  let ranges := (List.range 1024).filterMap (fun g => if fbit s F.MEM_GMAP.VALID g then some (granuleRanges (rget s .MEM_GMAP g)) else none)
  let mine := ranges.flatten.filter (fun r => r.1 == m)
  countIf 768 (fun f => !mine.any (fun r => decide (r.2.1 < (f + 1) * 2 ^ 26) && decide (f * 2 ^ 26 < r.2.1 + r.2.2)))

/-- `UPD_STAT` of a stack (R212). -/
def updStat (s : State) (m : Nat) : Word :=
  let k := stackOf s m
  let run := match k.running with | some u => some u.num | none => none
  putFld F.UPD_STAT.RUNNING (b2n run.isSome) (putFld F.UPD_STAT.REGISTERED k.descs.length
    (putFld F.UPD_STAT.QUEUED (k.fires.length + b2n run.isSome) (putFld F.UPD_STAT.CURRENT (run.getD 0) 0)))

/-- The attempt of the running matrix (R240, R247): its attempts are one event of the model, and the last of them shows (log entry
88). -/
def solvAttempt (s : State) (w : SolvWork) (e : SolvDesc) : Nat :=
  let v := solvOf e.bytes
  if w.stage = 0 || v.op = 3 then 0 else
  let ra := v.bankRange (w.step.toNat % 2) w.matrix
  ((factMatrix { v with op := if v.op = 2 then 0 else v.op } (devBytes s ra.1 ra.2) []).2.filter (fun p => p.kind == 0)).length

/-- `SOLV_STAT` of a die (R247). -/
def solvStat (s : State) (d : Nat) : Word :=
  let k := solverOf s d
  let v := putFld F.SOLV_STAT.REGISTERED k.descs.length 0
  match k.running with
  | none => v
  | some w =>
    let (slot, att) := match mapFind k.descs w.num with | some e => (slotNo s e.slot, solvAttempt s w e) | none => (0, 0)
    putFld F.SOLV_STAT.RUNNING 1 (putFld F.SOLV_STAT.CTX slot (putFld F.SOLV_STAT.STAGE w.stage
      (putFld F.SOLV_STAT.ATTEMPT att (putFld F.SOLV_STAT.MATRIX w.matrix v))))

/-- Commands that wait in a command ring: entries from its head to the doorbell (R413). -/
def ringWaiting (s : State) (f r : Nat) : Nat :=
  let n := ringSize s f r
  if fbit s F.RING_CFG.EN f r then (fget s F.RING_SQ_DB.INDEX f r % n + n - fget s F.RING_STAT.SQ_HEAD f r % n) % n else 0

/-- Commands waiting in rings (`MGMT_LOAD.QUEUED`). -/
def ringsWaiting (s : State) : Nat :=
  (List.range 260).foldl (fun a i => if fbit s F.RING_CFG.KIND (i / 4) (i % 4) then a else a + ringWaiting s (i / 4) (i % 4)) 0

/-- A write that waits for its context's next step begin reads back: R232 and R40 say when it takes effect, and nothing of
what a read returns until then (DESIGN CHOICE, log entry 75). -/
def pendingVal (s : State) (k off : Nat) : Option Word :=
  match ctxOf s k with
  | none => none
  | some x => ((x.pendingRegs.filter (fun e => e.1 == off)).getLast?).map (·.2)

/-- What a register reads as to a reader. -/
def regView (s : State) (o : Origin) (r : Reg) (i j : Nat) : Word :=
  let v := rget s r i j
  match r with
  | .MGMT_LOAD => putFld F.MGMT_LOAD.QUEUED (ringsWaiting s) v
  | .LOCK_STAT => putFld F.LOCK_STAT.STORE (fget s F.STR_CFG.LOCK) v
  | .CTX_STAT => putFld F.CTX_STAT.STOWED_HERE (s.stowed.filter (fun e => e.slot == i)).length v
  | .CTX_LAST_LO => match ctxOf s i with | some x => wd x.lastActive.toNat | none => 0
  | .CTX_LAST_HI => match ctxOf s i with | some x => wd (x.lastActive.toNat / 2 ^ 32) | none => 0
  | .TEN_STAT =>
    putFld F.TEN_STAT.BOUND (countIf 64 (fun k => ctxState s k != 0)) (putFld F.TEN_STAT.STOWED s.stowed.length v)
  | .RNG_SRKEY_LO => (pendingVal s i (regOff r i j)).getD v
  | .RNG_SRKEY_HI => (pendingVal s i (regOff r i j)).getD v
  | .RNG_LSKEY_LO => (pendingVal s i (regOff r i j)).getD v
  | .RNG_LSKEY_HI => (pendingVal s i (regOff r i j)).getD v
  | .RNG_LS_BASE => (pendingVal s i (regOff r i j)).getD v
  | .RNG_LS_CNT => (pendingVal s i (regOff r i j)).getD v
  | .RPR_CFG => putFld F.RPR_CFG.MODE (fget s F.CTX_STAT.MODE i) ((pendingVal s i (regOff r i j)).getD v)
  | .RPR_TLY_BASE => (pendingVal s i (regOff r i j)).getD v
  | .SOLV_STAT => solvStat s i
  | .LNK_LR_STAT => putFld F.LNK_LR_STAT.FILL_MIB (((portOf s i).poolUsed.length + 8191) / 8192) v
  | .CEL_STAT =>
    putFld F.CEL_STAT.IN_SERVICE (b2n (stackOk s i)) (putFld F.CEL_STAT.FRAMES_FREE (framesFree s i) v)
  | .UPD_STAT => updStat s i
  | .DUM_CORE => if j = 8 then wd (v.toNat % 65536) else v
  | .COL_NODE => putFld F.COL_NODE.SET (b2n (mapGet false s.once (32 * regOff .COL_NODE 0 0))) v
  | .COL_STAT =>
    putFld F.COL_STAT.IN_FLIGHT (collsFlying s) (putFld F.COL_STAT.BANKS_FREE (banksFree s)
      (putFld F.COL_STAT.SPARE_BANKS (s.banks - 256) v))
  | .MT_NOW_LO => wd s.time.now.toNat
  | .MT_NOW_HI => mapGet 0 s.time.hiLatch (readerKey o)
  | .LOG_STAT => putFld F.LOG_STAT.FULL (b2n (decide (logFree s < 65))) (putFld F.LOG_STAT.PENDING s.logBuf.length v)
  | .STR_COW => putFld F.STR_COW.FREE_PAGES (cowFree s i) v
  | .WEAR_STAT => putFld F.WEAR_STAT.FULL (b2n (decide (4096 ≤ s.wear.length))) (putFld F.WEAR_STAT.ENTRIES s.wear.length v)
  | .SPR_DIE =>
    let n := fun (p : Nat → Bool) => countIf 272 (fun c => p (272 * i + c))
    putFld F.SPR_DIE.SPARES_GOOD (n (goodSpare s)) (putFld F.SPR_DIE.RETIRED (n (fun c => cstat s F.CORE_STAT.STATE c == 3))
      (putFld F.SPR_DIE.SUSPECT (n (fun c => (coreOf s c).suspect)) v))
  | .CLK_SRC_STAT => putFld F.CLK_SRC_STAT.HOLD_ANY (b2n ((List.range 79).any (fun n => fbit s F.CLK_DSTAT.HOLD n))) v
  | .PWR_STAT =>
    putFld F.PWR_STAT.DIE_IDLE ((List.range 8).foldl (fun a d => a + b2n (fget s F.DIE_PWR.STATE d == 1) * 2 ^ d) 0) v
  | _ => v

/-- The bits of a register that software reads as 0: write-only fields and bits of no field (R5, R6). -/
def readMask (r : Reg) : Nat :=
  (fieldsOf r).foldl (fun a f => if f.acc = .wo then a else a + (2 ^ (f.hi + 1 - f.lo) - 1) * 2 ^ f.lo) 0

/-- A register read without its effects. -/
def readWord (s : State) (o : Origin) (r : Reg) (i j : Nat) : Word :=
  wd ((regView s o r i j).toNat &&& readMask r)

/-- The RC fields of a register cleared (R5, R7). -/
def clearRc (r : Reg) (i j : Nat) (s : State) : State :=
  (fieldsOf r).foldl (fun a f => if f.acc = .rc then fset ⟨r, f.hi, f.lo⟩ i j 0 a else a) s

/-- A read with its effects: RC fields clear, `MT_NOW_LO` latches `MT_NOW_HI` (R5, R250). -/
def readReg (o : Origin) (r : Reg) (i j : Nat) (s : State) : Word × State :=
  let v := readWord s o r i j
  match r with
  | .MT_NOW_LO => (v, modTime (fun t => { t with hiLatch := mapPut t.hiLatch (readerKey o) (wd (s.time.now.toNat / 2 ^ 32)) }) s)
  | _ => (v, clearRc r i j s)

end Sys2Proof.Machine
end

