-- ==== Sys2Proof/Machine/Clocks.lean ====
section
/-! DEFINITION. Clock sources and their monitors, PLL domains, fall-back and holdover, die resets, throttling, rails
(R438 to R453, R463). -/

namespace Sys2Proof.Machine

/-! ## Alerts (R460) -/

/-- ALERT_N asserted by the attic for a cause; it stays asserted until VDD_ATTIC powers up again (log entry 25). -/
def alert (cause : Nat) (s : State) : State := fset F.ATTIC_STAT.ALERT 0 0 1 (fset F.ATTIC_STAT.CAUSE 0 0 cause s)

/-! ## Domains (R443 to R448) -/

/-- `READY` of a source: 0 REFCLK_A, 1 REFCLK_B, 2 SOSC. -/
def srcReady (s : State) (x : Nat) : Bool :=
  match x with
  | 0 => fbit s F.CLK_SRC_STAT.READY_A
  | 1 => fbit s F.CLK_SRC_STAT.READY_B
  | 2 => fbit s F.CLK_SRC_STAT.READY_S
  | _ => false

/-- Whether domain `n` may take a source (R443). -/
def domAllows (n x : Nat) : Bool := decide (x < 2) || (x == 2 && !(decide (40 ≤ n) && decide (n ≤ 75)))

/-- The die of a domain; the machine time unit and the management sets have none. -/
def domDie (n : Nat) : Option Nat :=
  if n < 24 then some (n % 8) else if n < 40 then some ((n - 24) / 2) else if n < 76 then some (portDie (n - 40)) else none

/-- The effective ratio of a die's cores (R446). -/
def effRatio (s : State) (d : Nat) : Nat := min (fget s F.CLK_DOM.RATIO d) (fget s F.DIE_PWR.RATIO_CAP d)

/-- A die's core clock taken to its effective ratio, unless its PLL is held; a change breaks cycle repeat for a cause. -/
def settleRatio (cause d : Nat) (s : State) : State :=
  if fbit s F.CLK_DSTAT.HOLD d || !fbit s F.CLK_DSTAT.LOCK d || fget s F.CLK_DSTAT.CUR_RATIO d = effRatio s d then s
  else cycBreakAll cause (fset F.CLK_DSTAT.CUR_RATIO d 0 (effRatio s d) s)

/-- Whether a domain holds with no reference to go to. -/
def holding (s : State) (n : Nat) : Bool := fbit s F.CLK_DSTAT.HOLD n && (mapFind s.plat.relock n).isNone

/-- A change of reference begins: the PLL holds and relocks (R447). -/
def beginSwitch (n x : Nat) (s : State) : State :=
  modPlat (fun p => { p with relock := mapPut p.relock n x }) (fset F.CLK_DSTAT.HOLD n 0 1 s)

/-- A log entry of the S8's own rules for a domain's status register. -/
def logDom (n status : Nat) (old : Word) (s : State) : State :=
  logRule (logBase (.rule (by8 ((domDie n).getD 0))) 0 status (regOff .CLK_DSTAT n 0) (dw old.toNat)
    (dw (rget s .CLK_DSTAT n).toNat)) s

/-- The fall-back of a domain: none where it equals `SEL` (R460). -/
def fallBack (s : State) (n : Nat) : Option Nat :=
  let fb := fget s F.CLK_DOM.FB n
  if fb = fget s F.CLK_DOM.SEL n || !domAllows n fb then none else some fb

/-- A switch to the fall-back. -/
def takeFallBack (n fb : Nat) (s : State) : State :=
  let old := rget s .CLK_DSTAT n
  logDom n stOk old (fset F.CLK_DSTAT.FELL_BACK n 0 1 (beginSwitch n fb s))

/-- Domain `n` has lost its source (R448): it switches to its fall-back where that is READY, and holds otherwise. -/
def domLoses (n : Nat) (s : State) : State :=
  let old := rget s .CLK_DSTAT n
  match fallBack s n with
  | some fb => if srcReady s fb then takeFallBack n fb s else logDom n stNotReady old (fset F.CLK_DSTAT.HOLD n 0 1 s)
  | none => logDom n stNotReady old (fset F.CLK_DSTAT.HOLD n 0 1 s)

/-- Every domain whose current source is `x` loses it; one that was relocking to `x` too. -/
def loseSource (x : Nat) (s : State) : State :=
  (List.range 79).foldl (fun a n =>
    if !fbit a F.CLK_DSTAT.LOCK n then a
    else match mapFind a.plat.relock n with
      | some y =>
        if y = x then domLoses n (fset F.CLK_DSTAT.CUR n 0 x (modPlat (fun p => { p with relock := mapDel p.relock n }) a)) else a
      | none => if fget a F.CLK_DSTAT.CUR n = x && !fbit a F.CLK_DSTAT.HOLD n then domLoses n a else a) s

/-- Domains that hold for source `x` resume on it. -/
def resumeSource (x : Nat) (s : State) : State :=
  (List.range 79).foldl (fun a n =>
    if holding a n && fget a F.CLK_DSTAT.CUR n = x then
      let b := fset F.CLK_DSTAT.HOLD n 0 0 a
      if n < 8 then settleRatio 1 n b else b
    else a) s

/-- Source `x` has become READY: holding domains resume on it or switch to it. -/
def gainSource (x : Nat) (s : State) : State :=
  (List.range 79).foldl (fun a n => if holding a n && fallBack a n == some x then takeFallBack n x a else a) (resumeSource x s)

/-- The judgement of a write to `CLK_DOM[n]` (R445). -/
def clkJudge (s : State) (n : Nat) (v : Word) : Nat :=
  let sel := bitsOf v.toNat 31 30
  let fb := bitsOf v.toNat 29 28
  let ratio := bitsOf v.toNat 8 0
  if !domAllows n sel || !domAllows n fb then stBadParam
  else if n < 8 && (ratio < 48 || 160 < ratio) then stBadParam
  else if !srcReady s sel then stNotReady
  else stOk

/-- An accepted write to `CLK_DOM[n]`: a switch where `SEL` is not the reference in use or on its way, a slew where the ratio
changes (R446, R447). -/
def clkApply (n : Nat) (v : Word) (s : State) : State :=
  let keep := if n < 8 then bitsOf v.toNat 8 0 else 0
  let s1 := rset .CLK_DOM n 0 (wd (bitsOf v.toNat 31 28 * 2 ^ 28 + keep)) s
  let sel := bitsOf v.toNat 31 30
  let going := (mapFind s.plat.relock n).getD (fget s F.CLK_DSTAT.CUR n)
  let s2 := if fbit s F.CLK_DSTAT.LOCK n && going != sel then beginSwitch n sel s1 else s1
  if n < 8 then settleRatio 1 n s2 else s2

/-- PLL_RELOCK (R447): the domain runs on its new reference; a reference lost meanwhile leaves it as R448 says. -/
def execPllRelock (n : Fin 79) (s : State) : Out :=
  match mapFind s.plat.relock n.val with
  | none => .next s
  | some x =>
    let s1 := fset F.CLK_DSTAT.CUR n.val 0 x (modPlat (fun p => { p with relock := mapDel p.relock n.val }) s)
    if srcReady s x then
      let s2 := fset F.CLK_DSTAT.LOCK n.val 0 1 (fset F.CLK_DSTAT.HOLD n.val 0 0 s1)
      .next (if n.val < 8 then settleRatio 1 n.val s2 else s2)
    else .next (domLoses n.val s1)

/-! ## Die resets (R13, R448, R453, R463) -/

/-- Contexts that hold a core group on a die. -/
def dieCtxs (s : State) (d : Nat) : List Nat :=
  (s.ctxs.filter (fun (e : Nat × Ctx) => decide (e.1 < 64) && e.2.groups.any (fun g => g / 16 == d))).map (·.1)

/-- Die `d` is held in reset: the record, its contexts halt, its ports are OFF, its cycle repeat breaks (R46, R180, R366). -/
def dieReset (d cause : Nat) (s : State) : State :=
  if fget s F.DIE_PWR.STATE d = 3 then s else
  let s1 := fset F.DIE_PWR.STATE d 0 3 (modPlat (fun p => { p with resetCause := mapPut p.resetCause d cause }) s)
  let s2 := cycBreak 5 d (sendEvent 8 0x0B 1 (det [(d, 1), (cause, 1)]) none s1)
  let s3 := (dieCtxs s2 d).foldl (fun a k => haltCtx k a) s2
  (List.range 36).foldl (fun a p =>
    if portDie p = d then fset F.LNK_STAT.CAUSE p 0 6 (enterTraining p a) else a) s3

/-- HOLDOVER_TIMEOUT (R448): a domain that has held for 5 ms. -/
def execHoldoverTimeout (n : Fin 79) (s : State) : Out :=
  if !holding s n.val then .next s else
  match domDie n.val with
  | some d => .next (alert 1 (dieReset d 1 s))
  | none => .next (alert 1 s)

/-- The domains of a die. -/
def dieDoms (d : Nat) : List Nat := idxWhere 76 (fun n => domDie n == some d)

/-- Whether what holds a die in reset is over: supply present, a READY source for its domains, a junction below 100 °C. -/
def dieMayLeave (s : State) (d : Nat) : Bool :=
  (match mapGet 0 s.plat.resetCause d with
    | 0 => s.plat.rails.contains (.core (Fin.ofNat 8 d)) && s.plat.rails.contains (.uncore (Fin.ofNat 8 d))
    | 1 => true
    | _ => decide (fget s F.DIE_SENS.TJ d < 1600)) &&
    (dieDoms d).all (fun n => (List.range 3).any (fun x => domAllows n x && srcReady s x))

/-- A held or unlocked domain of a die that leaves reset runs on the first READY reference of: the one in use, `SEL`, `FB`,
any other that it may take. -/
def relockDom (n : Nat) (s : State) : State :=
  let order := [fget s F.CLK_DSTAT.CUR n, fget s F.CLK_DOM.SEL n, fget s F.CLK_DOM.FB n, 0, 1, 2]
  match order.find? (fun x => domAllows n x && srcReady s x) with
  | none => s
  | some x =>
    let s1 := fset F.CLK_DSTAT.CUR n 0 x (fset F.CLK_DSTAT.LOCK n 0 1 (fset F.CLK_DSTAT.HOLD n 0 0 s))
    let s2 := modPlat (fun p => { p with relock := mapDel p.relock n }) s1
    if n < 8 then settleRatio 1 n s2 else s2

/-- The shelves of a die are to be cleared (R151). -/
def clearDie (d : Nat) (s : State) : State :=
  (List.range 272).foldl (fun a n => modCore (272 * d + n) (fun k => { k with clearDue := true }) a) s

/-- Ports of a die that leaves reset: training where a cable is present, else NO_CABLE; none before phase 9 (R456). -/
def diePorts (d : Nat) (s : State) : State :=
  if fget s F.BOOT_STAT.PHASE < 9 then s else
  (List.range 36).foldl (fun a p =>
    if portDie p != d then a
    else if fbit a F.LNK_HP.PRESENT p then enterTraining p (modPort p (fun k => { k with attempts := 0 }) a)
    else setPortState p 1 (fset F.LNK_STAT.CAUSE p 0 0 a)) s

/-- DIE_RESET_RELEASE (R448, R249, R151): a die whose reason is over leaves reset with the keeper's time and cleared shelves. -/
def execDieResetRelease (d : Die) (s : State) : Out :=
  if fget s F.DIE_PWR.STATE d.val != 3 || fget s F.BOOT_STAT.PHASE < 5 || !dieMayLeave s d.val then .next s
  else
    let s1 := (dieDoms d.val).foldl (fun a n =>
      if fbit a F.CLK_DSTAT.HOLD n || !fbit a F.CLK_DSTAT.LOCK n then relockDom n a else a) s
    let s2 := fset F.DIE_PWR.STATE d.val 0 0 (modPlat (fun p => { p with resetCause := mapDel p.resetCause d.val }) s1)
    let s3 := modTime (fun t => { t with copies := mapDel t.copies d.val, copySlew := mapDel t.copySlew d.val }) s2
    .next (diePorts d.val (clearDie d.val s3))

/-- DIE_OVERTEMP (R453): the attic comparator finds a junction at or above 115 °C and holds the die in reset; it can wake a
device in Attic-only. -/
def execDieOvertemp (d : Die) (tj : BitVec 12) (s : State) : Out :=
  if tj.toNat < 1840 then .next s
  else
    let s1 := fset F.DIE_SENS.TJ d.val 0 tj.toNat s
    if atticOnly s then .next (driveWake F.ATTIC_WAKE.THERM s1)
    else .next (alert 2 (dieReset d.val 3 s1))

/-- SUPPLY_LOST (R453, R463): a die rail holds its die in reset, a rail that all dies share holds every die; without
VDD_ATTIC nothing runs. -/
def execSupplyLost (r : Rail) (s : State) : Out :=
  if !s.plat.rails.contains r then .next s else
  let s1 := modPlat (fun p => { p with rails := p.rails.filter (· != r) }) s
  if atticOnly s then .next s1 else
  match r with
  | .core d => .next (alert 3 (dieReset d.val 0 s1))
  | .uncore d => .next (alert 3 (dieReset d.val 0 s1))
  | .pcie => .next (alert 3 s1)
  | .attic => .next s1
  | .base => .next (alert 3 ((List.range 8).foldl (fun a d => dieReset d 0 a) s1))
  | .vddqMem => .next (alert 3 ((List.range 8).foldl (fun a d => dieReset d 0 a) s1))
  | .vppMem => .next (alert 3 ((List.range 8).foldl (fun a d => dieReset d 0 a) s1))
  | .ser => .next (alert 3 ((List.range 8).foldl (fun a d => dieReset d 0 a) s1))
  | .serA => .next (alert 3 ((List.range 8).foldl (fun a d => dieReset d 0 a) s1))

/-- RAIL_PRESENT (R463). -/
def execRailPresent (r : Rail) (s : State) : Out :=
  if s.plat.rails.contains r then .next s else .next (modPlat (fun p => { p with rails := p.rails ++ [r] }) s)

/-! ## Monitors (R439 to R442) -/

/-- The number of a source. -/
def srcNo (x : ClkSrc) : Nat :=
  match x with
  | .refA => 0
  | .refB => 1
  | .sosc => 2

/-- The monitor of a source. -/
def monOf (s : State) (x : Nat) : Monitor := if x = 0 then s.plat.monA else if x = 1 then s.plat.monB else s.plat.monS

/-- `s` with a source's monitor changed. -/
def modMon (x : Nat) (f : Monitor → Monitor) (s : State) : State :=
  modPlat (fun p => if x = 0 then { p with monA := f p.monA } else if x = 1 then { p with monB := f p.monB }
    else { p with monS := f p.monS }) s

/-- The judge of a source: 3 is ARO (R439). -/
def judgeOf (s : State) (x : Nat) : Nat :=
  if x < 2 then (if srcReady s 2 then 2 else 3) else if srcReady s 0 then 0 else if srcReady s 1 then 1 else 3

/-- The nominal count of a window: 10 µs in units of 1/64 of a source cycle. -/
def nominal (x : Nat) : Nat := if x < 2 then 64000 else 16000

/-- Whether a count lies in the gross band of nominal (R439). -/
def inBand (s : State) (x judge n : Nat) : Bool :=
  let permil := if judge = 3 then 120 else if fbit s F.CLK_SOSC.TRIMMED then 6 else 25
  decide (0 < n) && decide (nominal x * (1000 - permil) ≤ n * 1000) && decide (n * 1000 ≤ nominal x * (1000 + permil))

/-- Whether a count lies within the tolerance of a centre given as a sum over `k` windows. -/
def inTol (s : State) (n sum k : Nat) : Bool :=
  let tol := fget s F.CLK_JUDGE.TOL_PPM
  decide (sum * (1000000 - tol) ≤ n * k * 1000000) && decide (n * k * 1000000 ≤ sum * (1000000 + tol))

/-- Whether a window passes: a REFCLK judged against ARO for presence only; during a run against its first count; once
READY against the mean of the last passing windows. -/
def windowPasses (s : State) (x judge n : Nat) : Bool :=
  let m := monOf s x
  inBand s x judge n &&
    (if x < 2 && judge = 3 then true
     else if srcReady s x then m.lastCounts.isEmpty || inTol s n (m.lastCounts.foldl (· + ·) 0) m.lastCounts.length
     else match m.first with | some c => inTol s n c 1 | none => true)

/-- `READY` and `TRIP` fields of a source. -/
def readyFld (x : Nat) : Fld :=
  if x = 0 then F.CLK_SRC_STAT.READY_A else if x = 1 then F.CLK_SRC_STAT.READY_B else F.CLK_SRC_STAT.READY_S
/-- The `TRIP` field of a source. -/
def tripFld (x : Nat) : Fld :=
  if x = 0 then F.CLK_SRC_STAT.TRIP_A else if x = 1 then F.CLK_SRC_STAT.TRIP_B else F.CLK_SRC_STAT.TRIP_S

/-- A source trips (R440): READY clears, its domains fall back, a new run starts. -/
def trip (x : Nat) (s : State) : State :=
  if !srcReady s x then s else
  let s1 := fset (tripFld x) 0 0 1 (fset (readyFld x) 0 0 0 (modMon x (fun m => { Monitor.empty with judge := m.judge }) s))
  loseSource x (modPlat (fun p => { p with dispute := none }) s1)

/-- A verdict without a READY judge (R441). -/
def voidVerdict (x : Nat) (s : State) : State :=
  if (monOf s x).voided then s else
  let old := rget s .CLK_SRC_STAT
  let s1 := fset F.CLK_SRC_STAT.MON_VOID 0 0 1 (modMon x (fun m => { m with voided := true }) s)
  loseSource x (logRule (logBase (.rule 0) 0 stMonVoid (regOff .CLK_SRC_STAT 0 0) (dw old.toNat)
    (dw (rget s1 .CLK_SRC_STAT).toNat)) s1)

/-- A READY source fails a window (R440, R441): with no READY judge the verdict is void; a window with no edge trips it; a
REFCLK and SOSC that disagree wait for the other REFCLK, and without it the REFCLK trips. -/
def readyFails (x judge n : Nat) (s : State) : State :=
  if judge = 3 then voidVerdict x s
  else if n = 0 then trip x s
  else
    let r := if x < 2 then x else judge
    if srcReady s (1 - r) then
      if s.plat.dispute.isSome then s else modPlat (fun p => { p with dispute := some (r == 1) }) s
    else trip r s

/-- The window of the REFCLK that decides a disagreement (R440): it agrees with SOSC and the disputed REFCLK trips, or it
fails too and SOSC trips. -/
def decideDispute (x judge : Nat) (passed : Bool) (s : State) : State :=
  match s.plat.dispute with
  | none => s
  | some b =>
    let r := if b then 1 else 0
    if x != 1 - r || judge != 2 then s
    else trip (if passed then r else 2) (modPlat (fun p => { p with dispute := none }) s)

/-- A READY source passes a window: the centre moves, and a void ends once the judge is READY. -/
def readyPasses (x judge n : Nat) (s : State) : State :=
  let s1 := if x < 2 && judge = 3 then s else modMon x (fun m => { m with lastCounts := (n :: m.lastCounts).take 256 }) s
  if (monOf s1 x).voided && judge != 3 then resumeSource x (modMon x (fun m => { m with voided := false }) s1) else s1

/-- A passing window of a source that is not READY: 64 in a row make it READY, but for a REFCLK judged against ARO. -/
def runPasses (x judge n : Nat) (s : State) : State :=
  let s1 := modMon x (fun m => { m with
    passes := m.passes + 1, first := some (m.first.getD n), lastCounts := (n :: m.lastCounts).take 256 }) s
  if (monOf s1 x).passes < 64 || (x < 2 && judge = 3) then s1
  else gainSource x (fset (readyFld x) 0 0 1 (modMon x (fun m => { m with voided := false }) s1))

/-- MONITOR_WINDOW (R439 to R441): a change of judge starts a new run. -/
def execMonitorWindow (src : ClkSrc) (count : Nat) (s : State) : Out :=
  let x := srcNo src
  let j := judgeOf s x
  let s0 := if (monOf s x).judge = j then s
    else modMon x (fun m => { m with judge := j, passes := 0, first := none, lastCounts := [] }) s
  let ok := windowPasses s0 x j count
  if srcReady s0 x then
    if s0.plat.dispute.isSome && (decideDispute x j ok s0).plat.dispute.isNone then .next (decideDispute x j ok s0)
    else if ok then
      .next (readyPasses x j count (if s0.plat.dispute == some (x == 1) then modPlat (fun p => { p with dispute := none }) s0 else s0))
    else .next (readyFails x j count s0)
  else if ok then .next (runPasses x j count s0)
  else .next (modMon x (fun m => { m with passes := 0, first := none, lastCounts := [] }) s0)

/-- SOSC_TRIM (R442): the untrimmed oscillator's measured offset is taken out; the counts on either side of it start again. -/
def execSoscTrim (ppm : Imm16) (s : State) : Out :=
  if !(srcReady s 0 || srcReady s 1) then .next s else
  let s1 := fset F.CLK_SOSC.TRIMMED 0 0 1 (fset F.CLK_SOSC.TRIM_REF 0 0 (if srcReady s 0 then 1 else 2)
    (fset F.CLK_SOSC.OFFSET_PPM 0 0 ppm.toNat s))
  .next ((List.range 3).foldl (fun a x => modMon x (fun m => { m with passes := 0, first := none, lastCounts := [] }) a) s1)

/-! ## The attic (R449) -/

/-- ATTIC_MISCOMPARE: the lockstep copies disagree. -/
def execAtticMiscompare (s : State) : Out :=
  if fbit s F.ATTIC_STAT.SINGLE then .next s else .next (modPlat (fun p => { p with miscompare := true }) s)

/-- An attic copy is retired for a cause; where it was serving, the other takes over with its SOSC starting from rest,
untrimmed. -/
def retireAttic (n cause : Nat) (s : State) : State :=
  let s1 := fset F.ATTIC_STAT.SINGLE 0 0 1 (modPlat (fun p => { p with miscompare := false }) s)
  let s2 := noteRetired 8 0 n cause s1
  if fget s F.ATTIC_STAT.COPY != n then s2
  else
    let s3 := fset F.ATTIC_STAT.COPY 0 0 (1 - n) (noteSpareIn 8 0 (1 - n) n cause s2)
    let s4 := modMon 2 (fun _ => Monitor.empty) (fset F.CLK_SRC_STAT.READY_S 0 0 0 s3)
    loseSource 2 (rset .CLK_SOSC 0 0 0 (modPlat (fun p => { p with dispute := none }) s4))

/-- ATTIC_SELF_CHECK_DONE: the failing copy (1 where `failed`) is retired. The spec gives these records no cause, so that byte
is open. -/
def execAtticSelfCheckDone (failed : Bool) (s : State) : Out :=
  if !s.plat.miscompare then .next s
  else
    let (w, s0) := drawFree s
    .next (retireAttic (b2n failed) (w.toNat % 256) s0)

/-! ## Throttling (R451 to R453) -/

/-- The edges of the package fabric (R12). -/
def dieEdges : List (Nat × Nat) :=
  [(0, 1), (1, 2), (2, 3), (4, 5), (5, 6), (6, 7), (0, 4), (1, 5), (2, 6), (3, 7)]

/-- The dies adjacent to one. -/
def dieNext (d : Nat) : List Nat :=
  dieEdges.filterMap (fun e => if e.1 = d then some e.2 else if e.2 = d then some e.1 else none)

/-- The breach that die `d` causes: 1 temperature pair, 2 supply pair, 3 absolute temperature, 4 package power; 0 none. -/
def breachOf (tj vc : List Nat) (watts d : Nat) : Nat :=
  let t := tj.getD d 0
  let v := vc.getD d 0
  if (dieNext d).any (fun e => decide (tj.getD e 0 + 480 < t)) then 1
  else if (dieNext d).any (fun e => decide (vc.getD e 0 + 150 < v)) then 2
  else if 1680 ≤ t then 3
  else if 2500 < watts then 4
  else 0

/-- Whether a throttled die lies inside the bounds that end the fall of its cap. -/
def insideBounds (tj vc : List Nat) (watts d : Nat) : Bool :=
  let t := tj.getD d 0
  let v := vc.getD d 0
  (dieNext d).all (fun e => decide (t ≤ tj.getD e 0 + 400) && decide (v ≤ vc.getD e 0 + 125)) &&
    decide (t < 1600) && decide (watts < 2450)

/-- The breach records of a throttled die (R403 cause 4). -/
def throttleRecords (d phase : Nat) (start : DWord) (s : State) : State :=
  (dieCtxs s d).foldl (fun a k => breachAt d 4 0 4 phase start k d a) s

/-- A die's cap set, with the ratio it gives. -/
def setCap (d cap : Nat) (s : State) : State :=
  settleRatio 2 d (fset F.DIE_PWR.THROTTLE d 0 (b2n (decide (cap < 160))) (fset F.DIE_PWR.RATIO_CAP d 0 cap s))

/-- The cap of a die lowered by 8 steps, not below the least ratio; the throttle breaks cycle repeat once (R46). -/
def lowerCap (d cause : Nat) (s : State) : State :=
  let s1 := match mapFind s.plat.throttleStart d with
    | some _ => s
    | none => throttleRecords d 0 s.time.now (modPlat (fun p => { p with throttleStart := mapPut p.throttleStart d s.time.now }) s)
  let s2 := if cause = 0 then s1 else fset F.DIE_PWR.T_CAUSE d 0 cause s1
  let s3 := setCap d (max 48 (fget s2 F.DIE_PWR.RATIO_CAP d - 8)) (modPlat (fun p => { p with throttleOk := mapDel p.throttleOk d }) s2)
  if fget s3 F.CLK_DSTAT.CUR_RATIO d = fget s2 F.CLK_DSTAT.CUR_RATIO d then cycBreakAll 2 s3 else s3

/-- The cap of a die raised by 8 steps; at 160 the throttling ends. -/
def raiseCap (d : Nat) (s : State) : State :=
  let cap := min 160 (fget s F.DIE_PWR.RATIO_CAP d + 8)
  let s1 := setCap d cap s
  if cap < 160 then s1
  else
    let s2 := modPlat (fun p => { p with throttleStart := mapDel p.throttleStart d, throttleOk := mapDel p.throttleOk d })
      (fset F.DIE_PWR.T_CAUSE d 0 0 s1)
    throttleRecords d 1 (mapGet 0 s.plat.throttleStart d) s2

/-- One millisecond of one die's throttle. -/
def throttleDie (tj vc : List Nat) (watts : Nat) (s : State) (d : Nat) : State :=
  let cause := breachOf tj vc watts d
  if cause != 0 then lowerCap d cause s
  else match mapFind s.plat.throttleStart d with
    | none => s
    | some _ =>
      if insideBounds tj vc watts d then
        let n := mapGet 0 s.plat.throttleOk d + 1
        let s1 := modPlat (fun p => { p with throttleOk := mapPut p.throttleOk d n }) s
        if 100 ≤ n && n % 10 = 0 then raiseCap d s1 else s1
      else match mapFind s.plat.throttleOk d with
        | none => lowerCap d 0 s
        | some _ => modPlat (fun p => { p with throttleOk := mapPut p.throttleOk d 0 }) s

/-- THROTTLE_TICK (R426, R437, R453): the readings of one millisecond: junctions in °C x 16, core supplies in mV, package
power. -/
def execThrottleTick (tj vcore : List Nat) (watts : Nat) (s : State) : Out :=
  let s1 := (List.range 8).foldl (fun a d => fset F.DIE_SENS.VCORE d 0 (satTo 0xFFF (vcore.getD d 0))
    (fset F.DIE_SENS.TJ d 0 (satTo 0xFFF (tj.getD d 0)) a)) s
  let s2 := fset F.PWR_STAT.POWER_W 0 0 (satTo 0xFFF watts) s1
  let s3 := modMgmt (fun m =>
    if fget s2 F.MGMT_LOAD.SHED = 0 then { m with telemetry := (List.range 8).map (fun d => satTo 0xFFF (tj.getD d 0)) ++ [watts], telemetryAge := 0 }
    else { m with telemetryAge := m.telemetryAge + 1 }) (fbump F.MGMT_STAT.HB_AGE 0 0 s2)
  .next ((List.range 8).foldl (throttleDie tj vcore watts) s3)

/-! ## Idle dies (R454) -/

/-- Whether no core of a die runs a task and no mover item is active on it. -/
def dieQuiet (s : State) (d : Nat) : Bool :=
  s.cores.all (fun (e : Nat × Core) => dieOf e.1 != d || (e.2.run.isNone && e.2.engines.isEmpty && e.2.queue.isEmpty))

/-- Whether a task that could start is ready on a die. -/
def dieReady (s : State) (d : Nat) : Bool :=
  s.ctxs.any (fun (e : Nat × Ctx) => ctxState s e.1 == 1 && e.2.queues.any (fun (q : Nat × List Task) => !q.2.isEmpty && dieOfL e.2 q.1 == d))

/-- DIE_IDLE_ENTRY (R454): 10 µs without a task or an active mover item have passed. -/
def execDieIdleEntry (d : Die) (s : State) : Out :=
  if fget s F.DIE_PWR.STATE d.val = 0 && dieQuiet s d.val && !dieReady s d.val then .next (fset F.DIE_PWR.STATE d.val 0 1 s)
  else .next s

end Sys2Proof.Machine
end

