-- ==== Sys2Proof/Machine/Link.lean ====
section
/-! DEFINITION. The link layer: retry, link control, the reception of frames, arbitration of frame slots with deficit round
robin, fault injection, markers and lane loss (R271 to R284, R288 to R290, R299, R300, R302, R403). -/

namespace Sys2Proof.Machine

/-! ## Retry (R280) -/

/-- A go-back of a virtual channel; the 32nd in a row without progress fails the port. -/
def goBack (v p : Nat) (s : State) : State :=
  let t := txVc (portOf s p) v
  if t.kept.isEmpty || !portMoves s p then s else
  let s1 := fbump F.LNK_RETRY.COUNT p 0 s
  if 32 ≤ t.goBacks + 1 then portFail p 2 s1
  else
    modPort p (fun k => { k with heldSwap := match k.heldSwap with | some f => if f.vc = v then none else some f | none => none })
      (modTx p v (fun t => { t with replay := t.kept.map (fun f => { f with retx := true }), goBacks := t.goBacks + 1 }) s1)

/-- A go-back of every virtual channel. -/
def goBackAll (p : Nat) (s : State) : State := (List.range 8).foldl (fun a v => goBack v p a) s

/-- RETRY_TIMEOUT (R280): no advance of ACK for RTO while flits are kept. -/
def execRetryTimeout (p : PortId) (vc : Fin 8) (s : State) : Out := .next (goBack vc.val p.val s)

/-- A flit as port `p` resends it: a reference, which only an outer port keeps, re-reads its body, with the poison it meets; an
on-die copy is sent as it is kept (R282, R302). -/
def reRead (s : State) (p : Nat) (f : Flit) : Flit :=
  match (if f.ref && roleOf (portOf s p) == 2 then f.src else none) with
  | none => f
  | some (a, off, n) =>
    let half := fun (h : Nat) =>
      let lo := max off (64 * h)
      let hi := min (off + n) (64 * h + 64)
      decide (lo < hi) && devPoison s (a + (lo - off)) (hi - lo)
    { f with
      body := putBytes f.body off (devBytes s a n)
      poison := f.poison ||| BitVec.ofNat 2 (b2n (half 0) + 2 * b2n (half 1)) }

/-! ## Link control (R277) -/

/-- The first advertisement of VC0's credits after UP tells whether the far receiver's pool lies in its store room: VC0 then has
all 512 on-die credits for itself (R278, R279; DESIGN CHOICE, log entry 78). -/
def noteFarPool (p v credit : Nat) (s : State) : State :=
  if v = 0 && (portOf s p).farLr.isNone then modPort p (fun k => { k with farLr := some (credit == 512) }) s else s

/-- What a control flit says of one virtual channel. -/
def ackVc (p : Nat) (body : List Byte) (s : State) (v : Nat) : State :=
  if !portMoves s p then s else
  let t := txVc (portOf s p) v
  let ack := getLE body (8 * v) 3 % 2 ^ 21
  let n := (ack + 2 ^ 21 - t.acked % 2 ^ 21) % 2 ^ 21
  let on := 0 < n && n ≤ t.kept.length
  let s1 := if on then
      modTx p v (fun t => { t with
        kept := t.kept.drop n, acked := ack, goBacks := 0
        replay := t.replay.filter (fun f => (f.seq + 2 ^ 21 - ack) % 2 ^ 21 < t.kept.length - n) })
        ((t.kept.take n).foldl (fun a f => payOwed f a) s)
    else s
  let s2 := modTx p v (fun t => { t with advDed := getLE body (8 * v + 3) 3 }) (noteFarPool p v (getLE body (8 * v + 3) 3) s1)
  if bitAt (byteAt body (8 * v + 6)) 0 && (txVc (portOf s2 p) v).replay.isEmpty then goBack v p s2 else s2

/-- A command of the far end: substitute a lane, or narrow (R289, R290). -/
def farCommand (p cmd lane : Nat) (s : State) : State :=
  if !(portMoves s p || portState s p == 5) then s
  else if cmd = 1 && lane < 8 then
    let old := fget s F.LNK_LANES.TX_FAILED p
    let s1 := if bitAt old lane then s
      else linkEvent p 1 [(lane, 1), (1, 1)] (fset F.LNK_LANES.TX_FAILED p 0 (old + 2 ^ lane) s)
    if fget s1 F.LNK_LANES.TX_SUBST p = lane then s1
    else modPort p (fun k => { k with txSubstDue := some lane, backDue := true }) s1
  else if cmd = 2 then modPort p (fun k => { k with txNarrowDue := true, backDue := true }) s
  else s

/-- Whether control flits reach the port: it is in TRAINING, moves data, or is SAFE. -/
def hearsCtl (s : State) (p : Nat) : Bool := decide (2 ≤ portState s p) && decide (portState s p ≤ 5)

/-- The identity a control flit carries, exchanged in TRAINING and in SAFE (R277, R286). -/
def takeIdentity (p : Nat) (body : List Byte) (s : State) : State :=
  if portMoves s p then s else
  fset F.LNK_NEIGH.VALID p 0 1 (fset F.LNK_NEIGH.NODE p 0 (getLE body 70 2 % 2 ^ 14)
    (fset F.LNK_NEIGH.PORT p 0 (byteAt body 72 % 64) (fset F.LNK_NEIGH.ROLE p 0 (byteAt body 73 % 4) s)))

/-- A link-control flit received; in TRAINING and SAFE its flags and identity pass too (R277). -/
def takeCtl (p : Nat) (body : List Byte) (s : State) : State :=
  let s1 := takeIdentity p body ((List.range 8).foldl (ackVc p body) s)
  if !hearsCtl s1 p then s1 else
  let s2 := farCommand p (byteAt body 67) (byteAt body 68) (modPort p (fun k => { k with advShr := getLE body 64 3 }) s1)
  let fl := byteAt body 69
  let was := (portOf s2 p).farDraining
  let s3 := modPort p (fun k => { k with farDraining := bitAt fl 1, farDone := bitAt fl 2 }) s2
  let s4 := updateAttn p (fset F.LNK_HP.FAR_MARK p 0 (b2n (bitAt fl 0)) s3)
  drainCheck p (if !was && bitAt fl 1 && portUp s4 p then drainStart p s4 else s4)

/-! ## Reception (R270, R281) -/

/-- A flit taken into the store-room pool of port `p` (R293): it lies in the lowest free place of the pool, in two lines with the
poison of its halves (DESIGN CHOICE, log entry 79). -/
def poolPut (p : Nat) (f : Flit) (s : State) : Flit × State :=
  let k := portOf s p
  if !lrOn k || f.vc = 0 then (f, s) else
  match (List.range (poolFlits k)).find? (fun n => !k.poolUsed.contains n) with
  | none => (f, s)
  | some n =>
    let a := k.lrBase * 4096 + 128 * n
    ({ f with pool := some a },
      devWriteP a f.body (fun l => if l * 64 ≤ a then f.poison.getLsbD 0 else f.poison.getLsbD 1)
        (modPort p (fun k => { k with poolUsed := n :: k.poolUsed }) s))

/-- A flit as it is read back from its two lines of the pool, with their poison (R189, R293). -/
def poolGet (s : State) (f : Flit) : Flit :=
  match f.pool with
  | none => f
  | some a => { f with body := devBytes s a 128, poison := BitVec.ofNat 2 (b2n (devPoison s a 64) + 2 * b2n (devPoison s (a + 64) 64)) }

/-- Frames held of a port that a test names handed on in their order (R260, R263). -/
def flushHeld (p : Nat) (go : HeldFrame → Bool) (s : State) : State :=
  modPort p (fun k => { k with
    arrived := k.arrived ++ ((k.slotHeld.filter go).map (·.flits)).flatten
    slotHeld := k.slotHeld.filter (fun h => !go h) }) s

/-- An exchange flit taken; a neighbour that leaves the schedule has its held frames delivered at once (R261, R263). -/
def exchTake (p : Nat) (body : List Byte) (resent : Bool) (s : State) : State :=
  let was := (portOf s p).farOffSched
  let s1 := if byteAt body 0 = 0x21 then exchRequest p body resent s else exchReply p body resent s
  if !was && (portOf s1 p).farOffSched then flushHeld p (fun _ => true) s1 else s1

/-- EXCHANGE_REQUEST_RECEIVE (R251). -/
def execExchangeRequestReceive (p : PortId) (body : List Byte) (resent : Bool) (s : State) : Out :=
  if byteAt body 0 = 0x21 then .next (exchTake p.val body resent s) else .next s

/-- EXCHANGE_REPLY_RECEIVE (R251 to R254). -/
def execExchangeReplyReceive (p : PortId) (body : List Byte) (resent : Bool) (s : State) : Out :=
  if byteAt body 0 = 0x22 then .next (exchTake p.val body resent s) else .next s

/-- A whole packet received: an exchange is taken, a packet whose header line is poisoned in a store-room pool is discarded
(R293), any other goes to the routing engine, or is held with the late frame that ends it (R260). -/
def packetIn (p : Nat) (late : Option (Nat × Nat)) (fl : List Flit) (s : State) : State :=
  match fl with
  | [] => s
  | h :: _ =>
    let t := byteAt h.body 0
    if h.vc = 0 && (t = 0x21 || t = 0x22) then exchTake p h.body h.retx (fl.foldl (fun a f => payOwed f a) s)
    else if lrOn (portOf s p) && h.vc != 0 && (poolGet s h).poison.getLsbD 0 then fl.foldl (fun a f => payOwed f a) s
    else match late with
      | some e => modPort p (fun k => { k with slotHeld := k.slotHeld ++ [{ entry := e.1, occ := e.2, flits := fl }] }) s
      | none => modPort p (fun k => { k with arrived := k.arrived ++ fl }) s

/-- A good data flit: taken where its SEQ is the next expected, discarded otherwise; one ahead sets NAK (R281). -/
def recvFlit (p : Nat) (late : Option (Nat × Nat)) (f : Flit) (s : State) : State :=
  let r := rxVc (portOf s p) f.vc
  let gap := (f.seq + 2 ^ 21 - r.nextSeq % 2 ^ 21) % 2 ^ 21
  if gap = 0 then
    let (g, s0) := poolPut p f s
    let part := r.partialPkt ++ [{ g with owed := some (p, f.shr) }]
    let s1 := modRx p f.vc (fun r => { r with
      nextSeq := (r.nextSeq + 1) % 2 ^ 21, nak := false, partialPkt := if f.eop then [] else part }) s0
    if f.eop then packetIn p late part s1 else s1
  else if gap < 2 ^ 20 then
    modPort p (fun k => { k with ctlDue := k.ctlDue || !r.nak }) (modRx p f.vc (fun r => { r with nak := true }) s)
  else s

/-- The physical lanes that carry the frames received (R269, R290). -/
def rxLanes (s : State) (p : Nat) : List Nat :=
  activeLanes (fget s F.LNK_STAT.WIDTH p == 4) (fget s F.LNK_LANES.RX_SUBST p) (fget s F.LNK_LANES.RX_FAILED p)

/-- Corrected symbols of a frame counted on the lanes they came over (R269, R288). -/
def countFixes (p : Nat) (frame : List Byte) (s : State) : State :=
  let ls := rxLanes s p
  let fixed := (frameFixes frame).map (fun i => ls.getD (laneOf (max ls.length 1) i).1 0)
  if fixed.isEmpty then s else
  modPort p (fun k => { k with laneCorr := fixed.foldl (fun (a : SMap Nat) l => mapPut a l (mapGet 0 a l + 1)) k.laneCorr }) s

/-- One frame decoded, checked and taken; in TRAINING and SAFE only control flits are (R270, R277). -/
def recvFrame (p : Nat) (late : Option (Nat × Nat)) (frame : List Byte) (s : State) : State :=
  if !hearsCtl s p then s else
  match frameGood frame with
  | none => fbump F.LNK_FEC_BAD.COUNT p 0 s
  | some (bs, n) =>
    let s1 := countFixes p frame (fbumpBy F.LNK_FEC_CORR.COUNT p 0 n s)
    if frameKind bs = 2 then takeCtl p (bs.drop 4) s1
    else if frameKind bs = 1 && portMoves s1 p then
      drainCheck p (recvFlit p late (frameFlit bs) (cycBreak 3 (portDie p) s1))
    else s1

/-- FRAME_RECEIVE (R270). -/
def execFrameReceive (p : PortId) (frame : List Byte) (s : State) : Out := .next (recvFrame p.val none frame s)

/-! ## Eligibility (R279, R282, R283) -/

/-- The pool a new flit of a channel would draw on: dedicated first, then shared; none without a credit. VC0 has no part of the
shared credits of a receiver whose pool lies in its store room (R278). -/
def creditFor (k : Port) (v : Nat) : Option Bool :=
  let t := txVc k v
  if (t.advDed + 2 ^ 24 - t.usedDed % 2 ^ 24) % 2 ^ 24 != 0 then some false
  else if v = 0 && k.farLr == some true then none
  else if (k.advShr + 2 ^ 24 - k.usedShr % 2 ^ 24) % 2 ^ 24 != 0 then some true
  else none

/-- Flits of a port that are kept and that a test names. -/
def keptCount (k : Port) (go : Flit → Bool) : Nat := k.tx.foldl (fun a (e : Nat × TxVc) => a + (e.2.kept.filter go).length) 0

/-- Whether the replay store has room for a new flit: 512 frames on the die; on an outer port 32,768 references beside them. -/
def storeRoom (k : Port) (f : Flit) : Bool :=
  if roleOf k = 2 then
    if f.ref then !f.sop || keptCount k (fun g => g.ref && g.sop) < 32768 else keptCount k (fun g => !g.ref) < 512
  else keptCount k (fun _ => true) < 512

/-- The flow and end-to-end sequence that a packet's first flit names. -/
def flitFlow (f : Flit) : FlowKey × Nat :=
  ({ src := BitVec.ofNat 14 (getLE f.body 4 2), dst := BitVec.ofNat 14 (getLE f.body 2 2), vc := Fin.ofNat 8 f.vc
     flow := BitVec.ofNat 16 (getLE f.body 6 2) }, getLE f.body 10 4)

/-- Whether a flit starts a tagged packet. -/
def wantsTag (f : Flit) : Bool := f.sop && f.vc != 0 && bitAt (getLE f.body 8 2) 15

/-- The tag a packet has or may take: the lowest free one (R276). -/
def tagFor (k : Port) (f : Flit) : Option Nat :=
  match k.tagsUsed.find? (fun (e : Nat × (FlowKey × Nat)) => e.2 == flitFlow f) with
  | some e => some e.1
  | none => (List.range 4096).find? (fun n => (mapFind k.tagsUsed n).isNone)

/-- Whether a channel's next new flit may be sent, its tag apart. -/
def newReady (k : Port) (v : Nat) : Bool :=
  match (txVc k v).queue with
  | [] => false
  | f :: _ => (txVc k v).kept.length < 2 ^ 21 - 1 && (creditFor k v).isSome && storeRoom k f

/-- Whether a channel's next new flit waits for a tag only. -/
def tagBlocked (k : Port) (v : Nat) : Bool :=
  match (txVc k v).queue with
  | [] => false
  | f :: _ => (txVc k v).replay.isEmpty && newReady k v && wantsTag f && (tagFor k f).isNone

/-- Whether a channel is eligible: replayed flits go before new ones. -/
def eligible (k : Port) (v : Nat) : Bool := !(txVc k v).replay.isEmpty || (newReady k v && !tagBlocked k v)

/-- Whether a channel has a flit to send. -/
def waiting (k : Port) (v : Nat) : Bool := !(txVc k v).replay.isEmpty || !(txVc k v).queue.isEmpty

/-- Waits for a tag counted, each once (R276). -/
def countTagWaits (p : Nat) (s : State) : State :=
  (List.range 8).foldl (fun a v =>
    let k := portOf a p
    if tagBlocked k v then
      if k.tagWaited.contains v then a
      else fbump F.LNK_TAGWAIT.COUNT p 0 (modPort p (fun k => { k with tagWaited := v :: k.tagWaited }) a)
    else modPort p (fun k => { k with tagWaited := k.tagWaited.filter (· != v) }) a) s

/-! ## Fault injection (R299, R300) -/

/-- Whether the injector acts on a channel now: armed, its VC named, the port UP with a stable map (R302). -/
def fiActive (s : State) (p v : Nat) : Bool :=
  fbit s F.FI_CTRL.ARM p && bitAt (fget s F.FI_CTRL.VC_MASK p) v && portUp s p && mapStable (portOf s p)

/-- Whether the eligible item that is next is one to inject into. -/
def fiDue (s : State) (p : Nat) : Bool := ((portOf s p).fiSeen + 1) % (fget s F.FI_CTRL.PERIOD p + 1) == 0

/-- An eligible item counted, and an injection into it where it is due; the injector disarms itself after `COUNT`. -/
def fiCount (p : Nat) (s : State) : State :=
  let due := fiDue s p
  let s1 := modPort p (fun k => { k with fiSeen := k.fiSeen + 1 }) s
  if !due then s1 else
  let s2 := fbump F.FI_OFF.DONE p 0 s1
  match (portOf s2 p).fiLeft with
  | none => s2
  | some n =>
    let s3 := modPort p (fun k => { k with fiLeft := some (n - 1) }) s2
    if n ≤ 1 then ruleSet (portDie p) F.FI_CTRL.ARM p 0 0 s3 else s3

/-- The injector armed: counts from 0, with its record. -/
def fiArm (p : Nat) (s : State) : State :=
  let n := fget s F.FI_CTRL.COUNT p
  let s1 := modPort p (fun k => { k with fiSeen := 0, fiLeft := if n = 0 then none else some n }) s
  linkEvent p 7 [((rget s .FI_CTRL p).toNat, 4)] (fset F.FI_OFF.DONE p 0 0 s1)

/-- The corruption pattern XORed into a frame. -/
def fiCorrupt (s : State) (p : Nat) (frame : List Byte) : List Byte :=
  let off := min 136 (fget s F.FI_OFF.OFFSET p)
  let pat := fget s F.FI_PAT_LO.PAT p + 2 ^ 32 * fget s F.FI_PAT_HI.PAT p
  putBytes frame off ((List.range 8).map (fun i => (frame.getD (off + i) 0) ^^^ by8 (pat / 2 ^ (8 * i))))

/-- A queue whose first two packets, of one flow, are handed over in reverse order. -/
def swapFirst (q : List Flit) : Option (List Flit) :=
  let a := q.takeWhile (fun f => !f.eop)
  let r := q.drop (a.length + 1)
  let b := r.takeWhile (fun f => !f.eop)
  match q, r with
  | x :: _, y :: _ =>
    if x.sop && y.sop && x.vc != 0 && (flitFlow x).1 == (flitFlow y).1 && b.length < r.length then
      some (r.take (b.length + 1) ++ q.take (a.length + 1) ++ r.drop (b.length + 1))
    else none
  | _, _ => none

/-- Action 3: a pair of packets of one flow handed to the link layer in reverse order. -/
def fiSwapPackets (p v : Nat) (s : State) : State :=
  if !fiActive s p v || fget s F.FI_CTRL.ACTION p != 3 || !(txVc (portOf s p) v).replay.isEmpty then s else
  match swapFirst (txVc (portOf s p) v).queue with
  | none => s
  | some q => if fiDue s p then fiCount p (modTx p v (fun t => { t with queue := q }) s) else fiCount p s

/-! ## Sending (R280, R283) -/

/-- The physical lanes that carry the frames sent (R269, R290). -/
def txLanes (s : State) (p : Nat) : List Nat :=
  activeLanes (fget s F.LNK_STAT.WIDTH p == 4) (fget s F.LNK_LANES.TX_SUBST p) (fget s F.LNK_LANES.TX_FAILED p)

/-- The frame a port puts on its lanes, each byte on its lane (R269). -/
def putWire (p : Nat) (w : List Byte) (s : State) : State :=
  modPort p (fun k => { k with wire := w, lanes := if w.isEmpty then [] else laneBytes (txLanes s p) w }) s

/-- A link-control flit sent. -/
def sendCtlFrame (p : Nat) (s : State) : State :=
  modPort p (fun k => { k with sinceCtl := 0, ctlDue := false }) (putWire p (ctlFrame (ctlBody s p)) s)

/-- A new flit takes its sequence, its credit and its tag, and is kept for replay; a credit it holds of another port is
returned, but that of a pool where this port is an outer one (R279, R280, R282). -/
def numberFlit (p v : Nat) (f : Flit) (s : State) : Flit × State :=
  let k := portOf s p
  let t := txVc k v
  let shr := (creditFor k v).getD false
  let f := stampFlit s p (poolGet s f)
  let tag := if wantsTag f then tagFor k f else none
  let body := match tag with
    | some n => putBytes f.body 8 (leBytes 2 (n + 2 ^ 15))
    | none => f.body
  let keeps := match f.owed with | some (q, _) => lrOn (portOf s q) && f.vc != 0 && roleOf k == 2 | none => false
  let g := { f with seq := t.nextSeq, shr := shr, body := body, owed := if keeps then f.owed else none, pool := if keeps then f.pool else none }
  let s1 := modTx p v (fun t => { t with
    queue := t.queue.drop 1, kept := t.kept ++ [g], nextSeq := (t.nextSeq + 1) % 2 ^ 21
    usedDed := if shr then t.usedDed else (t.usedDed + 1) % 2 ^ 24 }) s
  let s2 := modPort p (fun k => { k with
    usedShr := if shr then (k.usedShr + 1) % 2 ^ 24 else k.usedShr
    tagsUsed := match tag with | some n => mapPut k.tagsUsed n (flitFlow f) | none => k.tagsUsed }) s1
  (g, noteStamp p g (if keeps then s2 else payOwed f s2))

/-- The next flit of an eligible channel taken to be sent. -/
def takeFlit (p v : Nat) (s : State) : Option (Flit × State) :=
  let t := txVc (portOf s p) v
  match t.replay, t.queue with
  | f :: _, _ => some (reRead s p f, modTx p v (fun t => { t with replay := t.replay.drop 1 }) s)
  | [], f :: _ => some (numberFlit p v f s)
  | [], [] => none

/-- VC1 traffic sent while the device is off the schedule marks its collective (R330, R339). -/
def noteOffSched (v : Nat) (f : Flit) (s : State) : State :=
  if v != 1 || !f.sop || !fbit s F.MT_STAT.OFF_SCHED || getLE f.body 4 2 != ownNode s then s else
  { s with colls := s.colls.map (fun k =>
      if k.cctx = getLE f.body 6 2 && k.seq.toNat = getLE f.body 16 4 && k.step.toNat = getLE f.body 20 8
      then { k with offSched := true } else k) }

/-- A data frame of an eligible channel sent, through the injector; the frame sent and the state after it. -/
def sendFlit (p v : Nat) (s0 : State) : List Byte × State :=
  let s := fiSwapPackets p v s0
  match takeFlit p v s with
  | none => ([], s)
  | some (f, s1) =>
    let s2 := noteOffSched v f (modPort p (fun k => { k with altVc1 := if f.eop && (v == 1 || v == 2) then v == 2 else k.altVc1 }) s1)
    if !fiActive s2 p v then (dataFrame f, s2)
    else
      match fget s2 F.FI_CTRL.ACTION p with
      | 0 => (if fiDue s2 p then [] else dataFrame f, fiCount p s2)
      | 1 => (if fiDue s2 p then fiCorrupt s2 p (dataFrame f) else dataFrame f, fiCount p s2)
      | 2 =>
        if !eligible (portOf s2 p) v then (dataFrame f, s2)
        else if !fiDue s2 p then (dataFrame f, fiCount p s2)
        else match takeFlit p v s2 with
          | none => (dataFrame f, s2)
          | some (g, s3) => (dataFrame g, fiCount p (modPort p (fun k => { k with heldSwap := some f }) s3))
      | _ => (dataFrame f, s2)

/-- A data frame of a channel put on the lanes. -/
def sendVc (p v : Nat) (s : State) : State :=
  let (w, s1) := sendFlit p v s
  putWire p w (modPort p (fun k => { k with
    vcFrames := if v < 3 then k.vcFrames + 1 else k.vcFrames
    bulkWaited := if v < 3 then (k.bulkWaited ++ ((List.range 5).map (· + 3)).filter (waiting (portOf s p))).eraseDups
      else k.bulkWaited }) s1)

/-! ## Slots open for VC1 (R258, R259) -/

/-- Frame slots that fit in `t` mt: a frame of 144 bytes takes 144/7 mt at width 8, 1.2857 ns, and 288/7 at width 4 (R267). -/
def framesIn (s : State) (p t : Nat) : Nat := t * 7 / (if fget s F.LNK_STAT.WIDTH p = 4 then 288 else 144)

/-- The frame period in mt. -/
def framePeriod (s : State) : Nat := fget s F.MT_FRAME.PERIOD * 4096

/-- Start, end and guard of an entry in mt. -/
def slotBounds (s : State) (p e : Nat) : Nat × Nat × Nat :=
  let st := fget s F.SLOT_ENT_A.START p e * 4096
  (st, st + fget s F.SLOT_ENT_A.LEN p e * 4096, fget s F.SLOT_ENT_B.GUARD p e * 256)

/-- Frame slots left in an entry's open slot at this moment of the port's own time (R259). -/
def slotRoom (s : State) (p e : Nat) : Nat :=
  if !fbit s F.SLOT_ENT_B.VALID p e then 0 else
  let (st, en, g) := slotBounds s p e
  let pos := if framePeriod s = 0 then (portStamp s p).toNat else (portStamp s p).toNat % framePeriod s
  if pos < st + g || en < g + pos then 0 else framesIn s p (en - g - pos)

/-- Whether a slot of the port is open for one more flit of VC1. -/
def vc1Open (s : State) (p : Nat) : Bool := (List.range 64).any (fun e => 0 < slotRoom s p e)

/-! ## Deficit round robin (R284) -/

/-- The weight of a channel. -/
def wrr (s : State) (p v : Nat) : Nat :=
  match v with
  | 3 => fget s F.LNK_WRR0.W3 p
  | 4 => fget s F.LNK_WRR0.W4 p
  | 5 => fget s F.LNK_WRR0.W5 p
  | 6 => fget s F.LNK_WRR0.W6 p
  | _ => fget s F.LNK_WRR1.W7 p

/-- The channel after `v` in the round. -/
def nextBulk (v : Nat) : Nat := if v < 7 then v + 1 else 3

/-- The flits a channel's deficit must cover before its next frame: those of the packet that would start. -/
def drrCost (k : Port) (v : Nat) : Nat :=
  match (txVc k v).replay, (txVc k v).queue with
  | [], f :: _ => if f.sop then byteAt f.body 1 else 0
  | _, _ => 0

/-- The round robin moved on to the channel that sends now, its cost taken. Each visit to a channel with flits begins by adding
the weight, whether or not it may send; one with nothing to send loses its deficit (R284). -/
def drrPick : Nat → Nat → State → Option (Nat × State)
  | 0, _, _ => none
  | fuel + 1, p, s =>
    let k := portOf s p
    let v := k.drrVc
    let leave := fun (a : State) => modPort p (fun k => { k with drrVc := nextBulk v, curVc := none }) a
    if !waiting k v then drrPick fuel p (leave (modTx p v (fun t => { t with deficit := 0 }) s))
    else
      let s1 := if k.curVc = some v then s
        else modPort p (fun k => { k with curVc := some v }) (modTx p v (fun t => { t with deficit := t.deficit + wrr s p v }) s)
      let c := drrCost k v
      if !eligible k v then drrPick fuel p (leave s1)
      else if c ≤ (txVc (portOf s1 p) v).deficit then some (v, modTx p v (fun t => { t with deficit := t.deficit - c }) s1)
      else drrPick fuel p (leave s1)

/-! ## Arbitration (R283) -/

/-- The choice between VC2 and, off the schedule, VC1: packet by packet. -/
def midChoice (s : State) (p : Nat) : Option Nat :=
  let k := portOf s p
  let off := fbit s F.MT_STAT.OFF_SCHED && eligible k 1
  if off && eligible k 2 then some (if k.altVc1 then 1 else 2)
  else if eligible k 2 then some 2
  else if off then some 1 else none

/-- A data slot of a port that is UP or DRAINING; `sinceCtl` counts this slot too. -/
def arbitrate (p : Nat) (s : State) : State :=
  let k := portOf s p
  if 255 < k.sinceCtl || k.ctlDue then sendCtlFrame p s
  else match k.heldSwap with
    | some f => putWire p (dataFrame f) (modPort p (fun k => { k with heldSwap := none }) s)
    | none =>
      if eligible k 0 then sendVc p 0 s
      else if !fbit s F.MT_STAT.OFF_SCHED && eligible k 1 && vc1Open s p then sendVc p 1 s
      else match midChoice s p with
        | some v => sendVc p v s
        | none =>
          if !((List.range 5).any (fun i => eligible k (i + 3))) then sendCtlFrame p s
          else match drrPick 400 p s with
            | some (v, s1) => sendVc p v s1
            | none => sendCtlFrame p s

/-- FRAME_SLOT_ARBITRATION (R283): one frame slot; the 4,097th is the marker's (R271). A port that is SAFE or in TRAINING
carries control flits only. -/
def execFrameSlotArbitration (p : PortId) (s : State) : Out :=
  let q := p.val
  let st := portState s q
  if st < 2 || st = 6 || 4096 ≤ (portOf s q).sinceMarker then .next s
  else
    let s1 := modPort q (fun k => { k with
      sinceCtl := k.sinceCtl + 1, sinceMarker := k.sinceMarker + 1, windowFrames := k.windowFrames + 1 }) s
    if portMoves s q then .next (arbitrate q (countTagWaits q (drainCheck q s1))) else .next (sendCtlFrame q s1)

/-- FRAME_SLOT_SHARE_WINDOW_END (R403 cause 0x08): VC0 to VC2 took over half of the window's frame slots while a class had
flits waiting. -/
def execFrameSlotShareWindowEnd (p : PortId) (s : State) : Out :=
  let q := p.val
  let k := portOf s q
  let beyond := k.windowFrames < 2 * k.vcFrames && !k.bulkWaited.isEmpty
  let start := stampAt s 0 - 16000000
  let cs := (s.ctxs.filter (fun (e : Nat × Ctx) => e.1 < 64 && k.bulkWaited.any (fun v => mapGet 0 e.2.weights (5 * q + (v - 3)) != 0))).map (·.1)
  let s1 := modPort q (fun k => { k with windowFrames := 0, vcFrames := 0, bulkWaited := [] }) s
  match k.share, beyond with
  | none, true =>
    .next (cs.foldl (fun a c => breachAt 0 4 3 8 0 start c q a) (modPort q (fun k => { k with share := some (start, cs) }) s1))
  | some (t, l), false =>
    .next (l.foldl (fun a c => breachAt 0 4 3 8 1 t c q a) (modPort q (fun k => { k with share := none }) s1))
  | _, _ => .next s1

/-! ## Lane loss (R288 to R291) -/

/-- Receive lanes that are healthy. -/
def healthy (s : State) (p : Nat) : List Nat := (List.range 9).filter (fun i => !bitAt (fget s F.LNK_LANES.RX_FAILED p) i)

/-- Whether the receive direction runs on a lane. -/
def laneUsed (s : State) (p lane : Nat) : Bool :=
  let k := portOf s p
  if fget s F.LNK_STAT.WIDTH p = 4 then ((healthy s p).take 4).contains lane
  else if lane = 8 then fget s F.LNK_LANES.RX_SUBST p != 0xF || k.lcmd == 1
  else lane != fget s F.LNK_LANES.RX_SUBST p

/-- A receive lane taken out for a cause: the spare is asked for, or the port narrows, or fails with fewer than four healthy
lanes; a port in SAFE trains, without a report (R285, R296). -/
def laneOut (q l cause : Nat) (s : State) : State :=
  let used := laneUsed s q l
  let s1 := fset F.LNK_LANES.RX_FAILED q 0 (fget s F.LNK_LANES.RX_FAILED q + 2 ^ l) s
  let lock := fget s1 F.LNK_STAT.LANE_LOCK q
  let s2 := fset F.LNK_STAT.LANE_LOCK q 0 (if bitAt lock l then lock - 2 ^ l else lock) s1
  let s3 := if cause = 4 then linkEvent q 1 [(l, 1), (0, 1)] (fbump F.LNK_LANE_EVT.COUNT q 0 s2) else noteRetired 1 q l cause s2
  if portState s q = 5 then enterTraining q (modPort q (fun k => { k with attempts := 0, quiet := true }) s3)
  else if (healthy s3 q).length < 4 then portFail q 1 s3
  else if !used then s3
  else
    let spare := fget s3 F.LNK_STAT.WIDTH q = 8 && l < 8 && fget s3 F.LNK_LANES.RX_SUBST q = 0xF &&
      (healthy s3 q).contains 8 && (portOf s3 q).lcmd = 0
    if spare then modPort q (fun k => { k with lcmd := 1, lcmdLane := l, laneCause := cause, ctlDue := true }) s3
    else modPort q (fun k => { k with lcmd := 2, lcmdLane := 0, ctlDue := true, txNarrowDue := true }) s3

/-- Whether a port has a receive lane to lose: it is UP, DRAINING or SAFE. -/
def laneLive (s : State) (q l : Nat) : Bool :=
  decide (3 ≤ portState s q) && decide (portState s q ≤ 5) && !bitAt (fget s F.LNK_LANES.RX_FAILED q) l

/-- LANE_LOSS (R288): a lane whose clock recovery has lost lock, or whose marker was missing at two positions in a row, is
declared lost: counted and recorded. -/
def execLaneLoss (p : PortId) (lane : Fin 9) (s : State) : Out :=
  if laneLive s p.val lane.val then .next (laneOut p.val lane.val 4 s) else .next s

/-! ## Markers (R271, R289, R290) -/

/-- MARKER_SEND (R271): after 4,096 frame slots, on every active lane and the spare; a map that waits takes effect with it,
and every channel goes back where the far end asked for it (R280). -/
def execMarkerSend (p : PortId) (s : State) : Out :=
  let q := p.val
  let k := portOf s q
  let st := portState s q
  if st < 2 || st = 6 || k.sinceMarker < 4096 then .next s
  else
    let s1 := match k.txNarrowDue, k.txSubstDue with
      | true, _ => narrowed q s
      | false, some lane => linkEvent q 2 [(lane, 1)] (fset F.LNK_LANES.TX_SUBST q 0 lane s)
      | false, none => s
    let w8 := !(k.txNarrowDue || fget s1 F.LNK_STAT.WIDTH q == 4)
    let n := (k.markers + 1) % 2 ^ 32
    let sub := fget s1 F.LNK_LANES.TX_SUBST q
    let act := activeLanes (!w8) sub (fget s1 F.LNK_LANES.TX_FAILED q)
    let lanes := if act.contains 8 then act else act ++ [8]
    let s2 := modPort q (fun k => { k with
      markerLanes := lanes.map (fun l => { sync := Config.markerSync, lane := l, count := n, width8 := w8, subst := sub })
      sinceMarker := 0, markers := (k.markers + 1) % 2 ^ 32, txNarrowDue := false, txSubstDue := none, backDue := false
      markerOut := some (w8, fget s1 F.LNK_LANES.TX_SUBST q, (k.markers + 1) % 2 ^ 32) }) s1
    let s3 := if k.backDue && (k.txNarrowDue || k.txSubstDue.isSome) then goBackAll q s2 else s2
    .next (drainResume q s3)

/-- The map that a marker announces put in force from the next frame (R271, R289, R290). -/
def markerMap (q : Nat) (width8 : Bool) (subst : BitVec 4) (s : State) : State :=
  let k := portOf s q
  if !width8 then
    let sent8 := match k.markerOut with | some (w, _) => w | none => true
    let ask := sent8 && fget s F.LNK_STAT.WIDTH q == 8
    let s1 := modPort q (fun k => { k with
      txNarrowDue := k.txNarrowDue || ask, lcmd := if k.lcmd = 2 then 0 else k.lcmd, ctlDue := k.ctlDue || k.lcmd == 2 }) s
    drainResume q (narrowed q s1)
  else
    let lane := subst.toNat
    if lane = fget s F.LNK_LANES.RX_SUBST q then s
    else
      let s1 := fset F.LNK_LANES.RX_SUBST q 0 lane s
      let s2 := modPort q (fun k =>
        if k.lcmd = 1 && k.lcmdLane = lane then { k with lcmd := 0, lcmdLane := 0, ctlDue := true } else k) s1
      if lane < 8 then
        let cause := k.laneCause
        let s3 := linkEvent q 2 [(lane, 1)] s2
        drainResume q (noteSpareIn 1 q 8 lane cause (if cause = 4 then noteRetired 1 q lane 4 s3 else s3))
      else s2

/-- The marker period that ends judged: a lane whose corrected symbols exceeded 1,024 in each of 16 periods in a row is lost
(R288). -/
def judgeLanes (q : Nat) (s : State) : State :=
  let k := portOf s q
  let runs := (List.range 9).filterMap (fun l => if 1024 < mapGet 0 k.laneCorr l then some (l, mapGet 0 k.laneRuns l + 1) else none)
  let s1 := modPort q (fun k => { k with laneCorr := [], laneRuns := runs.filter (fun r => r.2 < 16) }) s
  (runs.filter (fun r => 16 ≤ r.2)).foldl (fun a r => if laneLive a q r.1 then laneOut q r.1 4 a else a) s1

/-- MARKER_RECEIVE (R271, R288 to R290): the announced map is in force from the next frame, and the lanes' corrections of the
period are judged. -/
def execMarkerReceive (p : PortId) (width8 : Bool) (subst : BitVec 4) (s : State) : Out :=
  if !(portMoves s p.val || portState s p.val == 5) then .next s
  else .next (judgeLanes p.val (markerMap p.val width8 subst s))

end Sys2Proof.Machine
end

