-- ==== Sys2Proof/Machine/Route.lean ====
section
/-! DEFINITION. The routing engine: packets forwarded and delivered, end-to-end acknowledgement, resends, and the flow table
(R305, R307, R309 to R314, R337). -/

namespace Sys2Proof.Machine

/-! ## Waking from Parked (R454) -/

/-- Whether the device is Parked. -/
def parked (s : State) : Bool := fget s F.DIE_PWR.STATE 0 == 2

/-- A doorbell or a packet for a bound context starts the way out of Parked. -/
def wakeParked (s : State) : State := if parked s then modPlat (fun x => { x with parkedExit := true }) s else s

/-! ## Acknowledgements at the source (R276, R313) -/

/-- How far sequence `a` lies ahead of `b`, modulo 2^32. -/
def seqAhead (a b : Nat) : Nat := (a + 2 ^ 32 - b) % 2 ^ 32

/-- The tags of every packet of a flow before sequence `next` freed. -/
def freeTags (key : FlowKey) (next : Nat) (s : State) : State :=
  { s with ports := s.ports.map (fun (e : Nat × Port) => (e.1, { e.2 with
      tagsUsed := e.2.tagsUsed.filter (fun (t : Nat × (FlowKey × Nat)) =>
        !(t.2.1 == key && decide (0 < seqAhead next t.2.2) && decide (seqAhead next t.2.2 < 2 ^ 31))) })) }

/-- The flow that an acknowledgement names, and its next expected sequence (R310; log entry 13). -/
def ackOf (body : List Byte) : FlowKey × Nat :=
  ({ src := BitVec.ofNat 14 (getLE body 2 2), dst := BitVec.ofNat 14 (getLE body 126 2), vc := Fin.ofNat 8 (byteAt body 6)
     flow := BitVec.ofNat 16 (getLE body 4 2) }, getLE body 8 4)

/-- An acknowledgement at the source of its flow: the packets it covers are done, a flow with none left closes and may take a
new path, further segments of collectives are granted, and pieces of streams are acknowledged. -/
def ackTake (body : List Byte) (s : State) : State :=
  let (key, next) := ackOf body
  match flowTx? s key with
  | none => s
  | some t =>
    if seqAhead t.next t.acked < seqAhead next t.acked then s else
    let kept := t.kept.filter (fun pk => seqAhead pk.e2e next < 2 ^ 31)
    let closing := kept.isEmpty && !t.kept.isEmpty
    let s1 := freeTags key next (setFlowTx key { t with
      kept := kept, acked := next, closedAt := if closing then s.time.now else t.closedAt } s)
    let s2 := if closing then flowReopen key (endHold key s1) else s1
    s2.ctxs.foldl (fun a (e : Nat × Ctx) => streamAcked a e.1) (pumpColls s2)

/-- E2E_ACK_RECEIVE (R313, R337, R342, R354). -/
def execE2eAckReceive (body : List Byte) (s : State) : Out :=
  if byteAt body 0 = 0x23 && (ackOf body).1.src.toNat = ownNode s then .next (ackTake body s) else .next s

/-- E2E_NAK_RECEIVE (R313): the source resends from the named sequence. -/
def execE2eNakReceive (body : List Byte) (s : State) : Out :=
  if byteAt body 0 = 0x24 && (ackOf body).1.src.toNat = ownNode s then
    let (key, next) := ackOf body
    .next (flowResend key next s)
  else .next s

/-- E2E_RESEND_TIMEOUT (R313): a flow's acknowledgement has not advanced for `TO_US`. -/
def execE2eResendTimeout (k : FlowKey) (s : State) : Out :=
  match flowTx? s k with
  | some t => .next (flowResend k t.acked s)
  | none => .next s

/-- FLOW_HELD_OVER_1_MS (R403 cause 0x05): a flow has been held for 1 ms by a path change, or by packets that wait to be
acknowledged after a resend. -/
def execFlowHeldOver1Ms (k : FlowKey) (s : State) : Out :=
  match flowTx? s k with
  | none => .next s
  | some t =>
    if t.breach.isSome || (t.held.isEmpty && t.kept.isEmpty) then .next s else
    let start := s.time.now - 16000000
    let cs := flowCtxs s k t
    let s1 := setFlowTx k { t with breach := some (start, cs) } s
    .next (cs.foldl (fun a c => breachAt 0 4 2 5 0 start c k.dst.toNat a) s1)

/-! ## The flow table (R311) -/

/-- The first waiting packets of new flows take entries while the table has room. -/
def admitFlows (s : State) : State :=
  let ws := s.flowWait
  ws.foldl (fun a (w : Pkt × Option Nat) => sendPktOn w.2 w.1 a) { s with flowWait := [] }

/-- FLOW_ENTRY_RECLAIM (R311): an entry closed for 1 ms is given up, and a waiting flow takes it; at the destination one that
has owed no acknowledgement for 1 ms (DESIGN CHOICE, log entry 80). -/
def execFlowEntryReclaim (k : FlowKey) (s : State) : Out :=
  let s1 := if k.dst.toNat = ownNode s then
      match flowRx? s k with
      | some r => if r.window.isEmpty && r.sinceAck = 0 && 16000000 ≤ (s.time.now - r.closedAt).toNat then { s with flowsRx := s.flowsRx.filter (fun (e : FlowKey × FlowRx) => e.1 != k) } else s
      | none => s
    else s
  match flowTx? s1 k with
  | none => .next s1
  | some t =>
    if t.kept.isEmpty && t.held.isEmpty && 16000000 ≤ (s1.time.now - t.closedAt).toNat then
      .next (admitFlows { s1 with flowsTx := s1.flowsTx.filter (fun (e : FlowKey × FlowTx) => e.1 != k) })
    else .next s1

/-! ## The destination side (R312, R313) -/

/-- A flow's destination side, as it is before its first packet. -/
def rxOf (s : State) (k : FlowKey) : FlowRx := (flowRx? s k).getD { next := 0, window := [], sinceAck := 0, gap := false, closedAt := s.time.now }

/-- The body of an end-to-end acknowledgement or refusal of a flow. -/
def e2eBody (type : Nat) (k : FlowKey) (next : Nat) : List Byte :=
  leBytes 2 type ++ leBytes 2 k.src.toNat ++ leBytes 2 k.flow.toNat ++ leBytes 2 k.vc.val ++ leBytes 4 next

/-- E2E_ACK_SEND (R313): deliveries not yet acknowledged are. -/
def execE2eAckSend (k : FlowKey) (s : State) : Out :=
  match flowRx? s k with
  | none => .next s
  | some r =>
    if r.sinceAck = 0 then .next s
    else .next (sendCtl k.src.toNat (e2eBody 0x23 k r.next) (setFlowRx k { r with sinceAck := 0, closedAt := s.time.now } s))

/-- E2E_NAK_SEND (R313): a gap has stood for a quarter of `TO_US`. -/
def execE2eNakSend (k : FlowKey) (s : State) : Out :=
  match flowRx? s k with
  | none => .next s
  | some r => if r.gap then .next (sendCtl k.src.toNat (e2eBody 0x24 k r.next) s) else .next s

/-- The stow entry of the stowed context a packet is for, if it is for one (R401). -/
def pktStowed (s : State) (pk : Pkt) : Option Nat :=
  let byTag := fun (k : Nat) => (s.stowed.find? (fun e => stowTag e.entry == k)).map (fun e => e.entry)
  let bySlot := fun (k : Nat) =>
    if (ctxOf s k).isSome then none else (s.stowed.find? (fun e => e.slot == k)).map (fun e => e.entry)
  match pk.ptype with
  | 1 => bySlot (byteAt pk.payload 70)
  | 2 => match mapFind s.cctxs pk.key.flow.toNat with | some x => byTag x.slot | none => none
  | 3 => match mapFind s.cctxs pk.key.flow.toNat with | some x => byTag x.slot | none => none
  | _ => none

/-- Whether a packet is for a bound context. -/
def pktBound (s : State) (pk : Pkt) : Bool :=
  match pk.ptype with
  | 1 => (ctxOf s (byteAt pk.payload 70)).isSome
  | 4 => true
  | _ => (mapFind s.cctxs pk.key.flow.toNat).isSome

/-- A message as it lands: source node and logical core in place of the destination (R169). -/
def pktMsg (pk : Pkt) : Msg :=
  let b := pk.payload
  { slot := byteAt b 70, lcore := getLE b 2 2
    bytes := leBytes 2 pk.key.src.toNat ++ leBytes 2 (getLE b 64 2) ++ (b.drop 4).take 60
    id := getLE b 66 4, poison := payloadPoison pk 0 64 }

/-- The data of a packet placed in order (R309, R312); a packet is activity of its context (R398). -/
def placePkt (pk : Pkt) (s : State) : State :=
  match pk.ptype with
  | 1 => touchCtx (byteAt pk.payload 70) { s with msgIn := s.msgIn ++ [pktMsg pk] }
  | 2 => collDeliver pk (match mapFind s.cctxs pk.key.flow.toNat with | some x => touchCtx x.slot s | none => s)
  | 3 => collDeliver pk (match mapFind s.cctxs pk.key.flow.toNat with | some x => touchCtx x.slot s | none => s)
  | 4 => streamDeliver pk s
  | _ => fbump F.COL_DROP.COUNT 0 0 s

/-- A packet for a stowed context discarded unacknowledged: it starts the unstow (R401). -/
def dropStowed (entry : Nat) (s : State) : State := trigger entry 0xFFFF (fbump F.COL_DROP.COUNT 0 0 s)

/-- The packets of the reorder window that are next in order placed. `fuel` bounds their number. -/
def drainWindow (key : FlowKey) : Nat → State → State
  | 0, s => s
  | fuel + 1, s =>
    let r := rxOf s key
    match mapFind r.window r.next with
    | none => setFlowRx key { r with gap := !r.window.isEmpty } s
    | some pk =>
      let r1 := { r with window := mapDel r.window r.next }
      match pktStowed s pk with
      | some n => dropStowed n (setFlowRx key { r1 with gap := !r1.window.isEmpty } s)
      | none => drainWindow key fuel (placePkt pk (setFlowRx key
          { r1 with next := (r.next + 1) % 2 ^ 32, sinceAck := r.sinceAck + 1 } s))

/-- A packet at its destination: placed in order, held in the reorder window, or discarded (R312). -/
def deliverPkt (pk : Pkt) (s : State) : State :=
  if pk.key.src == pk.key.dst then
    match pktStowed s pk with
    | some n => trigger n 0xFFFF { s with deliver := s.deliver ++ [pk] }
    | none => placePkt pk s
  else
    let r := rxOf s pk.key
    let d := seqAhead pk.e2e r.next
    if d = 0 then
      match pktStowed s pk with
      | some n => dropStowed n s
      | none => drainWindow pk.key 4096 (placePkt pk (setFlowRx pk.key
          { r with next := (r.next + 1) % 2 ^ 32, sinceAck := r.sinceAck + 1 } s))
    else if d ≤ 4095 then
      if (mapFind r.window pk.e2e).isSome then fbump F.COL_DROP.COUNT 0 0 s
      else fbump F.COL_REORDER.COUNT 0 0 (setFlowRx pk.key { r with window := mapPut r.window pk.e2e pk, gap := true } s)
    else if 2 ^ 31 ≤ d then fbump F.COL_DROP.COUNT 0 0 s
    else sendCtl pk.key.src.toNat (e2eBody 0x24 pk.key r.next) (setFlowRx pk.key r (fbump F.COL_DROP.COUNT 0 0 s))

/-- Messages on their way into a logical core's buffer, `extra` of them at the routing engine. -/
def msgsToward (s : State) (x : Ctx) (slot lcore extra : Nat) : Nat :=
  ((mapFind x.bufs lcore).getD []).length + (s.msgIn.filter (fun m => m.slot == slot && m.lcore == lcore)).length + extra

/-- Whether a message may leave for its destination core: a box is armed for it, its core's buffer has room beside the messages
already on their way, or nothing there will keep it (R169, R170). -/
def msgRoom (s : State) (m : Msg) (extra : Nat) : Bool :=
  match ctxOf s m.slot with
  | none => true
  | some x =>
    decide (boundCount x ≤ m.lcore) || decide (msgsToward s x m.slot m.lcore extra < 64) ||
      (match servedBy s m.slot x m.lcore with
        | some c => (armedFor (coreOf s c) (msgBox m)).isSome && msgsToward s x m.slot m.lcore extra == ((mapFind x.bufs m.lcore).getD []).length
        | none => false)

/-- Whether a packet at the routing engine may go on: a packet of a new flow waits while the table of received flows is full
(R311), a message while its core's buffer is (R170). -/
def mayDeliver (s : State) (pk : Pkt) : Bool :=
  (pk.key.src == pk.key.dst || (flowRx? s pk.key).isSome || s.flowsRx.length < 65536) &&
    (pk.ptype != 1 || msgRoom s (pktMsg pk) 0)

/-- PACKET_DELIVER (R312, R401, R454): the oldest packet for this device that may go on; one for a bound context of a Parked
device wakes it first. -/
def execPacketDeliver (s : State) : Out :=
  match takeFirst? (mayDeliver s) s.deliver with
  | none => .next s
  | some (pk, rest) =>
    if parked s && pktBound s pk then .next (wakeParked s)
    else .next (deliverPkt pk { s with deliver := rest })

/-! ## Forwarding (R305, R307, R310, R314) -/

/-- The flits of the first whole packet of a list, and the rest. -/
def takePacket : List Flit → Option (List Flit × List Flit)
  | [] => none
  | f :: t => if f.eop then some ([f], t) else match takePacket t with
    | some (a, b) => some (f :: a, b)
    | none => none

/-- Whether a whole packet that a port holds is a message for this device whose buffer is full: link credits hold it back
(R170). -/
def heldBack (s : State) (fl : List Flit) : Bool :=
  match flitsPkt fl with
  | none => false
  | some pk => pk.ptype == 1 && decide (pk.key.dst.toNat = ownNode s) && pk.key.vc != 0 &&
      !msgRoom s (pktMsg pk) ((s.deliver.filter (fun q =>
        q.ptype == 1 && (pktMsg q).slot == (pktMsg pk).slot && (pktMsg q).lcore == (pktMsg pk).lcore)).length)

/-- The first whole packet of a list that may go on, and the rest: one that is held back holds back its channel (R170,
R307). `fuel` bounds the packets. -/
def pickPacket (hold : List Flit → Bool) : Nat → List Nat → List Flit → Option (List Flit × List Flit)
  | 0, _, _ => none
  | fuel + 1, vcs, l =>
    match takePacket l with
    | none => none
    | some (fl, rest) =>
      let v := match fl with | f :: _ => f.vc | [] => 0
      if vcs.contains v || hold fl then
        match pickPacket hold fuel (v :: vcs) rest with
        | some (a, b) => some (a, fl ++ b)
        | none => none
      else some (fl, rest)

/-- The packet that a port hands over next. -/
def nextArrived (s : State) (p : Nat) : Option (List Flit × List Flit) :=
  let l := (portOf s p).arrived
  pickPacket (fun fl => heldBack s (fl.map (poolGet s))) l.length [] l

/-- A control packet of VC0 for this device (R310). -/
def takeControl (body : List Byte) (s : State) : State :=
  let out := match byteAt body 0 with
    | 0x23 => execE2eAckReceive body s
    | 0x24 => execE2eNakReceive body s
    | 0x25 => execCollAbortReceive body s
    | _ => .next (fbump F.COL_DROP.COUNT 0 0 s)
  match out with
  | .next t => t
  | _ => s

/-- Flits given up: the credits they hold are returned. -/
def dropFlits (fl : List Flit) (s : State) : State := fl.foldl (fun a f => payOwed f a) s

/-- A flit of VC1 to VC7 as it goes on to another port: one that lies in a store-room pool is kept there by reference, its header
apart (R282, R307). -/
def onward (s : State) (p : Nat) (f : Flit) : Flit :=
  { f with
    retx := false, shr := false, ref := lrOn (portOf s p)
    src := match f.pool with | some a => some (if f.sop then (a + 16, 16, 112) else (a, 0, 128)) | none => none }

/-- A whole packet that port `p` handed to the routing engine, read from its pool where it lies in one. -/
def forwardPkt (p : Nat) (got : List Flit) (s : State) : State :=
  let fl := got.map (poolGet s)
  match fl with
  | [] => s
  | h :: _ =>
    if h.vc = 0 then
      let dst := getLE h.body 124 2
      if dst = ownNode s then takeControl h.body (dropFlits fl s)
      else
        let s1 := if byteAt h.body 0 = 0x23 then (let (key, next) := ackOf h.body; freeTags key next s) else s
        let key : FlowKey := { src := BitVec.ofNat 14 (getLE h.body 126 2), dst := BitVec.ofNat 14 dst, vc := 0, flow := 0 }
        match route s1 dst false key with
        | some q => enqueueFlits q (fl.map (fun f => { f with retx := false, shr := false })) s1
        | none => dropFlits fl s1
    else match flitsPkt fl with
      | none => dropFlits fl s
      | some pk =>
        if pk.key.dst.toNat = ownNode s then dropFlits fl { s with deliver := s.deliver ++ [pk] }
        else match route s pk.key.dst.toNat false pk.key with
          | some q => enqueueFlits q (fl.map (onward s p)) s
          | none => dropFlits fl s

/-- PACKET_FORWARD (R305, R307): the first whole packet that a port handed over and that may go on is delivered here, sent
on, or discarded where there is no route. -/
def execPacketForward (p : PortId) (s : State) : Out :=
  match nextArrived s p.val with
  | none => .next s
  | some (fl, rest) => .next (forwardPkt p.val fl (modPort p.val (fun k => { k with arrived := rest }) s))

end Sys2Proof.Machine
end

