-- ==== Sys2Proof/Machine/Schedule.lean ====
section
/-! DEFINITION. The slot schedule: entries and frame boundaries, frames sent and received in slots, held frames (R258 to R260,
R263). -/

namespace Sys2Proof.Machine

/-- The two words of an entry as they are to be from the next frame boundary on. -/
def slotEntry (s : State) (p e : Nat) : Nat × Nat :=
  let get := fun (r : Reg) => ((mapFind s.time.slotNext (regOff r p e)).getD (rget s r p e)).toNat
  (get .SLOT_ENT_A, get .SLOT_ENT_B)

/-- Whether an entry is one that R258 allows on its port, valid or not: the slot inside the frame period, the guard at least
16 ns and under half the slot, no overlap with another valid entry. -/
def slotOk (s : State) (p e a b : Nat) : Bool :=
  let start := a % 65536
  let len := bitsOf a 31 16
  let guard := bitsOf b 30 24
  decide (start + len ≤ fget s F.MT_FRAME.PERIOD) && decide (0 < guard) && decide (guard < 8 * len) &&
    (List.range 64).all (fun f =>
      let (c, d) := slotEntry s p f
      f == e || !bitAt d 31 || !rangesMeet (start, start + len) (c % 65536, c % 65536 + bitsOf c 31 16))

/-- One word of an entry written: it takes effect at the next frame boundary; none where the S8 refuses it. -/
def slotWrite (p e : Nat) (second : Bool) (v : Word) (s : State) : Option State :=
  let (a, b) := slotEntry s p e
  let a1 := if second then a else v.toNat
  let b1 := if second then v.toNat else b
  if slotOk s p e a1 b1 then
    let off := regOff (if second then .SLOT_ENT_B else .SLOT_ENT_A) p e
    some (modTime (fun t => { t with slotNext := mapPut t.slotNext off v }) s)
  else none

/-- One pending entry word takes effect; frames held under an entry that is removed are delivered. -/
def slotApply (s : State) (x : Nat × Word) : State :=
  match regAt x.1 with
  | some (.SLOT_ENT_B, p, e) =>
    let gone := fbit s F.SLOT_ENT_B.VALID p e && !bitAt x.2.toNat 31
    let s1 := rset .SLOT_ENT_B p e x.2 s
    if gone then flushHeld p (fun h => h.entry == e) s1 else s1
  | some (r, p, e) => rset r p e x.2 s
  | none => s

/-- FRAME_BOUNDARY (R258, R261): entry writes take effect, and the schedule is judged on the guards they bring. -/
def execFrameBoundary (s : State) : Out :=
  .next (offCheck (s.time.slotNext.foldl slotApply (modTime (fun t => { t with slotNext := [] }) s)))

/-- SLOT_OCCURRENCE_START (R260): held frames of the entry are delivered, ahead of the occurrence's own. -/
def execSlotOccurrenceStart (p : PortId) (e : Fin 64) (s : State) : Out :=
  .next (flushHeld p.val (fun h => h.entry == e.val) s)

/-- Whether a flit of VC1 is first in the order of R283 in this frame slot: no marker, no control flit and no VC0 flit goes
before it. -/
def vc1Next (k : Port) : Bool :=
  decide (k.sinceMarker < 4096) && decide (k.sinceCtl < 255) && !k.ctlDue && k.heldSwap.isNone && !eligible k 0 && eligible k 1

/-- Up to `n` flits of VC1 sent one after another while they are first in the order of R283: the link frames, and the state after
them. -/
def slotBurst : Nat → Nat → List Byte → State → List Byte × State
  | 0, _, w, s => (w, s)
  | n + 1, p, w, s =>
    if !vc1Next (portOf s p) then (w, s)
    else
      let s1 := modPort p (fun k => { k with
        sinceCtl := k.sinceCtl + 1, sinceMarker := k.sinceMarker + 1, windowFrames := k.windowFrames + 1 }) s
      let s2 := sendVc p 1 s1
      slotBurst n p (w ++ (portOf s2 p).wire) s2

/-- SLOT_FRAME_SEND (R259): a burst of VC1 flits whose first leaves at S + G or later and whose last leaves at E − G or
earlier; what does not fit stays for the next occurrence. -/
def execSlotFrameSend (p : PortId) (e : Fin 64) (s : State) : Out :=
  if !portMoves s p.val || fbit s F.MT_STAT.OFF_SCHED then .next s
  else
    let (w, s1) := slotBurst (slotRoom s p.val e.val) p.val [] s
    if w.isEmpty then .next s1 else .next (modPort p.val (fun k => { k with slotSent := [(e.val, w)] }) s1)

/-- The number of the occurrence of an entry whose slot had last started at a moment of the port's time, and the mt since it
started. -/
def occOf (s : State) (p e : Nat) (t : Nat) : Nat × Nat :=
  let (st, _, _) := slotBounds s p e
  let per := max (framePeriod s) 1
  ((t + per - st % per) / per, (t + per - st % per) % per)

/-- The occurrence in which a slot frame is in its slot, if it is in one: its stamps less the reverse delay lie between the
start less the guard and the end plus the guard (R260). -/
def slotInTime (s : State) (p e : Nat) (first last : DWord) : Option Nat :=
  let (st, en, g) := slotBounds s p e
  let (n, pos) := occOf s p e (first - (portOf s p).rev).toNat
  let len := (last - first).toNat
  if pos + len ≤ en - st + g then some n
  else if framePeriod s ≤ pos + g && pos + len ≤ framePeriod s + (en - st) + g then some (n + 1)
  else none

/-- SLOT_FRAME_RECEIVE (R260): the link frames of a slot frame; one that fails either test is held for the entry's next
occurrence, behind frames already held, and counted. Frames held from an earlier occurrence go before one of a later
occurrence. -/
def execSlotFrameReceive (p : PortId) (e : Fin 64) (first last : DWord) (frame : List Byte) (s : State) : Out :=
  let q := p.val
  if !portMoves s q then .next s
  else
    let fs := chunksOf 144 (frame.length + 1) frame
    let free := !fbit s F.SLOT_ENT_B.VALID q e.val || (portOf s q).farOffSched
    match free, slotInTime s q e.val first last with
    | true, _ => .next (fs.foldl (fun a f => recvFrame q none f a) s)
    | false, some n => .next (fs.foldl (fun a f => recvFrame q none f a) (flushHeld q (fun h => h.entry == e.val && decide (h.occ < n)) s))
    | false, none =>
      let s1 := fset F.SLOT_EDGE.NEIGH q 0 (fget s F.SLOT_ENT_B.NEIGH q e.val) (fbump F.SLOT_EDGE.COUNT q 0 s)
      let n := (occOf s q e.val (first - (portOf s q).rev).toNat).1
      .next (fs.foldl (fun a f => recvFrame q (some (e.val, n)) f a) s1)

end Sys2Proof.Machine
end

