-- ==== Sys2Proof/Machine/Bus.lean ====
section
/-! DEFINITION. Register access: who reaches which register (R407), locks (R428, R429), the inventory log of writes (R430 to
R433), the access codes (R5), and the effects of the registers that have some of their own. -/

namespace Sys2Proof.Machine

/-! ## Rights (R407) -/

/-- Whether a function owns the context in slot `k`. -/
def ownsSlot (s : State) (f k : Nat) : Bool := (ctxOf s k).isSome && ownerOf s k == f

/-- Whether a granule is held by a context that a function owns. -/
def ownsGranule (s : State) (f g : Nat) : Bool :=
  if fbit s F.MEM_GSTOW.STOWED g then ownsSlot s f (stowTag (fget s F.MEM_GSTOW.STOW_NO g))
  else fbit s F.MEM_GMAP.VALID g && fbit s F.MEM_GMAP.OWNED g && ownsSlot s f (fget s F.MEM_GMAP.CTX g)

/-- Registers that every function and MCTP read. -/
def openRegs : List Reg := [.GBL_ID, .GBL_FWVER, .GBL_FWBUILD, .GBL_EDITION, .GBL_UNITS, .MGMT_STAT, .MGMT_LOAD]

/-- The generator window (R232). -/
def rngRegs : List Reg :=
  [.RNG_SRKEY_LO, .RNG_SRKEY_HI, .RNG_LSKEY_LO, .RNG_LSKEY_HI, .RNG_LS_BASE, .RNG_LS_CNT, .RNG_STAT]

/-- Registers of the core windows (R89). -/
def coreRegs : List Reg := [.CORE_STAT, .CORE_FRZ_ARR, .CORE_FRZ_SLOW, .CORE_FRZ_TOK, .CORE_REPEATS, .CORE_FAULT]

/-- Registers of the clock, power and attic block (R460, R470). -/
def clockRegs : List Reg :=
  [.CLK_SRC_STAT, .CLK_JUDGE, .CLK_SOSC, .PWR_STAT, .BOOT_STAT, .ATTIC_STAT, .ATTIC_WAKE, .SB_STAT, .SB_CTRL, .CLK_DOM,
   .CLK_DSTAT, .DIE_SENS, .DIE_PWR]

/-- What a virtual function reaches: read, write. -/
def vfRights (s : State) (f : Nat) (r : Reg) (i j : Nat) : Bool × Bool :=
  if openRegs.contains r then (true, false)
  else if r = .MEM_GMAP || r = .MEM_GSTOW then (ownsGranule s f i, false)
  else if r = .CTX_STAT || r = .CTX_LAST_LO || r = .CTX_LAST_HI then (ownsSlot s f i, false)
  else if windowRegs.contains r then (ownsSlot s f i, ownsSlot s f i)
  else if coreRegs.contains r then (ownsSlot s f (fget s F.CORE_STAT.CTX i j), false)
  else if r = .MT_NOW_LO || r = .MT_NOW_HI || r = .MT_STAT || r = .MT_ERR then (true, false)
  else (pageRegs.contains r && i == f, pageRegs.contains r && i == f)

/-- What a reader or writer reaches of a register: read, write. Firmware, die agents and the S8's own rules reach every one; the
test port reads as F0 does, and its writes are refused by the debug lock. -/
def rights (s : State) (o : Origin) (r : Reg) (i j : Nat) : Bool × Bool :=
  let f0 := !pageRegs.contains r || i == 0
  match o with
  | .host f => if f.val = 0 then (f0, f0) else vfRights s f.val r i j
  | .mctp _ => (!pageRegs.contains r && !rngRegs.contains r, clockRegs.contains r || r == .LNK_HP)
  | .testPort => (f0, f0)
  | .firmware _ => (true, true)
  | .dieAgent _ => (true, true)
  | .rule _ => (true, true)

/-! ## Locks (R428) -/

/-- The platform class. -/
def platformRegs : List Reg :=
  [.MT_CTRL, .MT_FRAME, .COL_E2E, .CEL_SCRUB, .TEN_STOW_BASE, .TEN_STOW_CFG, .TEN_REBIND_BASE, .LOG_CFG]

/-- Whether a port's lock is set. -/
def portLocked (s : State) (p : Nat) : Bool :=
  if p < 32 then bitAt (rget s .LOCK_PORT_LO).toNat p else bitAt (rget s .LOCK_PORT_HI).toNat (p - 32)

/-- Whether a write-once field of a register has been written this boot. -/
def onceWritten (s : State) (r : Reg) (i j : Nat) : Bool :=
  (fieldsOf r).any (fun f => f.acc == .wonce && mapGet false s.once (32 * regOff r i j + f.lo))

/-- Whether a write by `o` meets a lock. -/
def lockedFor (s : State) (o : Origin) (r : Reg) (i j : Nat) : Bool :=
  let debug := !fbit s F.LOCK_STAT.DEBUG_OPEN
  (o == .testPort && debug) || onceWritten s r i j ||
    (platformRegs.contains r && fbit s F.LOCK_STAT.PLATFORM) ||
    ((r == .STR_BUDDY_BASE || r == .STR_BUDDY_CFG) && fbit s F.STR_CFG.LOCK) ||
    ((r == .LNK_CFG || r == .LNK_LR_BASE || r == .LNK_LR_CFG || r == .MT_ASYM) && portLocked s i) ||
    ((r == .FI_CTRL || r == .FI_PAT_LO || r == .FI_PAT_HI || r == .FI_OFF) && debug)

/-! ## Checks -/

/-- Whether a device range lies in store-room granules. -/
def inStoreRoom (s : State) (base len : Nat) : Bool :=
  decide (base + len ≤ 2 ^ 40) &&
    (List.range (if len = 0 then 0 else (base + len - 1) / 2 ^ 30 + 1 - base / 2 ^ 30)).all (fun n =>
      fbit s F.MEM_GMAP.VALID (base / 2 ^ 30 + n) && fbit s F.MEM_GMAP.STORE (base / 2 ^ 30 + n))

/-- Writes that the S8 refuses with BAD_PARAM (R284, R300, R340, R363, R404, R432, R460); one that holds a weight of 0 is
refused whole (DESIGN CHOICE, log entry 86). -/
def badWrite (s : State) (r : Reg) (v : Word) : Bool :=
  let n := v.toNat
  match r with
  | .RT_PWT => n % 256 == 0
  | .LNK_WRR0 => (List.range 4).any (fun i => n / 256 ^ i % 256 == 0)
  | .LNK_WRR1 => n % 256 == 0
  | .FI_CTRL => bitAt n 31 && bitAt n 30
  | .CLK_JUDGE => decide (n % 65536 < 50) || decide (5000 < n % 65536)
  | .CKP_CFG => decide (4 < bitsOf n 28 26) || (bitAt n 31 && bitsOf n 25 0 == 0)
  | .STR_BUDDY_BASE =>
    !inStoreRoom s (bitsOf n 27 0 * 4096) (fget s F.STR_BUDDY_CFG.SLOTS * fget s F.STR_BUDDY_CFG.SLOT_GIB * 2 ^ 30)
  | .STR_BUDDY_CFG => bitsOf n 31 30 == 3 ||
    !inStoreRoom s (fget s F.STR_BUDDY_BASE.ADDR * 4096) (bitsOf n 31 30 * bitsOf n 9 0 * 2 ^ 30)
  | .TEN_STOW_BASE => !inStoreRoom s (bitsOf n 27 0 * 4096) (fget s F.TEN_STOW_CFG.ENTRIES * 2 ^ 22)
  | .TEN_STOW_CFG => !inStoreRoom s (fget s F.TEN_STOW_BASE.ADDR * 4096) (bitsOf n 9 0 * 2 ^ 22)
  | .TEN_REBIND_BASE => !inStoreRoom s (bitsOf n 27 0 * 4096) (96 * 2 ^ 20)
  | .LOG_CFG => bitAt n 31 && !inStoreRoom s (bitsOf n 13 0 * 2 ^ 26) (2 ^ 26)
  | _ => false

/-! ## The access codes (R5) -/

/-- Whether a field's writes are entered in the log (R430). -/
def logsField (f : Field) : Bool := f.acc == .rw || f.acc == .rwl || f.acc == .wonce || f.acc == .w1c

/-- Whether a write of `v` is entered in the log: message and ring traffic is not (R430). -/
def loggedWrite (r : Reg) (v : Word) : Bool :=
  match r with
  | .MB_IN => false
  | .MB_CTRL => false
  | .MB_STAT => false
  | .MB_OSTAT => false
  | .RING_SQ_DB => false
  | .RING_CQ_DB => false
  | .LOG_TAIL => false
  | .EVT_RING => false
  | .RPR_TLY_RING => false
  | .FN_STAT => decide (v.toNat / 2 ^ 31 ≠ 0) || bitAt v.toNat 28
  | r => (fieldsOf r).any logsField

/-- A register's value after a write of `v` under the access codes of its fields. `RATIO` of a domain that is not a core clock
is read-only and handled with `CLK_DOM`. -/
def writtenVal (r : Reg) (old v : Word) : Word :=
  wd ((fieldsOf r).foldl (fun a f =>
    match f.acc with
    | .rw => setBits a f.hi f.lo (bitsOf v.toNat f.hi f.lo)
    | .rwl => setBits a f.hi f.lo (bitsOf v.toNat f.hi f.lo)
    | .wonce => setBits a f.hi f.lo (bitsOf v.toNat f.hi f.lo)
    | .w1c => setBits a f.hi f.lo (bitsOf a f.hi f.lo - (bitsOf a f.hi f.lo &&& bitsOf v.toNat f.hi f.lo))
    | _ => a) old.toNat)

/-- The plain write; the last word of a die's map of disabled cores has 16 bits (R391). -/
def plainWrite (r : Reg) (i j : Nat) (v : Word) (s : State) : State :=
  let w := writtenVal r (rget s r i j) v
  let s1 := rset r i j (if r = .DUM_CORE && j == 8 then wd (w.toNat % 65536) else w) s
  { s1 with once := (fieldsOf r).foldl (fun m f =>
      if f.acc = .wonce then mapPut m (32 * regOff r i j + f.lo) true else m) s1.once }

/-! ## Function pages (R406, R409 to R415, R437) -/

/-- An error bit of a function page set; vector 2 when it becomes 1 (R406). -/
def fnError (f : Fld) (n : Nat) (s : State) : State :=
  if fbit s f n then s else raiseMsix n 2 (fset f n 0 1 s)

/-- A write to an inbound mailbox register refused while FULL (R410). -/
def refuseMb (o : Origin) (f : Nat) (s : State) : State :=
  match o with
  | .host _ => fset F.MB_STAT.OVERRUN f 0 1 { s with aer := mapPut s.aer f (mapGet 0 s.aer f + 1) }
  | _ => fset F.MB_STAT.OVERRUN f 0 1 s

/-- `MB_CTRL` written (R409). -/
def mbCtrl (f : Nat) (v : Word) (s : State) : State :=
  let len := bitsOf v.toNat 4 0
  let s1 := fset F.MB_CTRL.LEN f 0 len s
  if !bitAt v.toNat 31 then s1
  else if 8 ≤ len && len ≤ 16 then fset F.MB_STAT.FULL f 0 1 s1
  else fnError F.MB_STAT.LEN_ERR f s1

/-- A die agent's write to the internal inbound mailbox of its management core (R410, R412): a bus error while that is full. -/
def intWrite (d : Nat) (r : Reg) (i : Nat) (v : Word) (s : State) : Nat × State :=
  let m := d % 4
  if mapGet false s.mgmt.intFull m then (stBusy, s)
  else match r with
    | .MB_IN =>
      let old := (mapFind s.mgmt.intMail m).getD (List.replicate 16 0)
      (stOk, modMgmt (fun g => { g with intMail := mapPut g.intMail m (old.set i v) }) s)
    | .MB_CTRL =>
      if bitAt v.toNat 31 && decide (8 ≤ bitsOf v.toNat 4 0) && decide (bitsOf v.toNat 4 0 ≤ 16) then
        (stOk, modMgmt (fun g => { g with intFull := mapPut g.intFull m true }) s)
      else (stOk, s)
    | _ => (stOk, s)

/-- Whether a function owns the context, bound or stowed, that a handle names. -/
def ownsHandle (s : State) (f h : Nat) : Bool :=
  (ownsSlot s f (h % 64) && handleOf s (h % 64) == h) ||
    (match stowedBy s h with | some e => ownsSlot s f (stowTag e.entry) | none => false)

/-- A ring's address register written: a change while the ring is enabled is ignored; the low 12 bits of the address read 0. -/
def ringAddr (r : Reg) (f n : Nat) (v : Word) (s : State) : State :=
  let low := r = .RING_SQ_LO || r = .RING_CQ_LO
  let w := if low then wd (v.toNat / 4096 * 4096) else v
  if fbit s F.RING_CFG.EN f n then (if w = rget s r f n then s else fnError F.FN_STAT.DB_ERR f s)
  else rset r f n w s

/-- `RING_CFG` written (R415, R437): other fields changed while enabled are ignored with the whole write; a ring with a bad size,
or a launch ring of a context that the function does not own, is not enabled; enabling starts a new pass (R414). -/
def ringCfg (f n : Nat) (v : Word) (s : State) : State :=
  let w := wd (v.toNat &&& readMask .RING_CFG)
  let old := rget s .RING_CFG f n
  if bitAt old.toNat 31 then
    if bitsOf w.toNat 30 0 = bitsOf old.toNat 30 0 then rset .RING_CFG f n w s else fnError F.FN_STAT.DB_ERR f s
  else
    let size := bitsOf w.toNat 23 20
    let ok := decide (4 ≤ size) && decide (size ≤ 12) && (!bitAt w.toNat 30 || ownsHandle s f (bitsOf w.toNat 15 0))
    if !bitAt w.toNat 31 then rset .RING_CFG f n w s
    else if ok then rset .RING_STAT f n (wd (2 ^ 31)) (rset .RING_CFG f n w s)
    else fnError F.FN_STAT.DB_ERR f (rset .RING_CFG f n (wd (setBits w.toNat 31 31 0)) s)

/-- A doorbell (R413): beyond its ring it is ignored; it wakes a Parked device. -/
def doorbell (r : Reg) (f n : Nat) (v : Word) (s : State) : State :=
  let x := bitsOf v.toNat 11 0
  if ringSize s f n ≤ x then fnError F.FN_STAT.DB_ERR f s else wakeParked (rset r f n (wd x) s)

/-- The context that a launch ring's doorbell names: activity of a bound one, the unstow of a stowed one (R398, R401). -/
def touchRing (f n : Nat) (s : State) : State :=
  if !(fbit s F.RING_CFG.EN f n && fbit s F.RING_CFG.KIND f n) then s
  else
    let h := fget s F.RING_CFG.CTX f n
    if (ctxOf s (h % 64)).isSome && handleOf s (h % 64) == h then touchCtx (h % 64) s
    else match stowedBy s h with
      | some e => trigger e.entry f s
      | none => s

/-- A submission doorbell. -/
def sqDoorbell (f n : Nat) (v : Word) (s : State) : State :=
  if ringSize s f n ≤ bitsOf v.toNat 11 0 then doorbell .RING_SQ_DB f n v s
  else touchRing f n (doorbell .RING_SQ_DB f n v s)

/-! ## Registers with effects of their own -/

/-- `FI_CTRL` written: with `ARM` the injector is armed (R299). -/
def fiWrite (p : Nat) (v : Word) (s : State) : State :=
  let s1 := plainWrite .FI_CTRL p 0 v s
  if bitAt v.toNat 31 then fiArm p s1 else s1

/-- `LNK_HP` written (R296); MCTP reaches `SVC_MARK` only (R407). -/
def hpWrite (o : Origin) (p : Nat) (v : Word) (s : State) : State :=
  let s1 := match o with
    | .mctp _ => s
    | _ => if bitAt v.toNat 26 then fset F.LNK_HP.DRAIN_ABORT p 0 0 s else s
  svcMark p (bitAt v.toNat 31) s1

/-- `SB_CTRL` written (R470); what it clears in `SB_STAT` is logged as the S8's own change (R466). -/
def sbWrite (v : Word) (s : State) : State :=
  let s1 := plainWrite .SB_CTRL 0 0 v s
  if bitAt v.toNat 31 then ruleSet 0 F.SB_STAT.SMB_TRIES 0 0 0 (ruleSet 0 F.SB_STAT.SMB_OFF 0 0 0 s1) else s1

/-- A window register whose write waits for the context's next step begin (R232, R40). What waits is the value the register is to
take, of `RNG_STAT` the bits to be cleared. -/
def waitWrite (r : Reg) (k : Nat) (v : Word) (s : State) : State :=
  let off := regOff r k 0
  let w := if r = .RNG_STAT then (pendingVal s k off).getD 0 ||| v else writtenVal r (regView s (.firmware 0) r k 0) v
  match ctxOf s k with
  | some x => setCtx k { x with pendingRegs := x.pendingRegs.filter (fun e => e.1 != off) ++ [(off, w)] } s
  | none => if r = .RNG_STAT then plainWrite r k 0 v s else rset r k 0 w s

/-- What a write that nothing refuses does. -/
def writeEffect (o : Origin) (r : Reg) (i j : Nat) (v : Word) (s : State) : State :=
  match r with
  | .MB_IN => rset .MB_IN i j v s
  | .MB_CTRL => mbCtrl i v s
  | .MB_OSTAT => if bitAt v.toNat 30 then fset F.MB_OSTAT.FULL i 0 0 s else s
  | .RING_SQ_LO => ringAddr r i j v s
  | .RING_SQ_HI => ringAddr r i j v s
  | .RING_CQ_LO => ringAddr r i j v s
  | .RING_CQ_HI => ringAddr r i j v s
  | .RING_CFG => ringCfg i j v s
  | .RING_SQ_DB => sqDoorbell i j v s
  | .RING_CQ_DB => doorbell .RING_CQ_DB i j v s
  | .FI_CTRL => fiWrite i v s
  | .LNK_HP => hpWrite o i v s
  | .SB_CTRL => sbWrite v s
  | .CLK_DOM => clkApply i v s
  | .MT_CTRL => sourceWritten (plainWrite r i j v s)
  | .MT_ASYM => sourceWritten (plainWrite r i j v s)
  | .RNG_SRKEY_LO => waitWrite r i v s
  | .RNG_SRKEY_HI => waitWrite r i v s
  | .RNG_LSKEY_LO => waitWrite r i v s
  | .RNG_LSKEY_HI => waitWrite r i v s
  | .RNG_LS_BASE => waitWrite r i v s
  | .RNG_LS_CNT => waitWrite r i v s
  | .RNG_STAT => waitWrite r i v s
  | .RPR_CFG => waitWrite r i v s
  | .RPR_TLY_BASE => waitWrite r i v s
  | r => plainWrite r i j v s

/-- The status with which the S8 refuses a write by its value, and what the write does if it does not: a slot entry is judged with
its other word (R258), a domain by its sources (R445). -/
def judgedWrite (o : Origin) (r : Reg) (i j : Nat) (v : Word) (s : State) : Nat × State :=
  match r with
  | .SLOT_ENT_A => match slotWrite i j false v s with
    | some t => (stOk, t)
    | none => (stBadParam, s)
  | .SLOT_ENT_B => match slotWrite i j true v s with
    | some t => (stOk, t)
    | none => (stBadParam, s)
  | .CLK_DOM => (clkJudge s i v, clkApply i v s)
  | r => if badWrite s r v then (stBadParam, s) else (stOk, writeEffect o r i j v s)

/-! ## Writes and reads -/

/-- A refused write entered in the log; `own` entries are those that the last 64 places take too (R433). -/
def logRefused (e : LogEntry) (own : Bool) (s : State) : State :=
  if own then logRule e s else if logFree s ≤ 64 then s else logPush e s

/-- What a refusal for the lock or the log shows its writer (R429, R433). -/
def showRefused (o : Origin) (status : Nat) (s : State) : State :=
  match o with
  | .host f =>
    if status = stLocked then fnError F.FN_STAT.LOCK_VIOLATION f.val s
    else if status = stLogFull then fset F.FN_STAT.LOG_REFUSED f.val 0 1 s
    else if status = stNotReady then fset F.CLK_SRC_STAT.REFUSED 0 0 1 s
    else s
  | .testPort => modPlat (fun p => { p with tapStatus := true }) s
  | _ => s

/-- The value that a write leaves, as its log entry gives it; a slot entry takes it at the next frame boundary, `RNG_STAT`
at the next step begin. -/
def loggedVal (o : Origin) (r : Reg) (i j : Nat) (v : Word) (s : State) : Word :=
  if r = .SLOT_ENT_A || r = .SLOT_ENT_B then wd (v.toNat &&& readMask r)
  else if r = .RNG_STAT then writtenVal r (regView s o r i j) v else regView s o r i j

/-- A write that a rule of R407 lets through: lock, value, log, effect (R429, R433, R436). `mark` completes the log entry with
what a command knows. -/
def guardedWrite (mark : LogEntry → LogEntry) (o : Origin) (r : Reg) (i j : Nat) (v : Word) (s : State) : Nat × State :=
  let old := regView s o r i j
  let entry := fun (st : Nat) (new : Word) => mark (logBase o 0 st (regOff r i j) (dw old.toNat) (dw new.toNat))
  if lockedFor s o r i j then (stLocked, showRefused o stLocked (logRefused (entry stLocked v) true s))
  else
    let out := judgedWrite o r i j v s
    if out.1 != stOk then (out.1, showRefused o out.1 (logRefused (entry out.1 v) false s))
    else if !loggedWrite r v then out
    else if logFree s ≤ 64 then (stLogFull, showRefused o stLogFull (fbump F.LOG_REFUSED.COUNT 0 0 s))
    else (stOk, (judgedWrite o r i j v
      (logPush (entry stOk (loggedVal o r i j v out.2)) s)).2)

/-- A write by anyone to a BAR0 offset, with its status. Outside the writer's windows, to a reserved offset and to read-only
fields it has no effect and no error (R5, R9). -/
def busWriteAs (mark : LogEntry → LogEntry) (o : Origin) (off : Nat) (v : Word) (s : State) : Nat × State :=
  match regAt off with
  | none => (stOk, s)
  | some (r, i, j) =>
    match o with
    | .dieAgent d =>
      if r = .MB_IN || r = .MB_CTRL then intWrite d.val r (if r = .MB_IN then j else 0) v s else guardedWrite mark o r i j v s
    | _ =>
      if !(rights s o r i j).2 then (stOk, s)
      else if (r = .MB_IN || r = .MB_CTRL) && fbit s F.MB_STAT.FULL i then (stBusy, refuseMb o i s)
      else guardedWrite mark o r i j v s

/-- A register write. -/
def busWrite (o : Origin) (off : Nat) (v : Word) (s : State) : Nat × State := busWriteAs id o off v s

/-- A register read; outside the reader's windows and at reserved offsets it returns 0 (R6, R9). -/
def busRead (o : Origin) (off : Nat) (s : State) : Word × State :=
  match regAt off with
  | none => (0, s)
  | some (r, i, j) => if (rights s o r i j).1 then readReg o r i j s else (0, s)

/-- Whether a register is written by the internal bus, whose result returns to the writer (R429). -/
def internalOrigin (o : Origin) : Bool :=
  match o with
  | .firmware _ => true
  | .dieAgent _ => true
  | _ => false

/-- A register write as a command of its own: firmware and die agents see its result on the bus. -/
def regWrite (o : Origin) (off : Nat) (v : Word) (s : State) : State :=
  let out := busWrite o off v s
  if internalOrigin o then { out.2 with busData := wd out.1 } else out.2

end Sys2Proof.Machine
end

