-- ==== Sys2Proof/Machine/CmdBase.lean ====
section
/-! DEFINITION. How a command runs (R416, R419 to R421, R423, R430 to R433, R436): the checks before it changes anything, the
order lock, quota, log, its log entries, and its reply. -/

namespace Sys2Proof.Machine

/-- What a command comes to: refused with a status; refused with BAD_PARAM for an address that R188 records; refused because
a register is locked, with the held and the attempted value; done with a status and result words; done, with the kind-0
entry of its one register write entered by itself; running until something later completes it, its QUEUED reply written at
once where `queued`; or put off until it can be run. -/
inductive CmdRes where
  | refuse (status : Nat)
  | fault (agent addr cause : Nat)
  | locked (off : Nat) (old new : Word)
  | done (status : Nat) (ys : List Word) (s : State)
  | own (ys : List Word) (s : State)
  | after (g : State → State)
  | running (queued : Bool) (s : State)
  | wait (s : State)

/-- What R421 says of an opcode: parameter words it uses, whether it takes an extension, whether it must name a context,
whether virtual functions and MCTP may send it, whether it runs on a halted context, whether it changes state. -/
structure OpSpec where
  params : Nat
  ext : Bool
  ctx : Bool
  fn : Bool
  mctp : Bool
  halted : Bool
  changes : Bool
  deriving DecidableEq, Repr

/-- The opcodes (R421, R436). -/
def opSpec (op : Nat) : Option OpSpec :=
  match op with
  | 0x0000 => some ⟨0, false, false, true, true, false, false⟩
  | 0x0001 => some ⟨0, false, false, true, true, true, false⟩
  | 0x0002 => some ⟨4, false, false, true, true, false, false⟩
  | 0x0003 => some ⟨4, false, false, false, false, false, false⟩
  | 0x0004 => some ⟨3, false, false, false, true, false, true⟩
  | 0x0005 => some ⟨0, false, false, true, true, false, false⟩
  | 0x0100 => some ⟨3, true, false, false, false, false, true⟩
  | 0x0101 => some ⟨5, true, false, true, false, false, true⟩
  | 0x0102 => some ⟨0, false, true, true, false, true, true⟩
  | 0x0103 => some ⟨2, false, false, true, false, false, true⟩
  | 0x0104 => some ⟨0, false, true, true, false, false, true⟩
  | 0x0105 => some ⟨0, true, true, true, false, false, true⟩
  | 0x0200 => some ⟨3, false, false, true, false, false, true⟩
  | 0x0201 => some ⟨5, false, true, true, false, true, false⟩
  | 0x0202 => some ⟨5, false, true, true, false, true, true⟩
  | 0x0300 => some ⟨2, false, true, true, false, false, true⟩
  | 0x0301 => some ⟨5, true, true, true, false, false, true⟩
  | 0x0302 => some ⟨4, false, true, true, false, false, true⟩
  | 0x0303 => some ⟨0, false, true, true, false, true, true⟩
  | 0x0304 => some ⟨0, false, false, false, false, false, true⟩
  | 0x0305 => some ⟨1, true, true, true, false, false, true⟩
  | 0x0400 => some ⟨0, true, true, true, false, false, true⟩
  | 0x0401 => some ⟨2, false, true, true, false, false, true⟩
  | 0x0402 => some ⟨4, false, true, true, false, false, true⟩
  | 0x0403 => some ⟨1, true, true, true, false, false, true⟩
  | 0x0404 => some ⟨2, false, true, true, false, false, true⟩
  | 0x0500 => some ⟨2, true, true, true, false, false, true⟩
  | 0x0501 => some ⟨1, false, true, true, false, false, true⟩
  | 0x0502 => some ⟨2, false, false, false, false, false, true⟩
  | 0x0503 => some ⟨1, false, false, false, false, false, true⟩
  | 0x0504 => some ⟨1, false, false, false, false, false, true⟩
  | 0x0600 => some ⟨3, false, true, true, false, false, true⟩
  | 0x0601 => some ⟨1, false, true, true, false, false, true⟩
  | 0x0602 => some ⟨5, true, true, true, false, true, true⟩
  | 0x0700 => some ⟨3, false, false, false, false, false, true⟩
  | 0x0701 => some ⟨0, false, false, false, false, false, true⟩
  | 0x0702 => some ⟨0, true, false, false, false, false, true⟩
  | 0x0703 => some ⟨0, false, false, false, true, false, true⟩
  | 0x0704 => some ⟨3, false, false, false, false, false, true⟩
  | 0x0705 => some ⟨1, false, false, false, true, false, true⟩
  | 0x0706 => some ⟨0, false, false, false, false, false, true⟩
  | _ => none

/-- The opcode of POST_STEP. -/
abbrev opPost : Nat := 0x0301

/-- The slot that a command's context handle names. -/
def pkSlot (pk : Packet) : Nat := pk.ctx.toNat % 64

/-- The extension of a packet (R416). -/
def extOf (s : State) (pk : Packet) : List Byte :=
  if 4096 < pk.extLen.toNat then [] else hostBytes s pk.extAddr.toNat pk.extLen.toNat

/-- Whether a command comes by a launch ring (R415). -/
def launchSrc (s : State) (src : CmdSrc) : Bool :=
  match src with
  | .ring f r => fbit s F.RING_CFG.KIND f.val r.val
  | _ => false

/-- The bound slot that a handle names. -/
def boundSlot (s : State) (h : Nat) : Option Nat :=
  if (ctxOf s (h % 64)).isSome && handleOf s (h % 64) == h then some (h % 64) else none

/-- Whether a command may name a context by a handle: any bound or stowed context for F0 and MCTP, its own for a virtual
function (R420). -/
def mayName (s : State) (src : CmdSrc) (h : Nat) : Bool :=
  ((boundSlot s h).isSome || (stowedBy s h).isSome) && (srcFn src == 0 || ownsHandle s (srcFn src) h)

/-- Whether a command's origin may send its opcode (R421). -/
def mayUse (sp : OpSpec) (src : CmdSrc) : Bool := if isMctp src then sp.mctp else srcFn src == 0 || sp.fn

/-- Whether fields of a packet are out of range, whatever its opcode does (R416, R420, R434). -/
def badPacket (sp : OpSpec) (s : State) (src : CmdSrc) (pk : Packet) : Bool :=
  let post := pk.opcode.toNat == opPost
  decide (8 ≤ pk.flags.toNat) || (bitAt pk.flags.toNat 2 && !post) || pk.reserved != 0 || decide (4096 < pk.extLen.toNat) ||
    (pk.ps.drop sp.params).any (· != 0) || (!sp.ext && pk.extLen != 0) ||
    (isMctp src && (pk.extAddr != 0 || pk.extLen != 0)) ||
    (pk.ctx != 0xFFFF && !mayName s src pk.ctx.toNat) || (sp.ctx && pk.ctx == 0xFFFF) ||
    (match src with
      | .ring f r => post && pk.ctx.toNat != fget s F.RING_CFG.CTX f.val r.val
      | _ => false)

/-- The status with which a command is refused before its own checks; OK where it is not. A failed firmware load, and the loss
of both management sets, leave every command but launches to a responder (R427, R457). -/
def screen (sp : OpSpec) (s : State) (src : CmdSrc) (pk : Packet) : Nat :=
  if !launchSrc s src && (fbit s F.BOOT_STAT.FAIL || fbit s F.MGMT_STAT.DEAD) then stNotReady
  else if launchSrc s src != (pk.opcode.toNat == opPost) || !mayUse sp src then stBadOpcode
  else if badPacket sp s src pk then stBadParam
  else if pk.ctx != 0xFFFF && !sp.halted && (match boundSlot s pk.ctx.toNat with
    | some k => ctxState s k == 2
    | none => false) then stBusy
  else stOk

/-! ## Log and reply -/

/-- Whether a command's refusals and changes are entered: one that changes nothing is a read (R430). -/
def entersLog (pk : Packet) : Bool :=
  match opSpec pk.opcode.toNat with
  | some sp => sp.changes && !(pk.opcode.toNat == 0x0004 && par pk 2 % 2 == 0)
  | none => true

/-- Kind-0 entries that a command's later completion can add to those it makes at once (R433): the granules that a bind, an
unbinding or a map change fills, and for an unbinding or a move the registers of its cores and the port weights. -/
def laterEntries (s : State) (pk : Packet) : Nat :=
  let cores := fun (h : Nat) => match boundSlot s h with
    | some k => (match ctxOf s k with | some x => 18 * x.groups.length + x.granules.length + 96 | none => 0)
    | none => 0
  match pk.opcode.toNat with
  | 0x0101 => (pk.extLen.toNat - 180) / 2 + 72
  | 0x0102 => cores pk.ctx.toNat
  | 0x0103 => 20
  | 0x0200 => 1
  | _ => 0

/-- A command as it is taken. -/
def Taken.fresh (src : CmdSrc) (pk : Packet) : Taken :=
  { src := src, pk := pk, queued := false, mute := false, failedOver := false, final := none, waits := [] }

/-- A command taken and not completed (R419). -/
def addTaken (t : Taken) (s : State) : State := modMgmt (fun m => { m with taken := m.taken ++ [t] }) s

/-- The command taken last is no longer outstanding. -/
def dropLastTaken (s : State) : State := modMgmt (fun m => { m with taken := m.taken.dropLast }) s

/-- The command taken last changed. -/
def setLastTaken (f : Taken → Taken) (s : State) : State :=
  modMgmt (fun m => { m with taken := m.taken.dropLast ++ (m.taken.getLast?.map f).toList }) s

/-- A final reply discarded where the command's replies are, written, or kept with the command until there is room for it. -/
def answer (t : Taken) (status : Nat) (ys : List Word) (s : State) : State :=
  if t.mute then s
  else if replyRoom s t.src then writeReply t.src t.pk status true t.failedOver ys s
  else addTaken { t with final := some (status, ys), waits := [] } s

/-- A refusal entered and answered (R429, R430). -/
def refuseCmd (t : Taken) (ext : List Byte) (status : Nat) (s : State) : State :=
  answer t status [] (if entersLog t.pk then logRefused (wholeEntry t.src t.pk ext status 0) (status == stLocked) s else s)

/-- A refusal for a lock: the attempt on the register is entered too. -/
def refuseLocked (t : Taken) (ext : List Byte) (off : Nat) (old new : Word) (s : State) : State :=
  let attempt := asCmd t.src t.pk (logBase (srcOrigin t.src) 0 stLocked off (dw old.toNat) (dw new.toNat))
  answer t stLocked [] (logRule attempt (logRule (wholeEntry t.src t.pk ext stLocked 0) s))

/-- The QUEUED reply of the command taken last, where it is owed and there is room for it. -/
def queueReply (t : Taken) (s : State) : State :=
  if t.mute || t.queued || !replyRoom s t.src then s
  else writeReply t.src t.pk stQueued false false [] (setLastTaken (fun u => { u with queued := true }) s)

/-- Y0 of a running command whose result is known already, for its log entry. -/
def knownY0 (s : State) : Word :=
  match s.mgmt.taken.getLast? with
  | some t => (match t.final with | some f => f.2.getD 0 0 | none => 0)
  | none => 0

/-- What a command comes to, with its log entries: `s1` holds it as taken, `h` runs it. -/
def settle (c : Taken) (ext : List Byte) (h : State → CmdRes) (s s1 : State) : State :=
  let pk := c.pk
  let logs := entersLog pk
  let room := fun (need : Nat) => !logs || decide (need + 64 ≤ logFree s)
  let full := answer c stLogFull [] (fbump F.LOG_REFUSED.COUNT 0 0 s)
  let enter := fun (status : Nat) (y0 : Word) => if logs then logPush (wholeEntry c.src pk ext status y0) s1 else s1
  let changes := fun (a b : State) => if logs then logChanges c.src pk a b else b
  let more := laterEntries s pk
  match h s1 with
  | .refuse st => refuseCmd c ext st s
  | .fault agent addr cause => refuseCmd c ext stBadParam (recordAfault addr (pkSlot pk) agent cause s)
  | .locked off old new => refuseLocked c ext off old new s
  | .wait t => t
  | .own ys t =>
    if !room 2 then full
    else match h (enter stOk (ys.getD 0 0)) with
      | .own zs u => answer c stOk zs (dropLastTaken u)
      | _ => t
  | .done st ys t =>
    if !room (1 + (changedRegs s1 t).length + more) then full
    else
      let s2 := enter st (ys.getD 0 0)
      match h s2 with
      | .done st2 zs u => answer c st2 zs (dropLastTaken (changes s2 u))
      | _ => t
  | .after g => if !room 1 then full else g (answer c stOk [] (dropLastTaken (enter stOk 0)))
  | .running q t =>
    if !room (1 + (changedRegs s1 t).length + more) then full
    else
      let s2 := enter (if q then stQueued else stOk) (knownY0 t)
      match h s2 with
      | .running q2 u => if q2 then queueReply c (changes s2 u) else changes s2 u
      | _ => t

/-- The stowed contexts that a command names, by its handle, or by the group and the destination of a move (R401). -/
def namedStowed (s : State) (pk : Packet) : Option Nat :=
  let move := pk.opcode.toNat == 0x0103
  let by_ := fun (h : Nat) => if h = 0xFFFF then none else stowedBy s h
  match by_ pk.ctx.toNat with
  | some e => some e.entry
  | none =>
    if !move then none else
    match by_ (par pk 1) with
    | some e => some e.entry
    | none => (s.stowed.find? (fun e => match ctxOf s (stowTag e.entry) with
        | some x => x.groups.contains (par pk 0)
        | none => false)).map (fun e => e.entry)

/-- Whether a command names a context whose stow is in progress. -/
def namesStowing (s : State) (pk : Packet) : Bool :=
  let on := fun (k : Option Nat) => match k with | some k => ctxState s k == 3 | none => false
  on (if pk.ctx = 0xFFFF then none else boundSlot s pk.ctx.toNat) ||
    (pk.opcode.toNat == 0x0103 && (on (groupOwner s (par pk 0)) || (par pk 1 != 0xFFFF && on (boundSlot s (par pk 1)))))

/-- A command put off until a context has returned to its slot (R401). -/
def putOff (c : Taken) (s : State) : State := modMgmt (fun m => { m with stalled := m.stalled ++ [(c.src, c.pk)] }) (addTaken c s)

/-- A command run: screened, put off where it names a stowed context, else run by `h`, which is given its extension. In
Attic-only nothing runs commands (R454). -/
def runTaken (c : Taken) (h : List Byte → State → CmdRes) (s : State) : State :=
  if fget s F.PWR_STAT.STATE = 2 then s else
  let ext := extOf s c.pk
  match opSpec c.pk.opcode.toNat with
  | none => refuseCmd c ext (if fbit s F.BOOT_STAT.FAIL || fbit s F.MGMT_STAT.DEAD then stNotReady else stBadOpcode) s
  | some sp =>
    let st := screen sp s c.src c.pk
    if st != stOk then refuseCmd c ext st s
    else
      match namedStowed s c.pk with
      | some e => trigger e (srcFn c.src) (putOff c s)
      | none =>
        if namesStowing s c.pk then putOff c s
        else
          let s0 := match boundSlot s c.pk.ctx.toNat with
            | some k => if c.pk.ctx = 0xFFFF then s else touchCtx k s
            | none => s
          settle c ext (h ext) s0 (addTaken c s0)

end Sys2Proof.Machine
end

