-- ==== Sys2Proof/Machine/CmdSys.lean ====
section
/-! DEFINITION. Commands about the device as a whole: information, registers, quotas, locks, debug, time, ports, spares and
power (R421, R422, R427, R428, R455, R458). -/

namespace Sys2Proof.Machine

/-! ## Information -/

/-- NOP. -/
def cmdNop (s : State) : CmdRes := .done stOk [] s

/-- GET_INFO. -/
def cmdGetInfo (s : State) : CmdRes :=
  let rd := fun (r : Reg) => readWord s (.firmware 0) r 0 0
  .done stOk [rd .GBL_ID, rd .GBL_FWVER, rd .GBL_FWBUILD, rd .GBL_EDITION, rd .GBL_UNITS, wd (ownNode s), rd .MGMT_STAT] s

/-- The slot that an event record names, if it names a context (R366, R403). -/
def recSlot (e : EventRec) : Option Nat :=
  let b := byteAt e.detail 0
  if e.cls = 2 || e.cls = 3 || e.cls = 4 || e.cls = 0x0A || e.cls = 0x0C || (e.cls = 8 && e.code = 1) then some b else none

/-- Whether a function may read an event record: F0 and MCTP every one, a virtual function those that name its contexts. -/
def recVisible (s : State) (src : CmdSrc) (e : EventRec) : Bool :=
  srcFn src == 0 || (match recSlot e with
    | some k => ownsSlot s (srcFn src) k ||
        s.stowed.any (fun x => x.slot == k && ownsSlot s (srcFn src) (stowTag x.entry))
    | none => false)

/-- The records from a ring index on, up to the newest. -/
def eventsFrom (s : State) (first : Nat) : List EventRec :=
  let n := (fget s F.EVT_RING.HEAD + 8192 - first % 8192) % 8192
  (List.range n).filterMap (fun i => mapFind s.events ((first + i) % 8192))

/-- READ_EVENTS. -/
def cmdReadEvents (src : CmdSrc) (pk : Packet) (s : State) : CmdRes :=
  let first := par pk 0
  let n := par pk 1
  if 8192 ≤ first || n = 0 || 8192 < n || (isMctp src && n != 1) then .refuse stBadParam
  else
    let es := ((eventsFrom s first).filter (recVisible s src)).take n
    let head := wd (fget s F.EVT_RING.HEAD)
    if isMctp src then
      let bs := padTo 32 ((es.map eventBytes).flatten)
      .done stOk ([wd es.length, head] ++ (List.range 8).map (fun i => wd (getLE bs (4 * i) 4))) s
    else .done stOk [wd es.length, head] (hostWrite (par2 pk 2) ((es.map eventBytes).flatten) (fun _ => false) s)

/-- READ_LOG: entries of the mirror, from an index up to the newest (R432); poisoned lines are returned as R371 says. -/
def cmdReadLog (pk : Packet) (s : State) : CmdRes :=
  let first := par pk 0
  let n := par pk 1
  if 2 ^ 20 ≤ first || n = 0 || 4096 < n then .refuse stBadParam
  else
    let head := fget s F.LOG_HEAD.INDEX
    let have_ := if fbit s F.LOG_CFG.EN then (head + 2 ^ 20 - first) % 2 ^ 20 else 0
    let at0 := fget s F.LOG_CFG.BASE * 2 ^ 26
    let idx := (List.range (min n have_)).map (fun i => at0 + 64 * ((first + i) % 2 ^ 20))
    let bs := (idx.map (fun a => devBytes s a 64)).flatten
    let st := if idx.any (fun a => devPoison s a 64) then stPoisoned else stOk
    .done st [wd idx.length, wd head] (hostWrite (par2 pk 2) bs (fun _ => false) s)

/-- TELEMETRY: the latest sample and its age. -/
def cmdTelemetry (s : State) : CmdRes :=
  .done stOk ((List.range 9).map (fun i => wd (s.mgmt.telemetry.getD i 0)) ++ [wd s.mgmt.telemetryAge]) s

/-- The value a register reads after an access of a command. -/
def valueAfter (o : Origin) (off : Nat) (s : State) : Word :=
  match regAt off with
  | some (r, i, j) => if (rights s o r i j).1 then readWord s o r i j else 0
  | none => 0

/-- REG_ACCESS (R407, R429, R433). -/
def cmdRegAccess (src : CmdSrc) (pk : Packet) (s : State) : CmdRes :=
  let o := srcOrigin src
  let off := par pk 0
  let v := pk.ps.getD 1 0
  if 1 < par pk 2 then .refuse stBadParam
  else if par pk 2 = 0 then
    let out := busRead o off s
    .done stOk [out.1] out.2
  else match regAt off with
    | none => .own [0] s
    | some (r, i, j) =>
      if !(rights s o r i j).2 then .own [valueAfter o off s] s
      else if (r = .MB_IN || r = .MB_CTRL) && fbit s F.MB_STAT.FULL i then .refuse stBusy
      else if lockedFor s o r i j then .locked off (regView s o r i j) v
      else
        let st := (judgedWrite o r i j v s).1
        if st != stOk then .refuse st
        else
          let mark := fun (e : LogEntry) => { e with ctx := pk.ctx.toNat, tag := pk.tag.toNat }
          let t := (guardedWrite mark o r i j v s).2
          .own [valueAfter o off t] t

/-! ## Quotas and locks -/

/-- The half words that bytes spell. -/
def halves (bs : List Byte) : List Nat := (chunksOf 2 bs.length bs).map ofLE

/-- FN_QUOTA. -/
def cmdFnQuota (pk : Packet) (ext : List Byte) (s : State) : CmdRes :=
  let f := par pk 0
  let gs := halves ((ext.drop 16).take (ext.length - 196))
  if f = 0 || 64 < f || 64 < par pk 1 || 1024 < par pk 2 || ext.length < 196 || ext.length % 2 = 1 || gs.any (fun g => 1024 ≤ g) then
    .refuse stBadParam
  else
    let q : Quota := { contexts := par pk 1, cctxs := par pk 2, groups := BitVec.ofNat 128 (getLE ext 0 16), granules := gs,
                       caps := ext.drop (ext.length - 180) }
    .done stOk [] (modMgmt (fun m => { m with quotas := mapPut m.quotas f q }) s)

/-- LOCK_SET (R428). -/
def cmdLockSet (pk : Packet) (s : State) : CmdRes :=
  if 1 < par pk 0 || 15 < par pk 2 then .refuse stBadParam
  else
    let s1 := if par pk 0 = 1 then fset F.LOCK_STAT.PLATFORM 0 0 1 s else s
    .done stOk [] (rset .LOCK_PORT_HI 0 0 (rget s .LOCK_PORT_HI ||| wd (par pk 2))
      (rset .LOCK_PORT_LO 0 0 (rget s .LOCK_PORT_LO ||| wd (par pk 1)) s1))

/-- DEBUG_CHALLENGE: a fresh nonce; its content is open (log entry 3). -/
def cmdDebugChallenge (s : State) : CmdRes :=
  let r := (List.range 4).foldl (fun (a : List Byte × State) _ =>
    let d := drawFree a.2
    (a.1 ++ leBytes 8 d.1.toNat, d.2)) ([], s)
  .done stOk ((List.range 8).map (fun i => wd (getLE r.1 (4 * i) 4))) (modMgmt (fun m => { m with nonce := some r.1 }) r.2)

/-- DEBUG_UNLOCK: a signature over the nonce and `GBL_ID` (log entry 5); the nonce serves one attempt. -/
def cmdDebugUnlock (ext : List Byte) (s : State) : CmdRes :=
  if ext.length != 96 then .refuse stBadParam
  else match s.mgmt.nonce with
    | none => .refuse stBadParam
    | some n =>
      let s1 := modMgmt (fun m => { m with nonce := none }) s
      if Config.debugSignatureOk n ext (rget s .GBL_ID) then .done stOk [] (fset F.LOCK_STAT.DEBUG_OPEN 0 0 1 s1)
      else .done stBadParam [] s1

/-- The debug lock closed: every injector disarms (R299, R428). -/
def closeDebug (s : State) : State :=
  (List.range 36).foldl (fun a p =>
    if fbit a F.FI_CTRL.ARM p then fset F.FI_CTRL.ARM p 0 0 (modPort p (fun k => { k with fiLeft := none }) a) else a)
    (fset F.LOCK_STAT.DEBUG_OPEN 0 0 0 s)

/-- DEBUG_LOCK. -/
def cmdDebugLock (s : State) : CmdRes := .done stOk [] (closeDebug s)

/-! ## Time and ports -/

/-- TIME_SET (R256): the second count before the first lock. -/
def cmdTimeSet (pk : Packet) (s : State) : CmdRes :=
  if 2 ^ 64 ≤ (par2 pk 0 + 1) * mtSecond then .refuse stBadParam
  else if s.time.everLocked then .refuse stBusy
  else .done stOk [] (modTime (fun t => { t with now := dw (par2 pk 0 * mtSecond + t.now.toNat % mtSecond) }) s)

/-- PORT_RETRAIN (R285, R286): a port without a cable, or one found miswired since its presence last changed, does not train. -/
def cmdPortRetrain (pk : Packet) (s : State) : CmdRes :=
  let p := par pk 0
  if 36 ≤ p then .refuse stBadParam
  else if !fbit s F.LNK_HP.PRESENT p || (portState s p == 6 && fget s F.LNK_STAT.CAUSE p == 4) then .refuse stBusy
  else .done stOk [] (enterTraining p (modPort p (fun k => { k with attempts := 0, quiet := false }) s))

/-- PORT_UNLOCK (R422, R428). -/
def cmdPortUnlock (pk : Packet) (s : State) : CmdRes :=
  let p := par pk 0
  if 36 ≤ p then .refuse stBadParam
  else
    let st := portState s p
    if !(st == 0 || st == 1 || st == 5 || st == 6) then .refuse stBusy
    else if p < 32 then .done stOk [] (rset .LOCK_PORT_LO 0 0 (rget s .LOCK_PORT_LO &&& ~~~ wd (2 ^ p)) s)
    else .done stOk [] (rset .LOCK_PORT_HI 0 0 (rget s .LOCK_PORT_HI &&& ~~~ wd (2 ^ (p - 32))) s)

/-! ## Alignment (R46, R458) -/

/-- Whether every core, uncore and solver domain is locked to one reference at its ratio. -/
def alignable (s : State) : Bool :=
  let x := fget s F.CLK_DSTAT.CUR 0
  (List.range 24).all (fun n => fbit s F.CLK_DSTAT.LOCK n && !fbit s F.CLK_DSTAT.HOLD n && fget s F.CLK_DSTAT.CUR n == x &&
    (decide (8 ≤ n) || fget s F.CLK_DSTAT.CUR_RATIO n == fget s F.CLK_DOM.RATIO n))

/-- The alignment pulse: the crossing FIFOs take their pointers, the token windows of every die start again, and every die
is aligned with no break since (R46, R458). -/
def alignPulse (s : State) : State :=
  let held := (s.cores.filter (fun (e : Nat × Core) => e.2.tokenFrozen)).map (fun (e : Nat × Core) => e.1)
  let s1 := { s with
    ctxs := s.ctxs.map (fun (e : Nat × Ctx) => (e.1, { e.2 with tokens := [] }))
    tokHeld := [], xfifos := (List.range 20).map (fun n => (n, ((0 : Nat), (8 : Nat)))) }
  (List.range 8).foldl (fun a d => fset F.RPR_CYC.BREAKS d 0 0 (fset F.RPR_CYC.ALIGNED d 0 1 a)) (held.foldl (fun a c => tokenFree c a) s1)

/-- REALIGN (R422, R458). -/
def cmdRealign (s : State) : CmdRes :=
  if !((List.range 8).all (fun d => fget s F.DIE_PWR.STATE d == 1)) || !alignable s then .refuse stBusy
  else .done stOk [] (alignPulse s)

/-! ## Failover (R387, R427) -/

/-- A taken command that firmware serves is answered BUSY with FAILOVER set; where there is no room yet, the reply is kept. -/
def failTaken (s : State) (t : Taken) : State :=
  let keep := fun (u : Taken) (a : State) => modMgmt (fun m => { m with taken := m.taken ++ [u] }) a
  if t.pk.opcode.toNat = opPost then keep t s
  else if t.mute then s
  else if replyRoom s t.src then writeReply t.src t.pk stBusy true true [] s
  else keep { t with failedOver := true, final := some (stBusy, []), waits := [] } s

/-- The standby set takes over: taken commands are answered, commands put off are gone, the management entry is written. -/
def failover (cause : Nat) (s : State) : State :=
  let ts := s.mgmt.taken
  let s1 := modMgmt (fun m => { m with
    taken := [], stalled := [], stows := m.stows.map (fun w => (w.1, none)), mctpBusy := false }) s
  let s2 := ts.foldl failTaken s1
  let s3 := fset F.MGMT_STAT.HB_AGE 0 0 0 (fset F.MGMT_STAT.STANDBY_OK 0 0 0 (fset F.MGMT_STAT.ACTIVE_SET 0 0 1 s2))
  logMgmt (.rule 0) (noteSpareIn 7 0 1 0 cause (noteRetired 7 0 0 cause s3))

/-- FAILOVER: with the debug lock open; there is no second failover. -/
def cmdFailover (s : State) : CmdRes :=
  if !fbit s F.LOCK_STAT.DEBUG_OPEN then .refuse stLocked
  else if fbit s F.MGMT_STAT.ACTIVE_SET || !fbit s F.MGMT_STAT.STANDBY_OK then .refuse stBusy
  else .after (failover 5)

/-! ## Spares (R387, R388) -/

/-- A core retired by command: one that belongs to no context at once, a bound one at its group's next re-binding. -/
def retireCoreCmd (c : Nat) (s : State) : CmdRes :=
  if cstat s F.CORE_STAT.STATE c = 3 || (coreOf s c).retireDue.isSome then .refuse stBusy
  else if looseCore s c then
    let s1 := retireCore 5 c s
    .done stOk [] (match seatOf s1 c with
      | some g => fillSeats g s1
      | none => if (spareOf s1 (dieOf c)).isNone then noteSparesOut 0 (dieOf c) (activeOn s1 (dieOf c)) s1 else s1)
  else if inService s c then .done stOk [] (modCore c (fun k => { k with retireDue := some 5 }) s)
  else .refuse stBusy

/-- A lane of a port, or a port, retired by command. -/
def retireLinkCmd (lane : Bool) (p u : Nat) (s : State) : CmdRes :=
  if 36 ≤ p then .refuse stBadParam
  else if lane then
    if 9 ≤ u then .refuse stBadParam
    else if !laneLive s p u then .refuse stBusy
    else .done stOk [] (laneOut p u 5 s)
  else if u != 0 && u != p then .refuse stBadParam
  else if portState s p = 6 then .refuse stBusy
  else .done stOk [] (noteRetired 2 p p 5 (portFail p 0 s))

/-- A row, a pseudo-channel or an update engine of a stack retired by command. -/
def retireStackCmd (kind m u : Nat) (s : State) : CmdRes :=
  let k := stackOf s m
  if 16 ≤ m then .refuse stBadParam
  else if kind = 3 then
    if 2 ^ 26 ≤ u || stackLines / 512 ≤ u % 2 ^ 21 then .refuse stBadParam
    else if !stackOk s m || mapGet false k.retired u || k.retiring.any (fun r => r.1 == u) then .refuse stBusy
    else .done stOk [] (needRetire m u 5 s)
  else if kind = 4 then
    if 32 ≤ u then .refuse stBadParam
    else if !stackOk s m || k.migrating.isSome then .refuse stBusy
    else .done stOk [] (needMigration m u 5 s)
  else if 68 ≤ u then .refuse stBadParam
  else if k.engines = 0 then .refuse stBusy
  else if k.running.isSome then .done stOk [] (modStack m (fun k => { k with engDue := k.engDue ++ [(u, 5)] }) s)
  else .done stOk [] (retireEngine m (u, 5) s)

/-- RETIRE_UNIT: the unit kinds of R387. The management sets are units 0 (D0) and 1 (D7), the attic copies units 0 and 1. -/
def cmdRetireUnit (pk : Packet) (s : State) : CmdRes :=
  let p := par pk 1
  let u := par pk 2
  match par pk 0 with
  | 0 => if 8 ≤ p || 272 ≤ u then .refuse stBadParam else retireCoreCmd (272 * p + u) s
  | 1 => retireLinkCmd true p u s
  | 2 => retireLinkCmd false p u s
  | 3 => retireStackCmd 3 p u s
  | 4 => retireStackCmd 4 p u s
  | 5 => retireStackCmd 5 p u s
  | 6 =>
    if p != 0 || 264 ≤ u then .refuse stBadParam
    else if s.banks ≤ s.bankDue.length then .refuse stBusy
    else .done stOk [] (settleBanks { s with bankDue := s.bankDue ++ [u] })
  | 7 =>
    if p != 0 || 1 < u then .refuse stBadParam
    else if !fbit s F.MGMT_STAT.STANDBY_OK || fbit s F.MGMT_STAT.ACTIVE_SET then .refuse stBusy
    else if u = 1 then .done stOk [] (noteSparesOut 7 0 1 (noteRetired 7 0 1 5 (fset F.MGMT_STAT.STANDBY_OK 0 0 0 s)))
    else .after (failover 5)
  | 8 =>
    if p != 0 || 1 < u then .refuse stBadParam
    else if fbit s F.ATTIC_STAT.SINGLE then .refuse stBusy
    else .done stOk [] (retireAttic u 5 s)
  | _ => .refuse stBadParam

/-! ## Power (R454, R455) -/

/-- Whether work forbids Parked: a task queued, gated, running or saved, an open collective, an update, solver work, a
checkpoint stream. -/
def powerBusy (s : State) : Bool :=
  !s.saves.isEmpty || !s.colls.isEmpty ||
    s.cores.any (fun (e : Nat × Core) => e.2.run.isSome ||
      (match e.2.probe with | some p => (match p.reply with | some (some _) => true | _ => false) | none => false)) ||
    s.cellars.any (fun (e : Nat × Stack) => e.2.running.isSome || !e.2.fires.isEmpty) ||
    (List.range 8).any (fun d => (solverOf s d).running.isSome || !(frontDue s d).isEmpty || !(factDue s d).isEmpty) ||
    s.ctxs.any (fun (e : Nat × Ctx) => e.2.queues.any (fun (q : Nat × List Task) => !q.2.isEmpty) ||
      e.2.overflow.any (fun (q : Nat × List Task) => !q.2.isEmpty) || !e.2.gated.isEmpty || e.2.stream.isSome)

/-- Attic-only: every rail but the attic's is to go; nothing but the attic runs. -/
def enterAttic (s : State) : State :=
  let s1 := fset F.PWR_STAT.STATE 0 0 2 s
  let s2 := (List.range 8).foldl (fun a d => fset F.DIE_PWR.STATE d 0 3 a) s1
  (List.range 36).foldl (fun a p => if portState a p = 0 then a else enterTraining p a) s2

/-- SET_POWER: 0 Active, 1 Parked, 2 Attic-only, which the device enters once the reply is written. -/
def cmdSetPower (pk : Packet) (s : State) : CmdRes :=
  match par pk 0 with
  | 0 => if parked s then .running false (modPlat (fun x => { x with parkedExit := true }) s) else .done stOk [] s
  | 1 =>
    if powerBusy s then .refuse stBusy
    else .done stOk [] ((List.range 8).foldl (fun a d => if 3 ≤ fget a F.DIE_PWR.STATE d then a else fset F.DIE_PWR.STATE d 0 2 a)
      (fset F.PWR_STAT.STATE 0 0 1 (modPlat (fun x => { x with parkedExit := false }) s)))
  | 2 => if !s.ctxs.isEmpty then .refuse stBusy else .after enterAttic
  | _ => .refuse stBadParam

end Sys2Proof.Machine
end

