-- ==== Sys2Proof/Machine/CmdTen.lean ====
section
/-! DEFINITION. Commands about tenant contexts: binding, moves, halts, holds, replay settings, collective contexts, checkpoints
and restores (R27, R315, R345, R357, R373, R394, R399, R421, R422). -/

namespace Sys2Proof.Machine

/-- A handler for the bound context that the packet names. -/
def onCtx (pk : Packet) (s : State) (f : Nat → Ctx → CmdRes) : CmdRes :=
  match ctxOf s (pkSlot pk) with
  | some x => f (pkSlot pk) x
  | none => .refuse stBadParam

/-! ## Binding (R392, R399, R422) -/

/-- The contexts, bound and stowed, of a function. -/
def ctxsOf (s : State) (f : Nat) : List Ctx :=
  (s.ctxs.filter (fun (e : Nat × Ctx) => ownerOf s e.1 == f)).map (fun (e : Nat × Ctx) => e.2)

/-- The weights that a bind asks for, by `5 * port + class`. -/
def askedWeights (ws : List Byte) : SMap Nat :=
  (List.range 180).filterMap (fun i => if byteAt ws i = 0 then none else some (i, byteAt ws i))

/-- Whether a bind stays within the quota of a virtual function (R421). -/
def withinQuota (s : State) (f : Nat) (groups gs : List Nat) (ws : SMap Nat) : Bool :=
  f == 0 || (match mapFind s.mgmt.quotas f with
    | none => false
    | some q =>
      let mine := ctxsOf s f
      decide (mine.length < q.contexts) && groups.all (fun g => q.groups.getLsbD g) && gs.all (fun g => q.granules.contains g) &&
        ws.all (fun (w : Nat × Nat) =>
          decide (mine.foldl (fun a x => a + mapGet 0 x.weights w.1) w.2 ≤ byteAt q.caps w.1)))

/-- Whether a granule's zero fill is in progress. -/
def filling (s : State) (g : Nat) : Bool := s.mgmt.zeroFills.any (fun z => z.granule == g)

/-- Whether a granule is there to be bound. -/
def granuleFree (s : State) (g : Nat) : Bool :=
  fbit s F.MEM_GMAP.VALID g && !fbit s F.MEM_GMAP.STORE g && !fbit s F.MEM_GMAP.OWNED g

/-- The idle context to be stowed for a bind: the earliest `CTX_LAST`, the lower slot on a tie. -/
def stowChoice (s : State) : Option Nat :=
  (minBy? (fun (e : Nat × Ctx) => e.2.lastActive.toNat)
    (s.ctxs.filter (fun (e : Nat × Ctx) => e.1 < 64 && ctxState s e.1 == 1 && fbit s F.CTX_STAT.IDLE e.1))).map (fun e => e.1)

/-- BIND. -/
def cmdBind (src : CmdSrc) (pk : Packet) (ext : List Byte) (s : State) : CmdRes :=
  let f := srcFn src
  let gs := (halves (ext.take (ext.length - 180))).eraseDups
  let ws := askedWeights (ext.drop (ext.length - 180))
  let groups := (List.range 128).filter (fun g => bitAt (par pk (1 + g / 32)) (g % 32))
  if !fbit s F.GBL_EDITION.VALID then .refuse stNotReady
  else if 1 < par pk 0 || ext.length < 180 || ext.length % 2 = 1 || gs.any (fun g => 1024 ≤ g) then .refuse stBadParam
  else if fbit s F.FN_STAT.FLR_BUSY f || gs.any (filling s) then .refuse stBusy
  else if groups.any (fun g => (groupOwner s g).isSome) || gs.any (fun g => !granuleFree s g) || !withinQuota s f groups gs ws then
    .refuse stBadParam
  else match (List.range 64).find? (fun k => ctxState s k == 0) with
    | some k =>
      let t := bindInto (asCmd src pk) k f (par pk 0 == 1) groups (sortKey id gs) ws s
      let ys := [wd (handleOf t k), wd k]
      if gs.isEmpty then .done stOk ys t
      else .running false (setLastTaken (fun t => { t with final := some (stOk, ys), waits := gs }) t)
    | none => match stowChoice s, freeEntry s with
      | some k, some _ => .wait (startStow k (some (src, pk)) s)
      | _, _ => .refuse stNoContext

/-- UNBIND: it runs until the context's work has ended and its granules are zero-filled (R186, R211, R246). -/
def cmdUnbind (src : CmdSrc) (pk : Packet) (s : State) : CmdRes :=
  let k := pkSlot pk
  if s.mgmt.unbinding.any (fun u => u.1 == k) then .refuse stBusy
  else .running false (tryUnbind (startUnbind k (some (src, pk.tag)) s) (k, some (src, pk.tag)))

/-- MOVE_GROUP (R394). -/
def cmdMoveGroup (src : CmdSrc) (pk : Packet) (s : State) : CmdRes :=
  let g := par pk 0
  let none_ := par pk 1 = 0xFFFF
  if 128 ≤ g || (!none_ && !mayName s src (par pk 1)) then .refuse stBadParam
  else match groupOwner s g with
    | none => .refuse stBadParam
    | some k =>
      let d := if none_ then none else boundSlot s (par pk 1)
      if (srcFn src != 0 && ownerOf s k != srcFn src) || d == some k then .refuse stBadParam
      else if s.mgmt.moves.any (fun m => m.group == g) || s.mgmt.unbinding.any (fun u => u.1 == k || some u.1 == d) ||
          (match d with | some j => ctxState s j == 2 | none => false) || savesFree s < (runningIn s g).length then .refuse stBusy
      else .running false (startMove g k d (some (src, pk.tag)) s)

/-- HALT. -/
def cmdHalt (pk : Packet) (s : State) : CmdRes := .done stOk [] (haltCtx (pkSlot pk) s)

/-! ## Holds and replay (R45, R345, R422) -/

/-- One entry of a hold list, if it is one (R345). -/
def holdEntry (s : State) (slot : Nat) (b : List Byte) : Option HoldRange :=
  let a := getLE b 0 5
  let n := getLE b 5 5
  if a % 65536 = 0 && n % 65536 = 0 && byteAt b 10 < 2 && getLE b 14 2 == 0 && (accessCause s slot .update a n).isNone then
    some { addr := a, bytes := n, save := byteAt b 10 == 1, tag := getLE b 11 3 }
  else none

/-- HOLD_REGISTER. -/
def cmdHoldRegister (pk : Packet) (ext : List Byte) (s : State) : CmdRes :=
  let es := (chunksOf 16 ext.length ext).map (holdEntry s (pkSlot pk))
  if ext.length % 16 != 0 || 1024 < ext.length || es.any (fun e => e.isNone) then .refuse stBadParam
  else onCtx pk s (fun k x => .done stOk [] (setCtx k { x with holdNext := some (es.filterMap id) } s))

/-- REPLAY: the step's next execution must follow a restore at or before it; a setting that is still owed a reply is not
replaced. -/
def cmdReplay (src : CmdSrc) (pk : Packet) (s : State) : CmdRes :=
  onCtx pk s (fun k x =>
    let t := dw (par2 pk 0)
    let stop := bitAt (par pk 3) 24
    let ran := x.steps.any (fun e => e.begun && decide (t.toNat ≤ e.num.toNat)) ||
      (match x.committed with | some c => decide (t.toNat ≤ c.toNat) | none => false)
    if 2 < par pk 2 || 2 ^ 25 ≤ par pk 3 || ran ||
        (match x.restored with | some r => decide (t.toNat < r.toNat) | none => true) then .refuse stBadParam
    else if (match x.replaySet with | some r => r.stop.isSome | none => false) then .refuse stBusy
    else
      let r : ReplaySet := { step := t, level := par pk 2, stop := if stop then some (par pk 3 % 2 ^ 24) else none, src := src, tag := pk.tag }
      let s1 := setCtx k { x with replaySet := some r } s
      if stop then .running true s1 else .done stOk [] s1)

/-- RESUME: a context halted by a stop tag goes on. -/
def cmdResume (pk : Packet) (s : State) : CmdRes :=
  onCtx pk s (fun k x =>
    if ctxState s k != 2 || !x.stopHalted || x.terminated || s.mgmt.unbinding.any (fun u => u.1 == k) then .refuse stBusy
    else .done stOk [] (fset F.CTX_STAT.STATE k 0 1 (setCtx k { x with stopHalted := false } s)))

/-! ## Collective contexts (R27, R315, R373) -/

/-- The members that pairs of first node and count name, ascending; none where they are not well formed. -/
def memberList : Nat → List Nat → Option (List Nat)
  | low, f :: n :: t =>
    if n = 0 || f < low || 2 ^ 14 < f + n then none
    else (memberList (f + n) t).map (fun l => (List.range n).map (· + f) ++ l)
  | _, [] => some []
  | _, _ => none

/-- Whether every group of the members holds the same member indices. -/
def evenGroups (ms : List Nat) : Bool :=
  let idx := fun (g : Nat) => (ms.filter (fun m => m / 32 == g)).map (· % 32)
  match ms with
  | [] => false
  | m :: _ => ((ms.map (· / 32)).eraseDups).all (fun g => idx g == idx (m / 32))

/-- CCTX_CREATE. -/
def cmdCctxCreate (src : CmdSrc) (pk : Packet) (ext : List Byte) (s : State) : CmdRes :=
  let c := par pk 0
  let k := pkSlot pk
  let step := bitAt (par pk 1) 1
  let mine := (s.cctxs.filter (fun (e : Nat × Cctx) => e.2.slot == k)).map (fun (e : Nat × Cctx) => e.2)
  if 1024 ≤ c || 3 < par pk 1 || ext.length % 4 != 0 then .refuse stBadParam
  else match memberList 0 (halves ext) with
    | none => .refuse stBadParam
    | some ms =>
      let wide := 1 < ms.length
      let clash :=
        if step then mine.any (fun e => e.isStep) || mine.any (fun e => e.members.any (fun m => !ms.contains m))
        else match mine.find? (fun e => e.isStep) with
          | some e => ms.any (fun m => !e.members.contains m)
          | none => wide
      let used := (s.cctxs.filter (fun (e : Nat × Cctx) => ownerOf s e.2.slot == srcFn src)).length
      let beyond := srcFn src != 0 && (match mapFind s.mgmt.quotas (srcFn src) with
        | some q => decide (q.cctxs ≤ used)
        | none => true)
      if !evenGroups ms || !ms.contains (ownNode s) || bitAt (par pk 1) 0 != portable s k || clash || beyond then .refuse stBadParam
      else if (mapFind s.cctxs c).isSome then .refuse stBusy
      else .done stOk [] { s with cctxs := mapPut s.cctxs c { slot := k, portable := portable s k, isStep := step, members := ms } }

/-- CCTX_DESTROY. -/
def cmdCctxDestroy (pk : Packet) (s : State) : CmdRes :=
  let c := par pk 0
  match mapFind s.cctxs c with
  | none => .refuse stBadParam
  | some x =>
    let others := s.cctxs.any (fun (e : Nat × Cctx) => e.1 != c && e.2.slot == x.slot && 1 < e.2.members.length)
    if x.slot != pkSlot pk || (x.isStep && others) then .refuse stBadParam
    else if s.colls.any (fun k => k.cctx == c) then .refuse stBusy
    else .done stOk [] { s with cctxs := mapDel s.cctxs c }

/-! ## Checkpoints and restores (R346, R354 to R359) -/

/-- FS_RING. -/
def cmdFsRing (pk : Packet) (s : State) : CmdRes :=
  if par pk 2 < 16 || 65536 < par pk 2 then .refuse stBadParam
  else onCtx pk s (fun k x => .done stOk [] (setCtx k { x with fsRing := some (par2 pk 0, 4096 * par pk 2), fsPos := 0 } s))

/-- CHECKPOINT: the next decision takes it. -/
def cmdCheckpoint (src : CmdSrc) (pk : Packet) (s : State) : CmdRes :=
  onCtx pk s (fun k x =>
    if 1 < par pk 0 || (par pk 0 = 1 && x.fsRing.isNone) then .refuse stBadParam
    else if x.ckptCmd.isSome then .refuse stBusy
    else .running true (setCtx k { x with ckptCmd := some (src, pk.tag, par pk 0 == 1) } s))

/-- What a halted context still has open discarded before a restore: open steps with their holds, queued and frozen tasks,
messages, collectives, queued updates (R357). -/
def discardWork (k : Nat) (s : State) : State :=
  match ctxOf s k with
  | none => s
  | some x =>
    let s1 := match x.stream with
      | some m => if m.started then failPosts k s else ckptAbandon k stTerminated (failPosts k s)
      | none => failPosts k s
    let s2 := endOwed (x.replaySet.bind (fun r => if r.stop.isSome then some (r.src, r.tag) else none)) s1
    let cores := (x.groups.map (seatsOf s2)).flatten
    let s3 := cores.foldl (fun a c => dropCore c a) s2
    let gone := fun (m : MsgOut) => match m.saved with
      | some n => (match mapFind s3.saves n with | some im => runSlot im == k | none => false)
      | none => cores.contains m.core
    let s4 := { s3 with
      saves := s3.saves.filter (fun (e : Nat × Core) => runSlot e.2 != k)
      msgOut := s3.msgOut.filter (fun m => !gone m)
      msgIn := s3.msgIn.filter (fun m => m.slot != k)
      colls := s3.colls.filter (fun c => c.slot != k)
      collsDone := s3.collsDone.filter (fun d => d.1 != k)
      held := s3.held.filter (fun h => h.slot != k || h.isCut)
      cellars := s3.cellars.map (fun (e : Nat × Stack) =>
        let mine := fun (n : Nat) => match mapFind e.2.descs n with | some d => d.slot == k | none => false
        (e.1, { e.2 with
          fires := e.2.fires.filter (fun n => !mine n)
          descs := e.2.descs.map (fun (d : Nat × UpdDesc) =>
            if d.2.slot == k then (d.1, { d.2 with fired := false, keptFire := false }) else d) }))
      solvers := s3.solvers.map (fun (e : Nat × Solver) =>
        let mine := fun (n : Nat) => match mapFind e.2.descs n with | some d => d.slot == k | none => false
        (e.1, { e.2 with
          doneFront := e.2.doneFront.filter (fun w => !mine w.1), waited := e.2.waited.filter (fun w => !mine w.1)
          descs := e.2.descs.map (fun (d : Nat × SolvDesc) =>
            if d.2.slot == k then (d.1, { d.2 with curs := [], stallFrom := none }) else d) })) }
    clearFails k (modCtx k (fun y => { y with
      queues := [], gated := [], overflow := [], joins := [], posts := [], steps := [], replaySet := none, bufs := []
      faultSlots := [], stopHalted := false, haltFails := 0 }) s4)

/-- The request for another node's buddy slot (log entry 18). -/
def askRestore (k node slot : Nat) (s : State) : State :=
  let pl := streamPayload 0 4 0 k slot []
  sendPktOn none (streamPkt (streamKey s node 0 0xF0FF) pl (fun _ => false)) s

/-- RESTORE (R357). -/
def cmdRestore (src : CmdSrc) (pk : Packet) (ext : List Byte) (s : State) : CmdRes :=
  onCtx pk s (fun k x =>
    let fromFs := par pk 0 = 1
    let node := par pk 1
    let slot := par pk 2
    let halted := ctxState s k == 2
    let begun := !x.steps.isEmpty || (x.committed.isSome && x.committed != x.restored)
    if 1 < par pk 0 || 2 ^ 14 ≤ node || 1 < slot || ext.length % 32 != 0 || (fromFs && x.fsRing.isNone) then .refuse stBadParam
    else if !fromFs && node = ownNode s && fbit s F.STR_BUDDY_STAT.RECEIVING && fget s F.STR_BUDDY_STAT.RX_SLOT == slot then
      .refuse stBusy
    else if !fromFs && node = ownNode s && !buddyValid s slot then .refuse stBadParam
    else if (begun && !halted) || x.restoreCmd.isSome || s.mgmt.unbinding.any (fun u => u.1 == k) || slotUpdates s k false ||
        slotSolves s k false || storesLeft s k then .refuse stBusy
    else
      let s1 := if halted then discardWork k s else s
      let r : Restore := { src := src, tag := pk.tag, map := chunksOf 32 ext.length ext, tallyAddr := par2 pk 3
                           node := if fromFs then none else some (node, slot), image := [], poison := [] }
      let s2 := modCtx k (fun y => { y with restoreCmd := some r }) s1
      .running true (if fromFs || node = ownNode s then s2 else askRestore k node slot s2))

end Sys2Proof.Machine
end

