-- ==== Sys2Proof/Machine/CmdMem.lean ====
section
/-! DEFINITION. Commands about device memory: the granule map, reads and writes (R183 to R188, R195, R207, R371, R422). -/

namespace Sys2Proof.Machine

/-! ## The granule map -/

/-- Frames of a granule entry: stack, first frame, count. -/
def entryFrames (e : Word) : List (Nat × Nat × Nat) :=
  (granuleRanges e).map (fun r => (r.1, r.2.1 / 2 ^ 26, r.2.2 / 2 ^ 26))

/-- Whether an entry of granule `g` is refused (R185). -/
def badEntry (s : State) (g : Nat) (e : Word) : Bool :=
  let mode := bitsOf e.toNat 30 29
  let unit := bitsOf e.toNat 19 16
  let frame := bitsOf e.toNat 15 6
  let mine := entryFrames e
  let meets := fun (a b : Nat × Nat × Nat) => a.1 == b.1 && decide (a.2.1 < b.2.1 + b.2.2) && decide (b.2.1 < a.2.1 + a.2.2)
  mode == 3 || (mode == 0 && frame % 16 != 0) || (mode == 1 && (frame % 4 != 0 || decide (3 < unit))) || (mode == 2 && unit != 0) ||
    mine.any (fun r => decide (768 < r.2.1 + r.2.2) || !stackOk s r.1) ||
    (List.range 1024).any (fun h => h != g && fbit s F.MEM_GMAP.VALID h &&
      (entryFrames (rget s .MEM_GMAP h)).any (fun r => mine.any (meets r)))

/-- The bits of `MEM_GMAP` that MEM_MAP may give. -/
def mapMask : Nat := 0x780FFFC0

/-- Whether the store-room lock forbids a change of an entry to a new value (R185). -/
def storeLocked (s : State) (old new : Word) : Bool :=
  fbit s F.STR_CFG.LOCK && (bitAt old.toNat 28 || bitAt new.toNat 28)

/-- Define or undefine a granule. -/
def mapDefine (g : Nat) (new : Word) (s : State) : CmdRes :=
  let old := rget s .MEM_GMAP g
  let owned := bitAt old.toNat 26
  let kept := wd (new.toNat + (if owned && new != 0 then bitsOf old.toNat 26 20 * 2 ^ 20 else 0))
  if storeLocked s old kept then .locked (regOff .MEM_GMAP g 0) old kept
  else if (owned && ((old ^^^ kept) &&& 0xE80FFFC0) != 0) || (new != 0 && badEntry s g new) then .refuse stBadParam
  else if filling s g then .refuse stBusy
  else .done stOk [] (rset .MEM_GMAP g 0 kept s)

/-- A granule granted to the context that the command names, or taken from it, behind its zero fill. -/
def mapGrant (src : CmdSrc) (pk : Packet) (g : Nat) (s : State) : CmdRes :=
  let old := rget s .MEM_GMAP g
  let inQuota := srcFn src == 0 || (match mapFind s.mgmt.quotas (srcFn src) with
    | some q => q.granules.contains g
    | none => false)
  let grant := par pk 1 = 2
  if pk.ctx = 0xFFFF then .refuse stBadParam
  else onCtx pk s (fun k x =>
    if storeLocked s old old then .locked (regOff .MEM_GMAP g 0) old old
    else if !inQuota || (if grant then !granuleFree s g else !x.granules.contains g) then .refuse stBadParam
    else if filling s g then .refuse stBusy
    else
      let s1 := setLastTaken (fun t => { t with final := some (stOk, []), waits := [g] }) s
      if grant then .running false (fillTo g (ownedEntry s g k) (setCtx k { x with granules := insertKey id g x.granules } s1))
      else .running false (fillTo g (freedEntry s g) (setCtx k { x with granules := x.granules.filter (· != g) } s1)))

/-- MEM_MAP. -/
def cmdMemMap (src : CmdSrc) (pk : Packet) (s : State) : CmdRes :=
  let g := par pk 0
  let op := par pk 1
  let v := par pk 2
  if 1024 ≤ g || 3 < op then .refuse stBadParam
  else if srcFn src != 0 && op < 2 then .refuse stBadOpcode
  else if (v &&& mapMask) != v || (op != 0 && v != 0) then .refuse stBadParam
  else if op = 0 then mapDefine g (wd (2 ^ 31 + v)) s
  else if op = 1 then mapDefine g 0 s
  else mapGrant src pk g s

/-! ## Reads and writes -/

/-- MEM_READ: the live bytes, those of poisoned lines included (R371). -/
def cmdMemRead (pk : Packet) (s : State) : CmdRes :=
  let a := par2 pk 0
  let n := par pk 2
  if n % 64 != 0 || 2 ^ 24 < n then .refuse stBadParam
  else match accessCause s (pkSlot pk) .hostCmd a n with
    | some (at_, cause) => .fault 3 at_ cause
    | none =>
      let bad := ((linePieces a n).filter (fun p => devPoison s p.1 p.2)).length
      .done (if bad = 0 then stOk else stPoisoned) [wd bad] (hostWrite (par2 pk 3) (devBytes s a n) (fun _ => false) s)

/-- MEM_WRITE: it waits at an update fence (R207); a high half of a registered split operand is refused (R195). -/
def cmdMemWrite (pk : Packet) (s : State) : CmdRes :=
  let a := par2 pk 0
  let n := par pk 2
  let h := par2 pk 3
  if n % 64 != 0 || 2 ^ 24 < n then .refuse stBadParam
  else match accessCause s (pkSlot pk) .hostCmd a n with
    | some (at_, cause) => .fault 3 at_ cause
    | none =>
      if hitsHighHalf s [(a, a + n)] then .refuse stBadParam
      else if !(fencesOf s (pkSlot pk) 0 true [(a, a + n)]).isEmpty then .wait s
      else
        let bad := fun (l : Nat) =>
          let lo := max (64 * l) a
          let hi := min (64 * l + 64) (a + n)
          hostPoisoned s (h + (lo - a)) (hi - lo)
        .done stOk [] (devWriteP a (hostBytes s h n) bad s)

end Sys2Proof.Machine
end

