-- ==== Sys2Proof/Machine/CmdImage.lean ====
section
/-! DEFINITION. LOAD_IMAGE: the checks of a load image and what a load binds (R27, R70, R72, R172 to R176, R223). -/

namespace Sys2Proof.Machine

/-- The header of a load image (R172). -/
structure ImgHead where
  flags : Nat
  bundles : Nat
  consts : Nat
  minCores : Nat
  maxCores : Nat
  joins : Nat
  tensors : Nat
  ovf : Nat
  codeOff : Nat
  constOff : Nat
  tensorOff : Nat
  deriving DecidableEq, Repr

/-- A header read from its 64 bytes; none where its fixed or reserved fields do not match, or a field is out of range (R175). -/
def imgHead (step : Nat) (b : List Byte) : Option ImgHead :=
  let h : ImgHead :=
    { flags := byteAt b 7, bundles := getLE b 8 2, consts := getLE b 10 2, minCores := getLE b 12 2, maxCores := getLE b 14 2
      joins := getLE b 16 2, tensors := getLE b 18 2, ovf := getLE b 20 4, codeOff := getLE b 24 4, constOff := getLE b 28 4
      tensorOff := getLE b 32 4 }
  if getLE b 0 4 = 0x5338494D && getLE b 4 2 = 1 && byteAt b 6 = step && h.flags < 4 && getLE b 36 28 = 0 &&
      1 ≤ h.bundles && h.bundles ≤ 4096 && h.consts ≤ 256 && 1 ≤ h.minCores && h.minCores ≤ h.maxCores && h.maxCores ≤ 2048 &&
      h.joins ≤ 4096 && h.ovf ≤ 2 ^ 24 && h.codeOff % 64 = 0 && h.constOff % 64 = 0 && h.tensorOff % 64 = 0 then some h else none

/-- The parts of an image: device address and bytes. -/
def ImgHead.parts (h : ImgHead) (a : Nat) : List (Nat × Nat) :=
  [(a + h.codeOff, 16 * h.bundles), (a + h.constOff, 64 * h.consts), (a + h.tensorOff, 32 * h.tensors)]

/-- Whether an entry of the tensor table is refused (R174, R175). -/
def tensorBad (b : List Byte) : Bool :=
  decide (0x7FFFFE < getLE b 0 3) || decide (7 < byteAt b 3) || bitsOf (byteAt b 3) 2 1 == 3 || getLE b 14 2 != 0 || getLE b 21 11 != 0

/-- Whether a control slot is a branch. -/
def isBranch : Ctl → Bool
  | .br _ => true
  | .bz _ _ => true
  | .bnz _ _ => true
  | _ => false

/-- Whether a control slot is a LOOP. -/
def isLoop : Ctl → Bool
  | .loop _ _ => true
  | _ => false

/-- The offset of a branch or a LOOP. -/
def jumpOff : Ctl → Option Int
  | .br o => some o
  | .bz _ o => some o
  | .bnz _ o => some o
  | .loop _ o => some o
  | _ => none

/-- Whether a control word is a WAIT with a nonzero `XD` or nonzero bits [20:17] (R70, R71). -/
def badWait (w : Nat) : Bool := bitsOf w 31 26 == 0x28 && bitsOf w 25 17 != 0

/-- Whether the placement of branches and loops in a program is refused (R70, R72). -/
def badJumps (cs : List Ctl) : Bool :=
  let n := cs.length
  (cs.zipIdx).any (fun (e : Ctl × Nat) =>
    let near := (cs.drop (e.2 + 1)).take 2
    (match jumpOff e.1 with
      | some o => decide ((e.2 : Int) + o < 0) || decide ((n : Int) ≤ (e.2 : Int) + o)
      | none => false) ||
    (isBranch e.1 && near.any (fun c => isBranch c || isLoop c)) ||
    (match e.1 with
      | .loop _ o => (match cs[((e.2 : Int) + o).toNat]? with | some c => isBranch c | none => false)
      | _ => false))

/-- The verdict on the bundles of an image: 0 accepted, 1 BAD_OPCODE, 2 BAD_PARAM (R70, R131, R133, R175, R217). -/
def codeCheck (code : List (BitVec 128)) : Nat :=
  let bs := code.map bundleOf
  let v := bs.map bundleBad
  if v.contains 1 then 1
  else if v.contains 2 || code.any (fun w => badWait (w.toNat / 2 ^ 96)) || badJumps (bs.map (fun b => b.ctl)) then 2 else 0

/-- The bundles in code bytes. -/
def codeOfBytes (b : List Byte) : List (BitVec 128) := (chunksOf 16 b.length b).map (fun c => BitVec.ofNat 128 (ofLE c))

/-- The image's constants in a core's first lines, with clear poison and right parity. -/
def bindConsts (consts : List (List Byte)) (k : Core) : Core :=
  placeConsts consts { k with
    shelfPoison := mapClear k.shelfPoison 0 consts.length, shelfBad := mapClear k.shelfBad 0 consts.length }

/-- What a load binds: the image, the logical cores, the constants on every core of the context (R173, R176). -/
def bindImage (k : Nat) (im : Image) (cores : List Nat) (s : State) : State :=
  let s1 := modCtx k (fun x => { x with image := some im }) s
  cores.foldl (fun a c =>
    let i := im.phys.findIdx (· == c)
    setCstat F.CORE_STAT.LCORE c (if i < im.phys.length then i else 0xFFF) (modCore c (bindConsts im.consts) a)) s1

/-- LOAD_IMAGE. -/
def cmdLoadImage (pk : Packet) (s : State) : CmdRes :=
  let a := par2 pk 0
  onCtx pk s (fun k x =>
    let may := fun (r : Nat × Nat) => accessCause s k .hostCmd r.1 r.2
    match may (a, 64) with
    | some (at_, cause) => .fault 3 at_ cause
    | none => match imgHead ((rget s .GBL_ID).toNat % 256) (devBytes s a 64) with
      | none => .refuse stBadParam
      | some h => match (h.parts a).findSome? may with
        | some (at_, cause) => .fault 3 at_ cause
        | none =>
          let part := fun (i : Nat) => let r := (h.parts a).getD i (0, 0); devBytes s r.1 r.2
          let code := codeOfBytes (part 0)
          let ts := chunksOf 32 (32 * h.tensors) (part 2)
          let tags := ts.map (fun b => getLE b 0 3)
          let lanes := bitAt h.flags 0 || (code.map bundleOf).any (fun b => b.vec.op == .rngl)
          let cores := sortKey id ((x.groups.map (groupCores s)).flatten)
          let n := min h.maxCores cores.length
          let v := codeCheck code
          if ((a, 64) :: h.parts a).any (fun r => devPoison s r.1 r.2) then .refuse stPoisoned
          else if v = 1 then .refuse stBadOpcode
          else if v = 2 || ts.any tensorBad || tags.eraseDups.length != tags.length ||
              (lanes && (portable s k || decide (32 < devicesIn s k))) || n < h.minCores then .refuse stBadParam
          else
            let im : Image :=
              { code := code, consts := chunksOf 64 (64 * h.consts) (part 1), tensors := sortKey (fun e => e.1) (tags.zip ts)
                ovfTasks := h.ovf, usesRngl := bitAt h.flags 0, phys := cores.take n }
            .done stOk [wd n] (bindImage k im cores s))

end Sys2Proof.Machine
end

