-- ==== Sys2Proof/Machine/CmdWork.lean ====
section
/-! DEFINITION. Commands that give a context work: posts, microprograms, update and solver descriptors (R155, R200 to R205, R234,
R235, R359, R415, R422). -/

namespace Sys2Proof.Machine

/-! ## Posts (R155, R374, R415, R422) -/

/-- A step that has been posted and has not begun. -/
def StepSt.posted (num : DWord) (cursor : List Byte) : StepSt :=
  { num := num, cursor := cursor, begun := false, contributed := false, closed := false, replaying := false, replayed := false
    consumed := false, mismatch := false, obs := false, solverReuse := false, raises := 0, tens := [], poisonedLines := []
    heldRanges := [], tlyLevel := 0, tlyOn := false, tlyBase := 0, tlyLog := 0, stopTag := none, ckptDecided := false
    stampBegin := 0, boxSrcs := [], updDone := [], win := [], agreed := [], holds := [] }

/-- Whether the close of an open step has begun. -/
def closeBegun (s : State) (slot : Nat) (e : StepSt) : Bool :=
  if (stepCctx s slot).isSome then e.contributed || e.closed else e.begun && !e.replaying && !tasksLeft s slot e.num

/-- Whether a post may name a step (R422). -/
def stepPostable (s : State) (slot : Nat) (x : Ctx) (t : DWord) : Bool :=
  match x.lastPosted with
  | none => !(ctxUpds s slot).any (fun u => decide (getLE u.2.2.bytes 20 8 < t.toNat)) &&
      !(ctxSolvs s slot).any (fun e => decide ((solvOf e.2.2.bytes).step < t.toNat))
  | some l => t == l + 1 || (t == l && (match stepSt? x t with | some e => !closeBegun s slot e | none => false))

/-- The task list of a post: each descriptor's bytes with the address of its poisoned line, if it has one. -/
def taskList (s : State) (a n : Nat) : List (List Byte × Option Nat) :=
  (List.range n).map (fun i =>
    let at_ := a + 192 * i
    (devBytes s at_ 192, ((linePieces at_ 192).find? (fun p => devPoison s p.1 p.2)).map (·.1)))

/-- POST_STEP. -/
def cmdPostStep (src : CmdSrc) (pk : Packet) (ext : List Byte) (s : State) : CmdRes :=
  onCtx pk s (fun k x =>
    let t := dw (par2 pk 0)
    let a := par2 pk 2
    let n := par pk 4
    let fresh := (stepSt? x t).isNone
    if n = 0 || 65535 < n || !stepPostable s k x t || ext.length != (if fresh then 256 else 0) then .refuse stBadParam
    else match accessCause s k .hostCmd a (192 * n) with
      | some (at_, cause) => .fault 3 at_ cause
      | none =>
        let bundles := match x.image with | some im => im.code.length | none => 0
        let l := taskList s a n
        if !l.all (fun d => taskDescOk bundles d.1 && decide (getLE d.1 16 2 < boundCount x)) then .refuse stBadParam
        else
          let notify := bitAt pk.flags.toNat 2
          let p : Post := { step := t, tasks := l.map (fun d => (taskDescOf d.1, d.2)), src := src, tag := pk.tag, notify := notify }
          let s1 := setCtx k { x with
            posts := x.posts ++ [p], lastPosted := some t
            steps := if fresh then x.steps ++ [StepSt.posted t ext] else x.steps } s
          let s2 := match stepSt? x t with
            | some e => if e.begun && !e.replaying then enqueuePosts k [p] s1 else s1
            | none => s1
          if notify then .running true s2 else .done stQueued [] s2)

/-! ## Microprograms (R200) -/

/-- UCODE_LOAD. -/
def cmdUcodeLoad (pk : Packet) (ext : List Byte) (s : State) : CmdRes :=
  let n := par pk 0
  let ws := (chunksOf 4 ext.length ext).map (fun c => wd (ofLE c))
  if 8 ≤ n || ext.length % 4 != 0 || ext.length = 0 || 256 < ext.length then .refuse stBadParam
  else match progCheck ws with
    | 1 => .refuse stBadOpcode
    | 2 => .refuse stBadParam
    | _ =>
      let held := match mapFind s.ucode n with | some u => u.slot != pkSlot pk | none => false
      let named := s.cellars.any (fun (e : Nat × Stack) => e.2.descs.any (fun (d : Nat × UpdDesc) => byteAt d.2.bytes 0 == 0x10 + n))
      if held || named then .refuse stBusy
      else .done stOk [] { s with ucode := mapPut s.ucode n { slot := pkSlot pk, words := ws } }

/-! ## Update descriptors (R203 to R205) -/

/-- The program that a descriptor of a context names, if there is one. -/
def namedProgram (s : State) (slot : Nat) (b : List Byte) : Option (List Word) :=
  let p := byteAt b 0
  if p < 4 then some (builtIn p)
  else if 0x10 ≤ p && p ≤ 0x17 then
    match mapFind s.ucode (p - 0x10) with
    | some u => if u.slot = slot then some u.words else none
    | none => none
  else none

/-- The formats that a built-in program allows a slot (R201). -/
def builtInFmts (prog n : Nat) : List Nat :=
  match prog, n with
  | 3, 1 => [0]
  | _, 0 => [0, 1]
  | _, 1 => [7]
  | 1, 3 => [0, 3]
  | _, _ => [0, 1]

/-- Whether the header of a descriptor is refused. -/
def updHeadBad (b : List Byte) : Bool :=
  let kind := byteAt b 3
  let fl := byteAt b 1
  b.length != 192 || (List.range 8).any (fun n => getLE b (75 + 16 * n) 5 != 0) || bitAt fl 3 || bitAt fl 7 || byteAt b 2 = 0 || decide (8 < byteAt b 2) || decide (2 < kind) ||
    getLE b 4 5 = 0 || decide (2 ^ 33 < getLE b 4 5) || (bitAt fl 1 && decide (0x7FFFFE < getLE b 9 3)) || getLE b 17 3 != 0 ||
    getLE b 28 5 % 64 != 0 || byteAt b 33 != 0 || getLE b 40 24 != 0 || (kind == 0 && decide (1023 < getLE b 34 2)) ||
    (kind == 1 && (decide (4095 < getLE b 34 2) || getLE b 36 4 = 0 || decide (65535 < getLE b 36 4)))

/-- Whether an operand slot of a descriptor is refused. -/
def updSlotBad (b : List Byte) (n : Nat) : Bool :=
  let (a, a2, fmt) := updSlot b n
  let size := if fmt = 0 then 4 else 2
  !([0, 1, 2, 3, 7].contains fmt) || a % size != 0 || (if fmt = 7 then a2 % 2 != 0 else a2 != 0)

/-- Whether a program does not fit a descriptor's slots. -/
def updProgBad (b : List Byte) (p : List Word) : Bool :=
  let prog := byteAt b 0
  let nops := byteAt b 2
  let fmt := fun (n : Nat) => (updSlot b n).2.2
  let is := (p.map cuInsOf).filter (fun i => cuLoads i.opc || cuStores i.opc)
  is.any (fun i => nops ≤ i.slot || ((i.opc == 2 || i.opc == 4) && fmt i.slot != 7) || (i.opc == 3 && fmt i.slot == 7) ||
      (prog < 4 && !(builtInFmts prog i.slot).contains (fmt i.slot))) ||
    (bitAt (byteAt b 1) 1 && !(progWrites p).contains (bitsOf (byteAt b 1) 6 4))

/-- The granules of a range. -/
def granulesOf (a n : Nat) : List Nat := if n = 0 then [] else (List.range ((a + n - 1) / 2 ^ 30 - a / 2 ^ 30 + 1)).map (· + a / 2 ^ 30)

/-- The cause for which a range of a descriptor is refused: it is to lie in mode-0 granules of one stack, those of the context, a
high half in the compute plane and a low half in the update plane (R204). -/
def updRangeCause (s : State) (slot home : Nat) (r : Nat × Nat × Nat) : Option Nat :=
  if 2 ^ 40 < r.2.1 then some 0
  else (granulesOf r.1 (r.2.1 - r.1)).findSome? (fun g =>
    match granuleCause s slot .update g with
    | some c => some c
    | none =>
      if (r.2.2 == 1 && fbit s F.MEM_GMAP.PLANE g) || (r.2.2 == 2 && !fbit s F.MEM_GMAP.PLANE g) then some 2
      else if fget s F.MEM_GMAP.MODE g != 0 || fget s F.MEM_GMAP.UNIT g != home then some 4
      else none)

/-- Whether two descriptors apply to a common step. -/
def commonStep (a b : UpdDesc) : Bool :=
  a.armed == b.armed || (updPersist a && decide (a.armed.toNat ≤ b.armed.toNat)) ||
    (updPersist b && decide (b.armed.toNat ≤ a.armed.toNat))

/-- The address and the cause for which a descriptor's ranges are refused. -/
def updFault (s : State) (slot home : Nat) (d : UpdDesc) : Option (Nat × Nat) :=
  let hp := getLE d.bytes 28 5
  match (updRanges d.bytes).findSome? (fun r => (updRangeCause s slot home r).map (fun c => (r.1, c))) with
  | some f => some f
  | none => match granuleCause s slot .mover (hp / 2 ^ 30) with
    | some c => some (hp, c)
    | none =>
      let others := s.cellars.map (fun (e : Nat × Stack) => e.2.descs.filter (fun (o : Nat × UpdDesc) => commonStep d o.2))
      ((updWritten d).find? (fun r => others.any (fun l => l.any (fun (o : Nat × UpdDesc) =>
        (updRanges o.2.bytes).any (fun q => rangesMeet r (q.1, q.2.1)))))).map (fun r => (r.1, 5))

/-- Whether a step of a context has begun or committed. -/
def stepReached (x : Ctx) (n : Nat) : Bool :=
  x.steps.any (fun e => e.begun && decide (n ≤ e.num.toNat)) ||
    (match x.committed with | some c => decide (n ≤ c.toNat) | none => false)

/-- The written ranges of a descriptor held for its armed step where that has begun: the pre-update contents are those that
stand at the registration (R207, R208, R342; DESIGN CHOICE, log entry 82). -/
def lateHold (d : UpdDesc) (x : Ctx) (s : State) : State :=
  if x.steps.any (fun e => e.num == d.armed && e.begun) then
    modStep d.slot d.armed (fun e => { e with heldRanges := e.heldRanges ++ updWritten d })
      (holdRanges d.slot d.armed (updWritten d) s)
  else s

/-- UPD_REGISTER. -/
def cmdUpdRegister (pk : Packet) (ext : List Byte) (s : State) : CmdRes :=
  onCtx pk s (fun k x =>
    match namedProgram s k ext with
    | none => .refuse stBadParam
    | some p =>
      let d : UpdDesc := { slot := k, bytes := ext, armed := dw (getLE ext 20 8), program := p, fired := false, keptFire := false
                           removing := false, reruns := 0 }
      let home := fget s F.MEM_GMAP.UNIT ((updSlot ext 0).1 / 2 ^ 30)
      if updHeadBad ext || (List.range (byteAt ext 2)).any (updSlotBad ext) || updProgBad ext p || stepReached x (d.armed.toNat + 1) then
        .refuse stBadParam
      else match updFault s k home d with
        | some (at_, cause) => .fault 1 at_ cause
        | none => match (List.range 256).find? (fun n => (mapFind (stackOf s home).descs n).isNone) with
          | none => .refuse stBusy
          | some n =>
            let s1 := lateHold d x (modStack home (fun q => { q with descs := mapPut q.descs n d }) s)
            .done stOk [wd home, wd n] (if alreadyFired s x d then fireUpd home n d.armed s1 else s1))

/-- The descriptor of the naming context that a command's stack and number name. -/
def namedUpd (pk : Packet) (s : State) : Option UpdDesc :=
  if 16 ≤ par pk 0 || 256 ≤ par pk 1 then none
  else match mapFind (stackOf s (par pk 0)).descs (par pk 1) with
    | some d => if d.slot = pkSlot pk then some d else none
    | none => none

/-- UPD_DEREGISTER: at once where the descriptor has not fired in the current step, else once its update completes (R205). -/
def cmdUpdDeregister (pk : Packet) (s : State) : CmdRes :=
  match namedUpd pk s with
  | none => .refuse stBadParam
  | some d => .done stOk [] (modStack (par pk 0) (fun q => { q with
      descs := if d.fired then mapPut q.descs (par pk 1) { d with removing := true } else mapDel q.descs (par pk 1) }) s)

/-- UPD_FIRE. -/
def cmdUpdFire (pk : Packet) (s : State) : CmdRes :=
  match namedUpd pk s with
  | none => .refuse stBadParam
  | some d =>
    if byteAt d.bytes 3 != 2 then .refuse stBadParam
    else .done stOk [] (fireUpd (par pk 0) (par pk 1) (dw (par2 pk 2)) s)

/-! ## Solver descriptors (R234, R235, R359) -/

/-- Whether the fields of a solver descriptor are refused. -/
def solvBad (b : List Byte) : Bool :=
  let v := solvOf b
  let root := v.op == 3
  b.length != 128 || decide (3 < v.op) || decide (7 < v.flags) || (if root then !([1, 2, 4].contains v.rootP) else v.rootP != 0) ||
    (if root then v.iters == 0 || decide (64 < v.iters) else v.iters != 0) || v.n == 0 || decide (4096 < v.n) || v.batch == 0 ||
    decide (256 < v.batch) || v.m == 0 || decide (2 ^ 24 < v.m) || (if v.op == 2 then v.rhs == 0 || decide (4096 < v.rhs) else v.rhs != 0) ||
    v.stale == 0 || decide (15 < v.stale) || decide (v.slots < max 2 (v.stale + 1)) || decide (16 < v.slots) ||
    !([0, 1, 7].contains v.xFmt) || v.xAddr % v.xBytes != 0 || v.statAddr % 4 != 0 || v.outAddr % 4 != 0 || v.bAddr % 4 != 0 ||
    v.curAddr % 8 != 0 || decide (4095 < v.trig) || v.trigN == 0 || getLE b 60 4 != 0 || (v.h.drop 4).any (· != 0)

/-- The address and the cause for which a solver descriptor's ranges are refused (R235). -/
def solvFault (s : State) (slot : Nat) (v : Solv) : Option (Nat × Nat) :=
  let inCompute := [(v.xAddr, v.batch * v.n * v.m * v.xBytes), (v.bAddr, v.batch * (4 * v.n * v.rhs)), (v.curAddr, 8)]
  match inCompute.findSome? (fun r => accessCause s slot .hostCmd r.1 r.2) with
  | some f => some f
  | none => [v.banks, v.outs].findSome? (fun r => accessCause s slot .update r.1 r.2)

/-- A fresh registration; solver state that a restore loaded for its current word goes on from the image (R359). -/
def solvDescOf (slot : Nat) (b : List Byte) (order : Nat) (saved : Option (List Byte)) : SolvDesc :=
  let first := dw (solvOf b).step
  match saved with
  | none => { slot := slot, bytes := b, order := order, reuses := 0, base := first, next := first, current := none, curs := [], removing := false
              stallFrom := none }
  | some w =>
    let next := if getLE w 12 4 = 0 then first else dw (getLE w 16 8)
    let cur := if getLE w 0 8 = 2 ^ 64 - 1 then none else some (dw (getLE w 0 8))
    let base := match cur with | some c => if c.toNat < next.toNat then c else next | none => next
    { slot := slot, bytes := b, order := order, reuses := getLE w 8 4, base := base, next := next, current := cur, curs := [], removing := false
      stallFrom := none }

/-- The place in the order of registration that a new descriptor takes (R245). -/
def solvOrder (o : Solver) : Nat := o.descs.foldl (fun a (e : Nat × SolvDesc) => max a (e.2.order + 1)) 0

/-- SOLV_REGISTER. -/
def cmdSolvRegister (pk : Packet) (ext : List Byte) (s : State) : CmdRes :=
  onCtx pk s (fun k x =>
    let d := par pk 0
    let v := solvOf ext
    if 8 ≤ d || solvBad ext || (match x.lastPosted with | some l => decide (v.step ≤ l.toNat) | none => false) then .refuse stBadParam
    else match solvFault s k v with
      | some (at_, cause) => .fault 3 at_ cause
      | none => match (List.range 64).find? (fun n => (mapFind (solverOf s d).descs n).isNone) with
        | none => .refuse stBusy
        | some n =>
          let saved := (x.solvSaved.find? (fun e => e.1 == v.curAddr)).map (·.2)
          .done stOk [wd n] (modSolver d (fun o => { o with descs := mapPut o.descs n (solvDescOf k ext (solvOrder o) saved) })
            (setCtx k { x with solvSaved := x.solvSaved.filter (fun e => e.1 != v.curAddr) } s)))

/-- SOLV_DEREGISTER: after the current statistics step's work (R246). -/
def cmdSolvDeregister (pk : Packet) (s : State) : CmdRes :=
  let d := par pk 0
  let n := par pk 1
  if 8 ≤ d then .refuse stBadParam
  else match mapFind (solverOf s d).descs n with
    | none => .refuse stBadParam
    | some e =>
      let o := solverOf s d
      let busy := (match o.running with | some w => w.num == n | none => false) || o.doneFront.any (fun f => f.1 == n) ||
        (!(solvOf e.bytes).front && (match ctxOf s e.slot with
          | some x => (match x.committed with | some c => decide (e.next.toNat ≤ c.toNat) | none => false)
          | none => false))
      if e.slot != pkSlot pk then .refuse stBadParam
      else .done stOk [] (modSolver d (fun o => { o with
        descs := if busy then mapPut o.descs n { e with removing := true } else mapDel o.descs n }) s)

end Sys2Proof.Machine
end

