-- ==== Sys2Proof/Machine/Commands.lean ====
section
/-! DEFINITION. The commands of R421, one meaning each, and how commands are taken, wait, complete and are replied (R401, R408
to R415, R419, R425, R454). -/

namespace Sys2Proof.Machine

/-! ## Serving -/

/-- What the opcode of a packet runs. -/
def handler (src : CmdSrc) (pk : Packet) (ext : List Byte) (s : State) : CmdRes :=
  match pk.opcode.toNat with
  | 0x0000 => cmdNop s
  | 0x0001 => cmdGetInfo s
  | 0x0002 => cmdReadEvents src pk s
  | 0x0003 => cmdReadLog pk s
  | 0x0004 => cmdRegAccess src pk s
  | 0x0005 => cmdTelemetry s
  | 0x0100 => cmdFnQuota pk ext s
  | 0x0101 => cmdBind src pk ext s
  | 0x0102 => cmdUnbind src pk s
  | 0x0103 => cmdMoveGroup src pk s
  | 0x0104 => cmdHalt pk s
  | 0x0105 => cmdHoldRegister pk ext s
  | 0x0200 => cmdMemMap src pk s
  | 0x0201 => cmdMemRead pk s
  | 0x0202 => cmdMemWrite pk s
  | 0x0300 => cmdLoadImage pk s
  | 0x0301 => cmdPostStep src pk ext s
  | 0x0302 => cmdReplay src pk s
  | 0x0303 => cmdResume pk s
  | 0x0304 => cmdRealign s
  | 0x0305 => cmdUcodeLoad pk ext s
  | 0x0400 => cmdUpdRegister pk ext s
  | 0x0401 => cmdUpdDeregister pk s
  | 0x0402 => cmdUpdFire pk s
  | 0x0403 => cmdSolvRegister pk ext s
  | 0x0404 => cmdSolvDeregister pk s
  | 0x0500 => cmdCctxCreate src pk ext s
  | 0x0501 => cmdCctxDestroy pk s
  | 0x0502 => cmdTimeSet pk s
  | 0x0503 => cmdPortRetrain pk s
  | 0x0504 => cmdPortUnlock pk s
  | 0x0600 => cmdFsRing pk s
  | 0x0601 => cmdCheckpoint src pk s
  | 0x0602 => cmdRestore src pk ext s
  | 0x0700 => cmdLockSet pk s
  | 0x0701 => cmdDebugChallenge s
  | 0x0702 => cmdDebugUnlock ext s
  | 0x0703 => cmdDebugLock s
  | 0x0704 => cmdRetireUnit pk s
  | 0x0705 => cmdSetPower pk s
  | 0x0706 => cmdFailover s
  | _ => .refuse stBadOpcode

/-- A taken command run by its opcode. -/
def serve (c : Taken) (s : State) : State := runTaken c (handler c.src c.pk) s

/-- A taken command that has not changed anything run again. -/
def serveAgain (src : CmdSrc) (tag : BitVec 16) (s : State) : State :=
  match findTaken s src tag with
  | some c => serve { c with final := none, waits := [] } (dropTaken src tag s)
  | none => s

/-- A command of one opcode that has been taken by a path. -/
def runOp (op : Nat) (src : CmdSrc) (pk : Packet) (h : Packet → List Byte → State → CmdRes) (s : State) : Out :=
  let p := { pk with opcode := BitVec.ofNat 16 op }
  .next (runTaken (Taken.fresh src p) (h p) s)

/-! ## Rings (R413 to R415, R419) -/

/-- The oldest packet of a ring that has not been read. -/
def ringPacket (s : State) (f r : Nat) : Packet :=
  let base := (rget s .RING_SQ_LO f r).toNat + 2 ^ 32 * (rget s .RING_SQ_HI f r).toNat
  parsePacket (hostBytes s (base + 64 * (fget s F.RING_STAT.SQ_HEAD f r % ringSize s f r)) 64)

/-- Commands of a function taken and not completed. -/
def takenBy (s : State) (f : Nat) : Nat := (s.mgmt.taken.filter (fun t => !isMctp t.src && srcFn t.src == f)).length

/-- Whether an earlier command of a ring is still to be answered. -/
def ringOpen (s : State) (f r : Nat) : Bool := s.mgmt.taken.any (fun t => match t.src with
  | .ring f' r' => f'.val == f && r'.val == r
  | _ => false)

/-- Whether a ring has a command that may start now but for room in its completion ring. -/
def ringStarts (s : State) (kind : Bool) (f r : Nat) : Bool :=
  fbit s F.RING_CFG.KIND f r == kind && ringWaiting s f r != 0 && decide (takenBy s f < 64) &&
    !(bitAt (ringPacket s f r).flags.toNat 1 && ringOpen s f r)

/-- Whether the completion ring has room for a command's replies. -/
def ringRoom (s : State) (f r : Nat) : Bool := decide (cqOwed s f r + 2 ≤ cqFree s f r)

/-- The oldest command of a ring taken and served; without room for its replies the ring is stalled. -/
def takeRing (f : Fn) (r : Fin 4) (s : State) : State :=
  if !ringRoom s f.val r.val then fset F.RING_STAT.STALLED f.val r.val 1 s
  else
    let pk := ringPacket s f.val r.val
    let s1 := fset F.RING_STAT.SQ_HEAD f.val r.val ((fget s F.RING_STAT.SQ_HEAD f.val r.val + 1) % ringSize s f.val r.val)
      (fset F.RING_STAT.STALLED f.val r.val 0 s)
    serve (Taken.fresh (.ring f r) pk) s1

/-- Whether the task fabric may read a launch ring: its context is in its slot. -/
def launchOpen (s : State) (f r : Nat) : Bool :=
  match boundSlot s (fget s F.RING_CFG.CTX f r) with
  | some k => ctxState s k != 3 && fget s F.PWR_STAT.STATE != 2
  | none => false

/-- Every post that a launch ring can give now taken by the task fabric. -/
def takeLaunch (f : Fn) (r : Fin 4) (s : State) : State :=
  (List.range (ringSize s f.val r.val)).foldl (fun a _ =>
    if ringStarts a true f.val r.val && launchOpen a f.val r.val then takeRing f r a else a) s

/-- Every launch ring read. -/
def takeLaunches (s : State) : State :=
  (List.range 260).foldl (fun a i => takeLaunch (Fin.ofNat 65 (i / 4)) (Fin.ofNat 4 i) a) s

/-! ## Service order (R411, R412, R425) -/

/-- The command in an inbound mailbox; words beyond `LEN` read 0. -/
def mailPacket (s : State) (f : Nat) : Packet :=
  let n := fget s F.MB_CTRL.LEN f
  parsePacket (((List.range 16).map (fun i => leBytes 4 (if i < n then (rget s .MB_IN f i).toNat else 0))).flatten)

/-- Whether firmware takes a function's message now: its outbound mailbox is empty, and it has no mailbox command open. -/
def mailReady (s : State) (f : Nat) : Bool :=
  fbit s F.MB_STAT.FULL f && !fbit s F.MB_OSTAT.FULL f && decide (takenBy s f < 64) &&
    !s.mgmt.taken.any (fun t => match t.src with | .mailbox g => g.val == f | _ => false)

/-- Whether management takes commands: firmware is up, or the responder answers for it (R427, R457). -/
def mgmtUp (s : State) : Bool :=
  (fbit s F.GBL_EDITION.VALID || fbit s F.BOOT_STAT.FAIL || fbit s F.MGMT_STAT.DEAD) && fget s F.PWR_STAT.STATE != 2

/-- A mailbox message taken and served. -/
def takeMail (f : Fn) (s : State) : State :=
  let pk := mailPacket s f.val
  serve (Taken.fresh (.mailbox f) pk) (raiseMsix f.val 0 (fset F.MB_STAT.FULL f.val 0 0 s))

/-- The numbers below `n` from `a` on, wrapping. -/
def rotate (n a : Nat) : List Nat := (List.range n).map (fun i => (a + i) % n)

/-- The ring of a function to be served next, with room or to be marked as stalled. -/
def nextRing (s : State) (f : Nat) : Option Nat :=
  (rotate 4 (mapGet 0 s.mgmt.ringTurn f)).find? (fun r => ringStarts s false f r && ringRoom s f r)

/-- Command rings that wait for room marked. -/
def markStalled (s : State) : State :=
  (List.range 260).foldl (fun a i =>
    if ringStarts a false (i / 4) (i % 4) && !ringRoom a (i / 4) (i % 4) then fset F.RING_STAT.STALLED (i / 4) (i % 4) 1 a else a) s

/-- The internal mailboxes emptied by the core that serves them (R412). -/
def takeInternal (s : State) : State := modMgmt (fun m => { m with intFull := [], intMail := [] }) s

/-- The next command in Poesh's service order taken and served. -/
def takeNext (s : State) : State :=
  let turn := fun (a : State) => modMgmt (fun m => { m with coreTurn := (m.coreTurn + 1) % 4 }) a
  match (0 :: (rotate 64 s.mgmt.mbTurn).map (· + 1)).find? (mailReady s) with
  | some f =>
    takeMail (Fin.ofNat 65 f) (turn (modMgmt (fun m => { m with mbTurn := if f = 0 then m.mbTurn else f % 64 }) s))
  | none =>
    match (rotate 65 s.mgmt.fnTurn).find? (fun f => (nextRing s f).isSome) with
    | none => s
    | some f => match nextRing s f with
      | none => s
      | some r => takeRing (Fin.ofNat 65 f) (Fin.ofNat 4 r) (turn (modMgmt (fun m =>
          { m with fnTurn := (f + 1) % 65, ringTurn := mapPut m.ringTurn f ((r + 1) % 4) }) s))

/-- MAILBOX_TAKE (R411). -/
def execMailboxTake (f : Fn) (s : State) : Out :=
  if mgmtUp s && mailReady s f.val then .next (takeMail f s) else .next s

/-- COMMAND_TAKE (R412, R415, R419, R425): one command in Poesh's service order, and the posts of the launch rings. -/
def execCommandTake (s : State) : Out :=
  .next (takeLaunches (if mgmtUp s then takeNext (takeInternal (markStalled s)) else s))

/-! ## Completion (R186, R401, R419, R454) -/

/-- Whether a taken command was put off until a context returns. -/
def isStalled (s : State) (c : Taken) : Bool := s.mgmt.stalled.any (fun w => w.1 == c.src && w.2 == c.pk)

/-- Commands put off that need wait no longer run. -/
def runStalled (s : State) : State :=
  let go := s.mgmt.stalled.filter (fun w => (namedStowed s w.2).isNone && !namesStowing s w.2)
  go.foldl (fun a w => serveAgain w.1 w.2.tag (modMgmt (fun m =>
    { m with stalled := m.stalled.filter (fun v => !(v.1 == w.1 && v.2 == w.2)) }) a)) s

/-- What a taken command waits for looked at again: an unbinding, or the end of an update that fences its write. -/
def goOn (c : Taken) (s : State) : State :=
  match s.mgmt.unbinding.find? (fun u => u.2 == some (c.src, c.pk.tag)) with
  | some u => loggedAs c.src c.pk.tag (fun a => tryUnbind a u) s
  | none => if c.pk.opcode.toNat = 0x0202 && c.final.isNone then serveAgain c.src c.pk.tag s else s

/-- COMMAND_COMPLETE (R186, R419): a taken command completes where it may, and its final reply is written once what it waits for
has been done and there is room. -/
def execCommandComplete (src : CmdSrc) (tag : Imm16) (s : State) : Out :=
  let s1 := runStalled (finishFlr s)
  match findTaken s1 src tag with
  | none => .next s1
  | some c =>
    let s2 := if isStalled s1 c then s1 else goOn c s1
    match findTaken s2 src tag with
    | none => .next s2
    | some d => match d.final with
      | none => .next s2
      | some (st, ys) => if d.waits.isEmpty then .next (finishTaken src tag st ys s2) else .next s2

/-- COMMAND_QUEUED_REPLY (R419): a command that has run for 1 ms and is not complete gets its QUEUED reply. -/
def execCommandQueuedReply (src : CmdSrc) (tag : Imm16) (s : State) : Out :=
  match findTaken s src tag with
  | none => .next s
  | some c =>
    if c.mute || c.queued || !replyRoom s src then .next s
    else .next (writeReply src c.pk stQueued false false [] (modTaken src tag (fun t => { t with queued := true }) s))

/-- What waits for a context that has just been stowed starts its unstow: commands put off and posts in launch rings. -/
def wakeStowed (s : State) : State :=
  let s1 := s.mgmt.stalled.foldl (fun a w => match namedStowed a w.2 with
    | some e => trigger e (srcFn w.1) a
    | none => a) s
  (List.range 260).foldl (fun a i =>
    if fbit a F.RING_CFG.KIND (i / 4) (i % 4) && ringWaiting a (i / 4) (i % 4) != 0 then
      match stowedBy a (fget a F.RING_CFG.CTX (i / 4) (i % 4)) with
      | some e => trigger e.entry (i / 4) a
      | none => a
    else a) s1

/-- STOW_COMPLETE (R399 to R401): the slot state is stored; the bind that waits for the slot runs, or a stowed context starts to
return. -/
def execStowComplete (k : Slot) (s : State) : Out :=
  match s.mgmt.stows.find? (fun w => w.1 == k.val) with
  | none => .next s
  | some w =>
    let s1 := modMgmt (fun m => { m with stows := m.stows.filter (fun v => v.1 != k.val) }) s
    let s2 := match freeEntry s1 with
      | some n => stowNow k.val n s1
      | none => fset F.CTX_STAT.STATE k.val 0 1 s1
    let s3 := match w.2 with
      | some (src, pk) => serveAgain src pk.tag s2
      | none => tryUnstow k.val s2
    .next (wakeStowed s3)

/-- UNSTOW_COMPLETE (R401): the context is back in its slot; the commands and the ring that waited for it are served. -/
def execUnstowComplete (k : Slot) (s : State) : Out :=
  if !s.mgmt.unstows.contains k.val then .next s else
  let s1 := modMgmt (fun m => { m with unstows := m.unstows.filter (· != k.val) }) s
  match nextUnstow s1 k.val with
  | none => .next (fset F.CTX_STAT.STATE k.val 0 0 s1)
  | some e => .next (takeLaunches (runStalled (unstowNow k.val e s1)))

/-- PARKED_EXIT_COMPLETE (R454, R455): the device is Active; shelves are cleared with the constants of their contexts placed, and
a SET_POWER that waits is done. -/
def execParkedExitComplete (s : State) : Out :=
  if !s.plat.parkedExit then .next s else
  let s1 := modPlat (fun p => { p with parkedExit := false }) (fset F.PWR_STAT.STATE 0 0 0 s)
  let s2 := (List.range 8).foldl (fun a d => if fget a F.DIE_PWR.STATE d = 2 then fset F.DIE_PWR.STATE d 0 0 a else a) s1
  let s3 := { s2 with cores := s2.cores.map (fun (e : Nat × Core) => (e.1, { clearShelf e.2 with clearDue := true })) }
  let s4 := s3.ctxs.foldl (fun a (e : Nat × Ctx) => match e.2.image with
    | some im => (coresOf a e.1).foldl (fun b c => modCore c (fun k => placeConsts im.consts { clearShelf k with clearDue := false }) b) a
    | none => a) s3
  let mine := s4.mgmt.taken.filter (fun t => t.pk.opcode == 0x0705#16 && par t.pk 0 == 0 && t.final.isNone)
  .next (mine.foldl (fun a t => finishTaken t.src t.pk.tag stOk [] a) s4)

/-! ## One meaning for each opcode (R421, R422) -/

/-- NOP. -/
def execNopCmd (src : CmdSrc) (pk : Packet) (s : State) : Out := runOp 0x0000 src pk (fun _ _ s => cmdNop s) s

/-- GET_INFO. -/
def execGetInfo (src : CmdSrc) (pk : Packet) (s : State) : Out := runOp 0x0001 src pk (fun _ _ s => cmdGetInfo s) s

/-- READ_EVENTS. -/
def execReadEvents (src : CmdSrc) (pk : Packet) (s : State) : Out := runOp 0x0002 src pk (fun p _ s => cmdReadEvents src p s) s

/-- READ_LOG. -/
def execReadLog (src : CmdSrc) (pk : Packet) (s : State) : Out := runOp 0x0003 src pk (fun p _ s => cmdReadLog p s) s

/-- REG_ACCESS. -/
def execRegAccess (src : CmdSrc) (pk : Packet) (s : State) : Out := runOp 0x0004 src pk (fun p _ s => cmdRegAccess src p s) s

/-- TELEMETRY. -/
def execTelemetry (src : CmdSrc) (pk : Packet) (s : State) : Out := runOp 0x0005 src pk (fun _ _ s => cmdTelemetry s) s

/-- FN_QUOTA. -/
def execFnQuota (src : CmdSrc) (pk : Packet) (s : State) : Out := runOp 0x0100 src pk (fun p x s => cmdFnQuota p x s) s

/-- BIND. -/
def execBind (src : CmdSrc) (pk : Packet) (s : State) : Out := runOp 0x0101 src pk (fun p x s => cmdBind src p x s) s

/-- UNBIND. -/
def execUnbind (src : CmdSrc) (pk : Packet) (s : State) : Out := runOp 0x0102 src pk (fun p _ s => cmdUnbind src p s) s

/-- MOVE_GROUP. -/
def execMoveGroup (src : CmdSrc) (pk : Packet) (s : State) : Out := runOp 0x0103 src pk (fun p _ s => cmdMoveGroup src p s) s

/-- HALT. -/
def execHalt (src : CmdSrc) (pk : Packet) (s : State) : Out := runOp 0x0104 src pk (fun p _ s => cmdHalt p s) s

/-- HOLD_REGISTER. -/
def execHoldRegister (src : CmdSrc) (pk : Packet) (s : State) : Out := runOp 0x0105 src pk (fun p x s => cmdHoldRegister p x s) s

/-- MEM_MAP. -/
def execMemMap (src : CmdSrc) (pk : Packet) (s : State) : Out := runOp 0x0200 src pk (fun p _ s => cmdMemMap src p s) s

/-- MEM_READ. -/
def execMemRead (src : CmdSrc) (pk : Packet) (s : State) : Out := runOp 0x0201 src pk (fun p _ s => cmdMemRead p s) s

/-- MEM_WRITE. -/
def execMemWrite (src : CmdSrc) (pk : Packet) (s : State) : Out := runOp 0x0202 src pk (fun p _ s => cmdMemWrite p s) s

/-- LOAD_IMAGE. -/
def execLoadImage (src : CmdSrc) (pk : Packet) (s : State) : Out := runOp 0x0300 src pk (fun p _ s => cmdLoadImage p s) s

/-- POST_STEP. -/
def execPostStep (src : CmdSrc) (pk : Packet) (s : State) : Out := runOp 0x0301 src pk (fun p x s => cmdPostStep src p x s) s

/-- REPLAY. -/
def execReplay (src : CmdSrc) (pk : Packet) (s : State) : Out := runOp 0x0302 src pk (fun p _ s => cmdReplay src p s) s

/-- RESUME. -/
def execResume (src : CmdSrc) (pk : Packet) (s : State) : Out := runOp 0x0303 src pk (fun p _ s => cmdResume p s) s

/-- REALIGN. -/
def execRealign (src : CmdSrc) (pk : Packet) (s : State) : Out := runOp 0x0304 src pk (fun _ _ s => cmdRealign s) s

/-- UCODE_LOAD. -/
def execUcodeLoad (src : CmdSrc) (pk : Packet) (s : State) : Out := runOp 0x0305 src pk (fun p x s => cmdUcodeLoad p x s) s

/-- UPD_REGISTER. -/
def execUpdRegister (src : CmdSrc) (pk : Packet) (s : State) : Out := runOp 0x0400 src pk (fun p x s => cmdUpdRegister p x s) s

/-- UPD_DEREGISTER. -/
def execUpdDeregister (src : CmdSrc) (pk : Packet) (s : State) : Out := runOp 0x0401 src pk (fun p _ s => cmdUpdDeregister p s) s

/-- UPD_FIRE. -/
def execUpdFire (src : CmdSrc) (pk : Packet) (s : State) : Out := runOp 0x0402 src pk (fun p _ s => cmdUpdFire p s) s

/-- SOLV_REGISTER. -/
def execSolvRegister (src : CmdSrc) (pk : Packet) (s : State) : Out := runOp 0x0403 src pk (fun p x s => cmdSolvRegister p x s) s

/-- SOLV_DEREGISTER. -/
def execSolvDeregister (src : CmdSrc) (pk : Packet) (s : State) : Out := runOp 0x0404 src pk (fun p _ s => cmdSolvDeregister p s) s

/-- CCTX_CREATE. -/
def execCctxCreate (src : CmdSrc) (pk : Packet) (s : State) : Out := runOp 0x0500 src pk (fun p x s => cmdCctxCreate src p x s) s

/-- CCTX_DESTROY. -/
def execCctxDestroy (src : CmdSrc) (pk : Packet) (s : State) : Out := runOp 0x0501 src pk (fun p _ s => cmdCctxDestroy p s) s

/-- TIME_SET. -/
def execTimeSet (src : CmdSrc) (pk : Packet) (s : State) : Out := runOp 0x0502 src pk (fun p _ s => cmdTimeSet p s) s

/-- PORT_RETRAIN. -/
def execPortRetrain (src : CmdSrc) (pk : Packet) (s : State) : Out := runOp 0x0503 src pk (fun p _ s => cmdPortRetrain p s) s

/-- PORT_UNLOCK. -/
def execPortUnlock (src : CmdSrc) (pk : Packet) (s : State) : Out := runOp 0x0504 src pk (fun p _ s => cmdPortUnlock p s) s

/-- FS_RING. -/
def execFsRing (src : CmdSrc) (pk : Packet) (s : State) : Out := runOp 0x0600 src pk (fun p _ s => cmdFsRing p s) s

/-- CHECKPOINT. -/
def execCheckpoint (src : CmdSrc) (pk : Packet) (s : State) : Out := runOp 0x0601 src pk (fun p _ s => cmdCheckpoint src p s) s

/-- RESTORE. -/
def execRestore (src : CmdSrc) (pk : Packet) (s : State) : Out := runOp 0x0602 src pk (fun p x s => cmdRestore src p x s) s

/-- LOCK_SET. -/
def execLockSet (src : CmdSrc) (pk : Packet) (s : State) : Out := runOp 0x0700 src pk (fun p _ s => cmdLockSet p s) s

/-- DEBUG_CHALLENGE. -/
def execDebugChallenge (src : CmdSrc) (pk : Packet) (s : State) : Out := runOp 0x0701 src pk (fun _ _ s => cmdDebugChallenge s) s

/-- DEBUG_UNLOCK. -/
def execDebugUnlock (src : CmdSrc) (pk : Packet) (s : State) : Out := runOp 0x0702 src pk (fun _ x s => cmdDebugUnlock x s) s

/-- DEBUG_LOCK. -/
def execDebugLock (src : CmdSrc) (pk : Packet) (s : State) : Out := runOp 0x0703 src pk (fun _ _ s => cmdDebugLock s) s

/-- RETIRE_UNIT. -/
def execRetireUnit (src : CmdSrc) (pk : Packet) (s : State) : Out := runOp 0x0704 src pk (fun p _ s => cmdRetireUnit p s) s

/-- SET_POWER. -/
def execSetPower (src : CmdSrc) (pk : Packet) (s : State) : Out := runOp 0x0705 src pk (fun p _ s => cmdSetPower p s) s

/-- FAILOVER. -/
def execFailover (src : CmdSrc) (pk : Packet) (s : State) : Out := runOp 0x0706 src pk (fun _ _ s => cmdFailover s) s

end Sys2Proof.Machine
end

