-- ==== Sys2Proof/Machine/Matrix.lean ====
section
/-! DEFINITION. The matrix slot (R75, R76): each command issues a bundle whose other slots are empty. -/

namespace Sys2Proof.Machine

/-- MMA (R93). -/
def execMma (c : CoreId) (md : BitVec 4) (ct : BitVec 2) (k16 : Byte) (clr : Bool) (s : State) : Out :=
  .next
    (issue c.val { Bundle.none with mat := { Mat.none with op := .mma, md := md.toNat, ct := ct.toNat, k16 := k16.toNat, flags := 512 * b2n clr } } s)

/-- MPRE (R109). -/
def execMpre (c : CoreId) (md : BitVec 4) (ct : BitVec 2) (s : State) : Out :=
  .next (issue c.val { Bundle.none with mat := { Mat.none with op := .mpre, md := md.toNat, ct := ct.toNat } } s)

/-- MOUT (R111). -/
def execMout (c : CoreId) (md : BitVec 4) (ct : BitVec 2) (s : State) : Out :=
  .next (issue c.val { Bundle.none with mat := { Mat.none with op := .mout, md := md.toNat, ct := ct.toNat } } s)

/-- MSPILL (R98). -/
def execMspill (c : CoreId) (ct : BitVec 2) (s : State) : Out :=
  .next (issue c.val { Bundle.none with mat := { Mat.none with op := .mspill, ct := ct.toNat } } s)

/-- MANCH (R99). -/
def execManch (c : CoreId) (md : BitVec 4) (ct : BitVec 2) (auto : Bool) (as : ArrSlot) (s : State) : Out :=
  .next
    (issue c.val { Bundle.none with mat := { Mat.none with op := .manch, md := md.toNat, ct := ct.toNat, flags := 512 * b2n auto + as.toNat } } s)

/-- CSAVE (R97). -/
def execCsave (c : CoreId) (md : BitVec 4) (ct : BitVec 2) (s : State) : Out :=
  .next (issue c.val { Bundle.none with mat := { Mat.none with op := .csave, md := md.toNat, ct := ct.toNat } } s)

/-- CLOAD (R91). -/
def execCload (c : CoreId) (md : BitVec 4) (ct : BitVec 2) (s : State) : Out :=
  .next (issue c.val { Bundle.none with mat := { Mat.none with op := .cload, md := md.toNat, ct := ct.toNat } } s)

end Sys2Proof.Machine
end

