-- ==== Sys2Proof/Machine/Regs.lean ====
section
/-! DEFINITION. Register accesses as commands of their own, function pages and rings, function resets (R5, R7, R408 to R415). -/

namespace Sys2Proof.Machine

/-! ## Registers -/

/-- The posts that a written ring register lets the task fabric read (R415). -/
def afterRingWrite (off : Nat) (s : State) : State :=
  match regAt off with
  | some (.RING_SQ_DB, i, j) => takeLaunch (Fin.ofNat 65 i) (Fin.ofNat 4 j) s
  | some (.RING_CQ_DB, i, j) => takeLaunch (Fin.ofNat 65 i) (Fin.ofNat 4 j) s
  | some (.RING_CFG, i, j) => takeLaunch (Fin.ofNat 65 i) (Fin.ofNat 4 j) s
  | _ => s

/-- A register written, with what it sets off in the task fabric. -/
def writeReg (o : Origin) (off : Nat) (v : Word) (s : State) : State := afterRingWrite off (regWrite o off v s)

/-- REG_WRITE (R5, R407, R429, R430, R433, R437). -/
def execRegWrite (o : Origin) (off v : Word) (s : State) : Out := .next (writeReg o off.toNat v s)

/-- RC_READ (R5, R7): the value read, and the RC fields cleared. -/
def execRcRead (o : Origin) (off : Word) (s : State) : Out :=
  let r := busRead o off.toNat s
  .next { r.2 with busData := r.1 }

/-- MT_NOW_LO_READ (R250). -/
def execMtNowLoRead (f : Fn) (s : State) : Out :=
  let r := busRead (.host f) (regOff .MT_NOW_LO 0 0) s
  .next { r.2 with busData := r.1 }

/-- STORE_ROOM_LOCK (R185, R428). -/
def execStoreRoomLock (o : Origin) (s : State) : Out := .next (writeReg o (regOff .STR_CFG 0 0) (wd (2 ^ 31)) s)

/-- TLY_RING_TAIL_WRITE (R41). -/
def execTlyRingTailWrite (o : Origin) (k : Slot) (tail : Imm16) (s : State) : Out :=
  .next (writeReg o (regOff .RPR_TLY_RING k.val 0) (wd (tail.toNat * 2 ^ 16)) s)

/-- SLOT_ENTRY_WRITE (R258): the first or the second word of an entry. -/
def execSlotEntryWrite (o : Origin) (p : PortId) (e : Fin 64) (second : Bool) (v : Word) (s : State) : Out :=
  .next (writeReg o (regOff (if second then .SLOT_ENT_B else .SLOT_ENT_A) p.val e.val) v s)

/-- SVC_MARK_WRITE (R296). -/
def execSvcMarkWrite (o : Origin) (p : PortId) (mark : Bool) (s : State) : Out :=
  .next (writeReg o (regOff .LNK_HP p.val 0) (wd (b2n mark * 2 ^ 31)) s)

/-- FI_ARM (R299): `FI_CTRL` written with `ARM`. -/
def execFiArm (o : Origin) (p : PortId) (v : Word) (s : State) : Out :=
  .next (writeReg o (regOff .FI_CTRL p.val 0) (v ||| wd (2 ^ 31)) s)

/-- CLK_DOM_WRITE (R445 to R447). -/
def execClkDomWrite (o : Origin) (n : Fin 79) (v : Word) (s : State) : Out := .next (writeReg o (regOff .CLK_DOM n.val 0) v s)

/-- SMB_RETRY (R466, R470): `SB_CTRL.SMB_RETRY` written, `ALERT_MCTP` as it stands. -/
def execSmbRetry (o : Origin) (s : State) : Out :=
  .next (writeReg o (regOff .SB_CTRL 0 0) (wd (2 ^ 31 + fget s F.SB_CTRL.ALERT_MCTP * 2 ^ 30)) s)

/-- ALERT_MCTP (R466, R470). -/
def execAlertMctp (o : Origin) (on : Bool) (s : State) : Out :=
  .next (writeReg o (regOff .SB_CTRL 0 0) (wd (b2n on * 2 ^ 30)) s)

/-! ## Function pages (R409 to R415) -/

/-- MB_IN_WRITE (R410). -/
def execMbInWrite (f : Fn) (i : Fin 16) (v : Word) (s : State) : Out :=
  .next (writeReg (.host f) (regOff .MB_IN f.val i.val) v s)

/-- MB_GO (R409): `MB_CTRL` written with `GO`. -/
def execMbGo (f : Fn) (v : Word) (s : State) : Out :=
  .next (writeReg (.host f) (regOff .MB_CTRL f.val 0) (v ||| wd (2 ^ 31)) s)

/-- MB_OSTAT_ACK (R411): `MB_OSTAT` written with `ACK`. -/
def execMbOstatAck (f : Fn) (v : Word) (s : State) : Out :=
  .next (writeReg (.host f) (regOff .MB_OSTAT f.val 0) (v ||| wd (2 ^ 30)) s)

/-- RING_SQ_DOORBELL (R413, R415, R401). -/
def execRingSqDoorbell (f : Fn) (r : Fin 4) (v : Word) (s : State) : Out :=
  .next (writeReg (.host f) (regOff .RING_SQ_DB f.val r.val) v s)

/-- RING_CQ_DOORBELL (R413). -/
def execRingCqDoorbell (f : Fn) (r : Fin 4) (v : Word) (s : State) : Out :=
  .next (writeReg (.host f) (regOff .RING_CQ_DB f.val r.val) v s)

/-- RING_ENABLE (R415, R437): `RING_CFG` written. -/
def execRingEnable (f : Fn) (r : Fin 4) (v : Word) (s : State) : Out :=
  .next (writeReg (.host f) (regOff .RING_CFG f.val r.val) v s)

/-! ## Function resets (R408, R436) -/

/-- Every ring of a function disabled. -/
def ringsOff (f : Nat) (s : State) : State := (List.range 4).foldl (fun a r => ruleSet 0 F.RING_CFG.EN f r 0 a) s

/-- The replies of taken commands that `p` names are to be discarded; those that wait only for room are gone. -/
def muteTaken (p : Taken → Bool) (s : State) : State :=
  modMgmt (fun m => { m with taken := (m.taken.filter (fun t => !(p t && t.final.isSome && t.waits.isEmpty))).map (fun t =>
    if p t then { t with mute := true } else t) }) s

/-- The registers of a function page at their reset values (R437). -/
def resetPage (f : Nat) (s : State) : State :=
  let s1 := (List.range 16).foldl (fun a i => rset .MB_OUT f i 0 (rset .MB_IN f i 0 a)) s
  let s2 := [Reg.MB_CTRL, .MB_STAT, .MB_OSTAT, .FN_STAT].foldl (fun a r => rset r f 0 (regReset r f) a) s1
  (List.range 4).foldl (fun a j =>
    [Reg.RING_SQ_LO, .RING_SQ_HI, .RING_CQ_LO, .RING_CQ_HI, .RING_CFG, .RING_SQ_DB, .RING_CQ_DB, .RING_STAT].foldl
      (fun b r => rset r f j (regReset r f) b) a) s2

/-- A stow of slot `k` that has not completed taken back, with the bind that waits for it. -/
def cancelStow (k : Nat) (s : State) : Option (CmdSrc × Packet) × State :=
  match s.mgmt.stows.find? (fun w => w.1 == k) with
  | none => (none, s)
  | some w => (w.2, fset F.CTX_STAT.STATE k 0 1 (modMgmt (fun m => { m with stows := m.stows.filter (fun v => v.1 != k) }) s))

/-- A bound context unbound without a command: one that a command already unbinds goes on with nobody to answer. -/
def flrBound (k : Nat) (s : State) : State :=
  let c := cancelStow k s
  let s1 := match c.2.mgmt.unbinding.find? (fun u => u.1 == k) with
    | some (_, some (src, tag)) =>
      modMgmt (fun m => { m with unbinding := m.unbinding.map (fun u => if u.1 = k then (k, none) else u) }) (dropTaken src tag c.2)
    | some (_, none) => c.2
    | none => startUnbind k none c.2
  match c.1 with
  | some (src, pk) => serveAgain src pk.tag s1
  | none => s1

/-- A stowed context released where it lies: its granules are no longer stowed and are to be zero-filled. -/
def flrStowed (e : Stowed) (s : State) : State :=
  let k := stowTag e.entry
  match ctxOf s k with
  | none => s
  | some x =>
    let s1 := x.granules.foldl (fun a g => rset .MEM_GSTOW g 0 0 a) s
    releaseSlot id k { s1 with stowed := s1.stowed.filter (fun w => w.entry != e.entry) }

/-- The contexts of a function unbound. -/
def flrCtxs (f : Nat) (s : State) : State :=
  let s1 := (s.stowed.filter (fun e => ownerOf s (stowTag e.entry) == f)).foldl (fun a e => flrStowed e a) s
  let mine := (s1.ctxs.filter (fun (e : Nat × Ctx) => e.1 < 64 && ownerOf s1 e.1 == f)).map (fun (e : Nat × Ctx) => e.1)
  mine.foldl (fun a k => flrBound k a) s1

/-- FLR (R408, R436): rings off, mailboxes emptied, replies discarded, every context of the function halted and unbound;
`FLR_BUSY` while an unbinding goes on. -/
def execFlr (f : Fn) (s : State) : Out :=
  let mine := fun (t : Taken) => !isMctp t.src && srcFn t.src == f.val
  let s1 := resetPage f.val (ringsOff f.val (muteTaken mine s))
  let s2 := finishFlr (flrCtxs f.val s1)
  .next (if flrBusy s2 f.val then fset F.FN_STAT.FLR_BUSY f.val 0 1 s2 else s2)

/-- PCIE_HOT_RESET (R408): the rings of every function off, replies of its commands discarded, nothing unbound. -/
def execPcieHotReset (s : State) : Out :=
  .next ((List.range 65).foldl (fun a f => ringsOff f a) (muteTaken (fun t => !isMctp t.src) s))

/-! ## The test port (R435) -/

/-- The bits of a number, least significant first. -/
def lsbBits (n w : Nat) : List Bool := (List.range w).map (fun i => bitAt n i)

/-- An instruction selected at the test port, with the bits its data register shifts out and what the pins then show. -/
def tapSelect (ir : Byte) (out : List Bool) (pins : Option (List Bool)) (s : State) : State :=
  modPlat (fun p => { p with tapIr := ir, tdo := out, tapPins := pins }) s

/-- JTAG_IDCODE. -/
def execJtagIdcode (s : State) : Out := .next (tapSelect 0x01 (lsbBits 0x25358569 32) none s)

/-- The boundary scan sampled; what the pins show is open (log entry 6). -/
def sampleScan (ir : Byte) (scan : List Bool) (pins : Option (List Bool)) (s : State) : State :=
  let s1 := tapSelect ir (Config.boundarySample s.free) pins { s with free := s.free + 1 }
  modPlat (fun p => { p with scan := scan }) s1

/-- JTAG_SAMPLE_PRELOAD: the scan register takes `scan`. -/
def execJtagSamplePreload (scan : List Bool) (s : State) : Out := .next (sampleScan 0x02 scan none s)

/-- JTAG_EXTEST: the pins are driven from the scan register. -/
def execJtagExtest (scan : List Bool) (s : State) : Out := .next (sampleScan 0x03 scan (some scan) s)

/-- JTAG_CLAMP: the outputs stay as the scan register has them. -/
def execJtagClamp (s : State) : Out := .next (tapSelect 0x04 [false] (some s.plat.scan) s)

/-- JTAG_HIGHZ: the outputs float. -/
def execJtagHighz (s : State) : Out := .next (tapSelect 0x05 [false] (some []) s)

/-- JTAG_BYPASS. -/
def execJtagBypass (s : State) : Out := .next (tapSelect 0xFF [false] none s)

/-- JTAG_TEST_LOGIC_RESET: IDCODE is selected. -/
def execJtagTestLogicReset (s : State) : Out := .next (tapSelect 0x01 [] none s)

/-- A read or a write by the test port at a BAR0 offset: the data, whether it was refused, the state after it. -/
def tapAccess (write : Bool) (off : Nat) (v : Word) (s : State) : Word × Bool × State :=
  if write then
    let out := busWrite .testPort off v s
    (v, out.1 != stOk, afterRingWrite off out.2)
  else
    let out := busRead .testPort off s
    (out.1, false, out.2)

/-- JTAG_REGACC: the register captured on the way in shows the previous access; this one runs at Update-DR. -/
def execJtagRegacc (dr : BitVec 66) (s : State) : Out :=
  let old := s.plat.tapDr.toNat % 2 ^ 65 + b2n s.plat.tapStatus * 2 ^ 65
  let r := tapAccess (bitAt dr.toNat 64) (bitsOf dr.toNat 63 32) (wd (bitsOf dr.toNat 31 0)) (tapSelect 0x20 (lsbBits old 66) none s)
  .next (modPlat (fun p => { p with
    tapStatus := r.2.1, tapDr := BitVec.ofNat 66 (dr.toNat % 2 ^ 65 / 2 ^ 32 * 2 ^ 32 + r.1.toNat) }) r.2.2)

end Sys2Proof.Machine
end

