-- ==== Sys2Proof/Machine/Mgmt.lean ====
section
/-! DEFINITION. The management sets, load shedding, the log mirror and the MCTP endpoint (R426, R427, R432, R434). -/

namespace Sys2Proof.Machine

/-! ## The management sets (R427) -/

/-- Whether a management set runs firmware. -/
def firmwareRuns (s : State) : Bool :=
  fbit s F.GBL_EDITION.VALID && !fbit s F.MGMT_STAT.DEAD && fget s F.PWR_STAT.STATE != 2

/-- HEARTBEAT_TICK. -/
def execHeartbeatTick (s : State) : Out :=
  if firmwareRuns s then .next (fset F.MGMT_STAT.HB_AGE 0 0 0 (fset F.MGMT_HB.COUNT 0 0 (fget s F.MGMT_HB.COUNT + 1) s))
  else .next s

/-- A taken command that firmware would have completed answered NOT_READY by the responder. -/
def deadTaken (s : State) (t : Taken) : State :=
  let keep := fun (u : Taken) (a : State) => modMgmt (fun m => { m with taken := m.taken ++ [u] }) a
  if t.pk.opcode.toNat = opPost then keep t s
  else if t.mute then s
  else if replyRoom s t.src then writeReply t.src t.pk stNotReady true t.failedOver [] s
  else keep { t with final := some (stNotReady, []), waits := [] } s

/-- Both sets are lost: DEAD, ALERT_N, a management entry; the responder answers what was taken. -/
def managementLost (s : State) : State :=
  let ts := s.mgmt.taken
  let s1 := modMgmt (fun m => { m with taken := [], stalled := [], stows := m.stows.map (fun w => (w.1, none)), mctpBusy := false }) s
  logMgmt (.rule 0) (alert 4 (fset F.MGMT_STAT.STANDBY_OK 0 0 0 (fset F.MGMT_STAT.DEAD 0 0 1 (ts.foldl deadTaken s1))))

/-- MGMT_WATCHDOG_FAILOVER: 100 ms without a heartbeat of the D0 set; the standby set takes over, and where there is none both
sets are lost. The spec gives the records of the change no cause, so that byte is open. -/
def execMgmtWatchdogFailover (s : State) : Out :=
  if !firmwareRuns s || fbit s F.MGMT_STAT.ACTIVE_SET then .next s
  else if fbit s F.MGMT_STAT.STANDBY_OK then
    let (w, s0) := drawFree s
    .next (failover (w.toNat % 256) s0)
  else .next (managementLost s)

/-- STANDBY_DEAD: 100 ms without a heartbeat of the standby set that took over. -/
def execStandbyDead (s : State) : Out :=
  if firmwareRuns s && fbit s F.MGMT_STAT.ACTIVE_SET then .next (managementLost s) else .next s

/-! ## Shedding (R426) -/

/-- The level after a period of 10 ms, and the periods in a row below 70 %. -/
def shedNext (level low busy : Nat) : Nat × Nat :=
  if 90 ≤ busy then (min 3 (level + 1), 0)
  else if 70 ≤ busy then (level, 0)
  else if 9 ≤ low then (level - 1, 0)
  else (level, low + 1)

/-- SHED_LEVEL_EVAL: the busy share of the last 10 ms. -/
def execShedLevelEval (busy : BitVec 7) (s : State) : Out :=
  if !firmwareRuns s then .next s
  else
    let b := min 100 busy.toNat
    let n := shedNext (fget s F.MGMT_LOAD.SHED) s.mgmt.shedLow b
    .next (modMgmt (fun m => { m with shedLow := n.2 }) (fset F.MGMT_LOAD.SHED 0 0 n.1 (fset F.MGMT_LOAD.BUSY_PCT 0 0 b s)))

/-! ## The log mirror (R432) -/

/-- The oldest buffered entry copied to the mirror, if it is enabled and not full. -/
def mirrorOne (s : State) : State :=
  let h := fget s F.LOG_HEAD.INDEX
  if !fbit s F.LOG_CFG.EN || (h + 1) % 2 ^ 20 = fget s F.LOG_TAIL.INDEX then s
  else match s.logBuf with
    | [] => s
    | e :: rest =>
      fset F.LOG_HEAD.INDEX 0 0 ((h + 1) % 2 ^ 20)
        (devWrite (fget s F.LOG_CFG.BASE * 2 ^ 26 + 64 * h) (logBytes e) false { s with logBuf := rest })

/-- LOG_MIRROR_COPY: the buffered entries in sequence order. -/
def execLogMirrorCopy (s : State) : Out := .next (s.logBuf.foldl (fun a _ => mirrorOne a) s)

/-! ## The MCTP endpoint (R434) -/

/-- A message of the endpoint. -/
def sendMctp (eid : Byte) (bs : List Byte) (s : State) : State :=
  modMgmt (fun m => { m with mctpOut := m.mctpOut ++ [⟨eid, bs⟩] }) s

/-- The vendor-defined message that carries a reply with no results. -/
def mctpStatus (pk : Packet) (status : Nat) : List Byte := [0x7E#8, 0x0B#8, 0x5A#8] ++ replyBytes status pk 4 0xFF []

/-- MCTP_REQUEST: one command outstanding; a port that has been disabled hears nothing. -/
def execMctpRequest (eid : Byte) (pk : Packet) (s : State) : Out :=
  if fbit s F.SB_STAT.SMB_OFF || fget s F.PWR_STAT.STATE = 2 then .next s
  else if s.mgmt.mctpBusy then .next (sendMctp eid (mctpStatus pk stBusy) s)
  else if !mgmtUp s then .next (sendMctp eid (mctpStatus pk stNotReady) s)
  else .next (serve (Taken.fresh (.mctp eid) pk) (modMgmt (fun m => { m with mctpBusy := true }) s))

/-- The completion code and data of a control message, with the state after it. The codes and layouts are DSP0236's, not this
spec's (log entry 26). -/
def mctpControl (eid cmd : Byte) (data : List Byte) (s : State) : Nat × List Byte × State :=
  let b := byteAt data
  match cmd.toNat with
  | 0x01 =>
    if data.length != 2 then (3, [], s)
    else if 2 ≤ b 0 % 4 || b 1 < 8 || b 1 = 0xFF then (2, [], s)
    else (0, [0x00, by8 (b 1), 0x00], modMgmt (fun m => { m with busOwner := eid }) (fset F.MGMT_STAT.MCTP_EID 0 0 (b 1) s))
  | 0x02 => if data.length != 0 then (3, [], s) else (0, [by8 (fget s F.MGMT_STAT.MCTP_EID), 0x00, 0x00], s)
  | 0x03 => if data.length != 0 then (3, [], s) else (0, (List.range 16).map Config.endpointUuid, s)
  | 0x04 =>
    if data.length != 1 then (3, [], s)
    else if b 0 = 0xFF || b 0 = 0x00 then (0, [0x01, 0xF1, 0xF3, 0xFF, 0x00], s)
    else (0x80, [], s)
  | 0x05 => if data.length != 0 then (3, [], s) else (0, [0x01, 0x7E], s)
  | 0x06 =>
    if data.length != 1 then (3, [], s)
    else if b 0 != 0 then (2, [], s)
    else (0, [0xFF, 0x00, 0x0B, 0x5A, by8 (Config.vendorCommandSet.toNat / 256), by8 (Config.vendorCommandSet.toNat % 256)], s)
  | _ => (5, [], s)

/-- MCTP_CONTROL_MESSAGE: answered to the endpoint it came from. -/
def execMctpControlMessage (eid cmd : Byte) (data : List Byte) (s : State) : Out :=
  if fbit s F.SB_STAT.SMB_OFF then .next s
  else
    let r := mctpControl eid cmd data s
    .next (sendMctp eid ([0x00#8, 0x00#8, cmd, by8 r.1] ++ r.2.1) r.2.2)

end Sys2Proof.Machine
end

