-- ==== Sys2Proof/Machine/Move.lean ====
section
/-! DEFINITION. The move slot (R74): each command issues a bundle whose other slots are empty. -/

namespace Sys2Proof.Machine

/-- LDV (R74). -/
def execLdv (c : CoreId) (grp : BitVec 3) (vr : VReg) (lfmt : BitVec 3) (xb : XReg) (off : Byte) (s : State) : Out :=
  if movBad { Mov.none with op := .ldv, xb := xb.toNat, off := off.toNat, grp := grp.toNat, reg := vr.toNat, lfmt := lfmt.toNat } != 0 then .refused .reservedForm else .next
    (issue c.val { Bundle.none with mov := { Mov.none with op := .ldv, xb := xb.toNat, off := off.toNat, grp := grp.toNat, reg := vr.toNat, lfmt := lfmt.toNat } } s)

/-- STV (R74). -/
def execStv (c : CoreId) (grp : BitVec 3) (vr : VReg) (lfmt : BitVec 3) (xb : XReg) (off : Byte) (s : State) : Out :=
  if movBad { Mov.none with op := .stv, xb := xb.toNat, off := off.toNat, grp := grp.toNat, reg := vr.toNat, lfmt := lfmt.toNat } != 0 then .refused .reservedForm else .next
    (issue c.val { Bundle.none with mov := { Mov.none with op := .stv, xb := xb.toNat, off := off.toNat, grp := grp.toNat, reg := vr.toNat, lfmt := lfmt.toNat } } s)

/-- LDX (R74). -/
def execLdx (c : CoreId) (xr : XReg) (xb : XReg) (off : Byte) (s : State) : Out :=
  .next
    (issue c.val { Bundle.none with mov := { Mov.none with op := .ldx, xb := xb.toNat, off := off.toNat, reg := xr.toNat } } s)

/-- STX (R74). -/
def execStx (c : CoreId) (xr : XReg) (xb : XReg) (off : Byte) (s : State) : Out :=
  .next
    (issue c.val { Bundle.none with mov := { Mov.none with op := .stx, xb := xb.toNat, off := off.toNat, reg := xr.toNat } } s)

/-- MDL (R77). -/
def execMdl (c : CoreId) (md : BitVec 5) (xb : XReg) (off : Byte) (s : State) : Out :=
  if movBad { Mov.none with op := .mdl, xb := xb.toNat, off := off.toNat, reg := md.toNat } != 0 then .refused .reservedForm else .next
    (issue c.val { Bundle.none with mov := { Mov.none with op := .mdl, xb := xb.toNat, off := off.toNat, reg := md.toNat } } s)

/-- TMV (R141). -/
def execTmv (c : CoreId) (as : ArrSlot) (xb : XReg) (off : Byte) (s : State) : Out :=
  .next
    (issue c.val { Bundle.none with mov := { Mov.none with op := .tmv, xb := xb.toNat, off := off.toNat, reg := as.toNat } } s)

/-- FILL (R139). -/
def execFill (c : CoreId) (as : ArrSlot) (xb : XReg) (off : Byte) (s : State) : Out :=
  .next
    (issue c.val { Bundle.none with mov := { Mov.none with op := .fill, xb := xb.toNat, off := off.toNat, reg := as.toNat } } s)

/-- SCOPY (R140). -/
def execScopy (c : CoreId) (as : ArrSlot) (xb : XReg) (off : Byte) (s : State) : Out :=
  .next
    (issue c.val { Bundle.none with mov := { Mov.none with op := .scopy, xb := xb.toNat, off := off.toNat, reg := as.toNat } } s)

/-- MSG (R169). -/
def execMsg (c : CoreId) (as : ArrSlot) (xb : XReg) (off : Byte) (s : State) : Out :=
  .next
    (issue c.val { Bundle.none with mov := { Mov.none with op := .msg, xb := xb.toNat, off := off.toNat, reg := as.toNat } } s)

/-- COLL (R321). -/
def execColl (c : CoreId) (as : ArrSlot) (xb : XReg) (off : Byte) (s : State) : Out :=
  .next
    (issue c.val { Bundle.none with mov := { Mov.none with op := .coll, xb := xb.toNat, off := off.toNat, reg := as.toNat } } s)

/-- RECV (R170). -/
def execRecv (c : CoreId) (as : ArrSlot) (xb : XReg) (off : Byte) (s : State) : Out :=
  .next
    (issue c.val { Bundle.none with mov := { Mov.none with op := .recv, xb := xb.toNat, off := off.toNat, reg := as.toNat } } s)

end Sys2Proof.Machine
end

