-- ==== Sys2Proof/Machine/Scalar.lean ====
section
/-! DEFINITION. The control slot (R71, R72): each command issues a bundle whose other slots are empty. -/

namespace Sys2Proof.Machine

/-- ADD (R71). -/
def execAdd (c : CoreId) (xd xa xb : XReg) (s : State) : Out :=
  .next (issue c.val { Bundle.none with ctl := .alu .add xd.toNat xa.toNat xb.toNat } s)

/-- SUB (R71). -/
def execSub (c : CoreId) (xd xa xb : XReg) (s : State) : Out :=
  .next (issue c.val { Bundle.none with ctl := .alu .sub xd.toNat xa.toNat xb.toNat } s)

/-- AND (R71). -/
def execAndOp (c : CoreId) (xd xa xb : XReg) (s : State) : Out :=
  .next (issue c.val { Bundle.none with ctl := .alu .and xd.toNat xa.toNat xb.toNat } s)

/-- OR (R71). -/
def execOrOp (c : CoreId) (xd xa xb : XReg) (s : State) : Out :=
  .next (issue c.val { Bundle.none with ctl := .alu .or xd.toNat xa.toNat xb.toNat } s)

/-- XOR (R71). -/
def execXorOp (c : CoreId) (xd xa xb : XReg) (s : State) : Out :=
  .next (issue c.val { Bundle.none with ctl := .alu .xor xd.toNat xa.toNat xb.toNat } s)

/-- SHL (R71). -/
def execShl (c : CoreId) (xd xa xb : XReg) (s : State) : Out :=
  .next (issue c.val { Bundle.none with ctl := .alu .shl xd.toNat xa.toNat xb.toNat } s)

/-- SHR (R71). -/
def execShr (c : CoreId) (xd xa xb : XReg) (s : State) : Out :=
  .next (issue c.val { Bundle.none with ctl := .alu .shr xd.toNat xa.toNat xb.toNat } s)

/-- SRA (R71). -/
def execSra (c : CoreId) (xd xa xb : XReg) (s : State) : Out :=
  .next (issue c.val { Bundle.none with ctl := .alu .sra xd.toNat xa.toNat xb.toNat } s)

/-- MUL (R71). -/
def execMul (c : CoreId) (xd xa xb : XReg) (s : State) : Out :=
  .next (issue c.val { Bundle.none with ctl := .alu .mul xd.toNat xa.toNat xb.toNat } s)

/-- CMPLT (R71). -/
def execCmplt (c : CoreId) (xd xa xb : XReg) (s : State) : Out :=
  .next (issue c.val { Bundle.none with ctl := .alu .cmplt xd.toNat xa.toNat xb.toNat } s)

/-- CMPLTU (R71). -/
def execCmpltu (c : CoreId) (xd xa xb : XReg) (s : State) : Out :=
  .next (issue c.val { Bundle.none with ctl := .alu .cmpltu xd.toNat xa.toNat xb.toNat } s)

/-- CMPEQ (R71). -/
def execCmpeq (c : CoreId) (xd xa xb : XReg) (s : State) : Out :=
  .next (issue c.val { Bundle.none with ctl := .alu .cmpeq xd.toNat xa.toNat xb.toNat } s)

/-- ADDI (R71). -/
def execAddi (c : CoreId) (xd xa : XReg) (imm : Imm16) (s : State) : Out :=
  .next (issue c.val { Bundle.none with ctl := .addi xd.toNat xa.toNat imm.toNat } s)

/-- SHLI (R71). -/
def execShli (c : CoreId) (xd xa : XReg) (imm : Imm16) (s : State) : Out :=
  .next (issue c.val { Bundle.none with ctl := .shli xd.toNat xa.toNat imm.toNat } s)

/-- LIH (R71). -/
def execLih (c : CoreId) (xd xa : XReg) (imm : Imm16) (s : State) : Out :=
  .next (issue c.val { Bundle.none with ctl := .lih xd.toNat xa.toNat imm.toNat } s)

/-- LI (R71). -/
def execLi (c : CoreId) (xd : XReg) (imm : Imm16) (s : State) : Out :=
  .next (issue c.val { Bundle.none with ctl := .li xd.toNat imm.toNat } s)

/-- BR (R72). -/
def execBr (c : CoreId) (off : Off21) (s : State) : Out :=
  .next (issue c.val { Bundle.none with ctl := .br off.toInt } s)

/-- BZ (R72). -/
def execBz (c : CoreId) (xa : XReg) (off : Off21) (s : State) : Out :=
  .next (issue c.val { Bundle.none with ctl := .bz xa.toNat off.toInt } s)

/-- BNZ (R72). -/
def execBnz (c : CoreId) (xa : XReg) (off : Off21) (s : State) : Out :=
  .next (issue c.val { Bundle.none with ctl := .bnz xa.toNat off.toInt } s)

/-- LOOP (R71). -/
def execLoopOp (c : CoreId) (xa : XReg) (off : Off21) (s : State) : Out :=
  if ctlBad (.loop xa.toNat off.toInt) != 0 then .refused .reservedForm else .next
    (issue c.val { Bundle.none with ctl := .loop xa.toNat off.toInt } s)

/-- WAIT (R80). -/
def execWaitOp (c : CoreId) (half : Bool) (mask : Imm16) (s : State) : Out :=
  .next (issue c.val { Bundle.none with ctl := .wait half mask.toNat } s)

/-- FENCE (R476). -/
def execFence (c : CoreId) (imm : Imm16) (s : State) : Out :=
  if ctlBad (.fence imm.toNat) != 0 then .refused .reservedForm else .next
    (issue c.val { Bundle.none with ctl := .fence imm.toNat } s)

/-- MARK (R83). -/
def execMarkOp (c : CoreId) (s : State) : Out :=
  .next (issue c.val { Bundle.none with ctl := .mark } s)

/-- END (R158). -/
def execEndTask (c : CoreId) (s : State) : Out :=
  .next (issue c.val { Bundle.none with ctl := .fin } s)

/-- SPAWN (R160). -/
def execSpawn (c : CoreId) (xa : XReg) (imm : Imm16) (s : State) : Out :=
  if ctlBad (.spawn xa.toNat imm.toNat) != 0 then .refused .reservedForm else .next
    (issue c.val { Bundle.none with ctl := .spawn xa.toNat imm.toNat } s)

/-- LIDX (R71). -/
def execLidx (c : CoreId) (xd : XReg) (imm : Imm16) (s : State) : Out :=
  .next (issue c.val { Bundle.none with ctl := .lidx xd.toNat imm.toNat } s)

/-- RDCNT (R176). -/
def execRdcnt (c : CoreId) (xd : XReg) (s : State) : Out :=
  .next (issue c.val { Bundle.none with ctl := .rdcnt xd.toNat } s)

/-- RDOBS (R171). -/
def execRdobs (c : CoreId) (xd : XReg) (imm : Imm16) (s : State) : Out :=
  if ctlBad (.rdobs xd.toNat imm.toNat) != 0 then .refused .reservedForm else .next
    (issue c.val { Bundle.none with ctl := .rdobs xd.toNat imm.toNat } s)

/-- RDPAR (R155). -/
def execRdpar (c : CoreId) (xd : XReg) (imm : Imm16) (s : State) : Out :=
  .next (issue c.val { Bundle.none with ctl := .rdpar xd.toNat imm.toNat } s)

end Sys2Proof.Machine
end

