-- ==== Sys2Proof/Machine/Startup.lean ====
section
/-! DEFINITION. Start-up, resets of the whole device, and the sideband pins (R444, R456 to R459, R462, R466, R467, R470). -/

namespace Sys2Proof.Machine

/-! ## Cold start (R248, R456, R459, R462) -/

/-- What lies outside the device or in its nonvolatile store, taken over into a machine that starts: waiting commands, host
memory, vectors raised, the bus, the wear record. -/
def keepOutside (s t : State) : State :=
  { t with pending := s.pending, free := s.free, busData := s.busData, host := s.host, hostPoison := s.hostPoison,
           msix := s.msix, wear := s.wear, wearFullSent := s.wearFullSent }

/-- COLD_START: VDD_ATTIC comes up; the straps are read. -/
def execColdStart (straps : BitVec 2) (s : State) : Out :=
  .next (fset F.SB_STAT.SMB_ADDR 0 0 straps.toNat (keepOutside s State.reset))

/-- Registers of the attic, whose values hold until VDD_ATTIC powers up (R459, R460, R470), and those of machine time. -/
def atticRegs : List Reg := [.CLK_SOSC, .ATTIC_STAT, .ATTIC_WAKE, .SB_STAT, .SB_CTRL, .MT_STAT, .MT_ERR]

/-- The device as it stands before phase 4 of a cold start that keeps the attic: attic registers, READY bits, cable presence,
machine time, monitors, pins. -/
def restart (phase : Nat) (s : State) : State :=
  let t0 := keepOutside s State.reset
  let t1 := atticRegs.foldl (fun a r => rset r 0 0 (rget s r) a) t0
  let t2 := [F.CLK_SRC_STAT.READY_A, F.CLK_SRC_STAT.READY_B, F.CLK_SRC_STAT.READY_S].foldl (fun a f => fset f 0 0 (fget s f) a) t1
  let t3 := (List.range 36).foldl (fun a p => fset F.LNK_HP.PRESENT p 0 (fget s F.LNK_HP.PRESENT p) a) t2
  let time : TimeUnit := { s.time with copies := [], copySlew := [], hiLatch := [], slotNext := [], offCtxs := [] }
  let plat : Plat := { s.plat with
    relock := [], throttleOk := [], throttleStart := [], wake := false, auth := none, parkedExit := false, resetCause := [] }
  fset F.BOOT_STAT.PHASE 0 0 phase { t3 with time := time, plat := plat }

/-- PERST_ASSERT (R459): a device that has come so far starts again from phase 4; in Attic-only it stays there. -/
def execPerstAssert (s : State) : Out :=
  let on := fun (t : State) => modPlat (fun p => { p with perst := true }) t
  if s.plat.perst || fget s F.PWR_STAT.STATE = 2 || fget s F.BOOT_STAT.PHASE < 4 then .next (on s)
  else .next (reselect (on (restart 4 s)))

/-- PERST_RELEASE (R456): reset release may begin; in Attic-only it begins a boot, whose first lock steps machine time again
(R248, R254, R455). -/
def execPerstRelease (s : State) : Out :=
  let t := if fget s F.PWR_STAT.STATE = 2 then modTime (fun x => { x with everLocked := false, lockRun := 0 }) (reselect (restart 2 s)) else s
  .next (modPlat (fun p => { p with perst := false, wake := false }) t)

/-- SOSC_READY_TIMEOUT (R456): phase 1 has lasted 5 ms. -/
def execSoscReadyTimeout (s : State) : Out :=
  if fget s F.BOOT_STAT.PHASE = 1 && !srcReady s 2 then .next (alert 1 s) else .next s

/-! ## Firmware (R4, R457) -/

/-- FIRMWARE_AUTH_DONE: the identity registers written once per boot, or the failure shown. -/
def execFirmwareAuthDone (a : AuthResult) (s : State) : Out :=
  if fget s F.BOOT_STAT.PHASE != 5 || s.plat.auth.isSome then .next s
  else
    let s1 := modPlat (fun p => { p with auth := some a }) s
    if a.primaryOk || a.secondaryOk then
      let s2 := rset .GBL_EDITION 0 0 (wd (2 ^ 31 + a.edition.toNat)) (rset .GBL_FWBUILD 0 0 a.build (rset .GBL_FWVER 0 0 a.version s1))
      .next (logMgmt (.firmware 0) (fset F.MGMT_STAT.STANDBY_OK 0 0 (b2n a.standbyOk)
        (fset F.BOOT_STAT.IMAGE 0 0 (b2n (!a.primaryOk)) s2)))
    else .next (alert 5 (fset F.BOOT_STAT.FAIL 0 0 1 s1))

/-! ## Phases (R456) -/

/-- Every rail of R463. -/
def allRails : List Rail :=
  (List.range 8).flatMap (fun d => [.core (Fin.ofNat 8 d), .uncore (Fin.ofNat 8 d)]) ++
    [.base, .vddqMem, .vppMem, .ser, .serA, .pcie, .attic]

/-- The references of every domain set and locked (R444). -/
def lockDomains (s : State) : State :=
  let sel := if srcReady s 0 then 0 else 1
  (List.range 79).foldl (fun a n =>
    let fb := if 40 ≤ n && n ≤ 76 then 1 - sel else 2
    let d := (domDie n).getD 0
    let b := ruleSet d F.CLK_DOM.FB n 0 fb (ruleSet d F.CLK_DOM.SEL n 0 sel a)
    let c := fset F.CLK_DSTAT.LOCK n 0 1 (fset F.CLK_DSTAT.HOLD n 0 0 (fset F.CLK_DSTAT.CUR n 0 sel b))
    if n < 8 then fset F.CLK_DSTAT.CUR_RATIO n 0 (effRatio c n) c else c) s

/-- Dies out of reset where nothing holds them; their copies take the keeper's time. -/
def diesOut (s : State) : State :=
  (List.range 8).foldl (fun a d => if dieMayLeave a d then fset F.DIE_PWR.STATE d 0 0 a else a)
    (modTime (fun t => { t with copies := [], copySlew := [] }) s)

/-- A register write by the start-up firmware. -/
def bootWrite (r : Reg) (i j v : Nat) (s : State) : State := (busWrite (.firmware 0) (regOff r i j) (wd v) s).2

/-- The disabled-unit map written (R389). -/
def writeUnitMap (b : BootInfo) (s : State) : State :=
  let word := fun (d w : Nat) => (List.range 32).foldl (fun a i =>
    if w * 32 + i < 272 && b.disabled.contains (272 * d + 32 * w + i) then a + 2 ^ i else a) 0
  let s1 := (List.range 72).foldl (fun a i => bootWrite .DUM_CORE (i / 9) (i % 9) (word (i / 9) (i % 9)) a) s
  let s2 := (List.range 16).foldl (fun a m => bootWrite .DUM_STACK m 0
    (b2n (b.pcSpared.any (fun x => x.1 == m)) * 2 ^ 31 + min 68 (b.engines.getD m 0) * 2 ^ 24) a) s1
  bootWrite .DUM_DEV 0 0 (min 264 b.banks * 2 ^ 23 + b2n b.standbyBad * 2 ^ 22 + b2n b.atticSingle * 2 ^ 21) s2

/-- Whether the map disables core `c`. -/
def mapDisables (s : State) (c : Nat) : Bool := bitAt (fget s F.DUM_CORE.DISABLED (dieOf c) (c % 272 / 32)) (c % 272 % 32)

/-- The lowest spare of a die that the map leaves and no place has taken. -/
def bootSpare (s : State) (d : Nat) : Option Nat :=
  (List.range 16).map (· + 272 * d + 256) |>.find? (fun c => !mapDisables s c && (mapFind s.seats c).isNone)

/-- A place of core group `c` filled at boot: by its own core, else by a spare of the die; a place that nothing fills is given
up. -/
def bootSeat (s : State) (c : Nat) : State :=
  if !mapDisables s c then setCstat F.CORE_STAT.STATE c 1 s
  else
    let d := dieOf c
    let s1 := setCstat F.CORE_STAT.STATE c 3 { s with seats := mapPut s.seats c 0xFF }
    match bootSpare s1 d with
    | none => s1
    | some k => setCstat F.CORE_STAT.STATE k 1 { s1 with seats := mapPut s1.seats k (16 * d + c % 272 / 16) }

/-- The cores of every die in their places. -/
def seatCores (s : State) : State :=
  let s1 := ((List.range 8).flatMap (fun d => (List.range 256).map (· + 272 * d))).foldl bootSeat { s with seats := [] }
  ((List.range 8).flatMap (fun d => (List.range 16).map (· + 272 * d + 256))).foldl (fun a c =>
    if mapDisables a c then setCstat F.CORE_STAT.STATE c 3 a else a) s1

/-- Units (phase 6): the map, the engines, banks and pseudo-channels it leaves, the cores in their places, `GBL_UNITS`. -/
def bootUnits (b : BootInfo) (s : State) : State :=
  let s1 := writeUnitMap b s
  let s2 := (List.range 16).foldl (fun a m =>
    modStack m (fun k => { k with engines := 68 - fget s1 F.DUM_STACK.ENG_DISABLED m }) a) s1
  let s3 := b.pcSpared.foldl (fun a x =>
    if x.1 < 16 then fset F.CEL_STAT.SPARE_PC_USED x.1 0 1 (fset F.CEL_STAT.SPARE_PC_FOR x.1 0 x.2 a) else a) s2
  let s4 := if fbit s3 F.DUM_DEV.STANDBY_BAD then fset F.MGMT_STAT.STANDBY_OK 0 0 0 s3 else s3
  fset F.GBL_UNITS.STACK_OK 0 0 (65535 - b.stacksLost.toNat)
    (updateUnits (seatCores { s4 with banks := 264 - fget s4 F.DUM_DEV.BANKS_DISABLED }))

/-- One store-room granule entry written by the start-up firmware, where R185 allows it. -/
def bootGranule (s : State) (x : Nat × Word) : State :=
  let v := wd ((x.2.toNat &&& mapMask) + 2 ^ 31)
  let old := rget s .MEM_GMAP x.1
  if 1024 ≤ x.1 || badEntry s x.1 v then s
  else logPush (logBase (.firmware 0) 0 0 (regOff .MEM_GMAP x.1 0) (dw old.toNat) (dw v.toNat)) (rset .MEM_GMAP x.1 0 v s)

/-- Platform (phase 8): node ID, store room and its lock, log mirror, platform lock. -/
def bootPlatform (b : BootInfo) (s : State) : State :=
  let s1 := b.storeGranules.foldl bootGranule (bootWrite .COL_NODE 0 0 b.nodeId.toNat s)
  let s2 := bootWrite .LOG_CFG 0 0 (2 ^ 31 + b.logBase.toNat) (bootWrite .STR_CFG 0 0 (2 ^ 31) s1)
  let old := rget s2 .LOCK_STAT
  let s3 := fset F.LOCK_STAT.PLATFORM 0 0 1 s2
  logRule (logBase (.firmware 0) 2 0 (regOff .LOCK_STAT 0 0) (dw old.toNat) (dw (rget s3 .LOCK_STAT).toNat)) s3

/-- The ports enter their states: TRAINING with a cable, NO_CABLE without. -/
def bootPorts (s : State) : State := (List.range 8).foldl (fun a d => diePorts d a) s

/-- The next phase begins. -/
def toPhase (n : Nat) (s : State) : State := fset F.BOOT_STAT.PHASE 0 0 n s

/-- STARTUP_PHASE_COMPLETE (R456): the phase in progress completes, where what the state shows of its condition holds. -/
def execStartupPhaseComplete (b : BootInfo) (s : State) : Out :=
  if fget s F.PWR_STAT.STATE = 2 then .next s else
  let go := fun (ok : Bool) (t : State) => if ok then Host.Outcome.next t else Host.Outcome.next s
  match fget s F.BOOT_STAT.PHASE with
  | 0 => .next (toPhase 1 s)
  | 1 => go (srcReady s 2) (toPhase 2 s)
  | 2 => go (allRails.all (fun r => s.plat.rails.contains r)) (toPhase 3 s)
  | 3 => go ((srcReady s 0 || srcReady s 1) && fbit s F.CLK_SOSC.TRIMMED) (toPhase 4 s)
  | 4 => go (!s.plat.perst && (srcReady s 0 || srcReady s 1)) (toPhase 5 (diesOut (lockDomains s)))
  | 5 => go (fbit s F.GBL_EDITION.VALID) (toPhase 6 s)
  | 6 => .next (toPhase 7 (bootUnits b s))
  | 7 => go (alignable s) (toPhase 8 (alignPulse s))
  | 8 => .next (bootPorts (toPhase 9 (bootPlatform b s)))
  | 9 => go ((List.range 36).all (fun p => portState s p != 2 || (portOf s p).attempts != 0)) (toPhase 10 s)
  | _ => .next s

/-! ## Sideband pins (R466, R467, R470) -/

/-- Whether the S8's own driver holds ALERT_N low. -/
def driverOn (s : State) : Bool := fbit s F.ATTIC_STAT.ALERT

/-- ALERT_STUCK_DETECT: low for over 1 s with the driver off. -/
def execAlertStuckDetect (s : State) : Out :=
  if driverOn s || fbit s F.SB_STAT.ALERT_IGNORED then .next s
  else .next (ruleSet 0 F.SB_STAT.ALERT_IGNORED 0 0 1 (ruleSet 0 F.SB_STAT.ALERT_STUCK 0 0 1 s))

/-- ALERT_RELEASE_HIGH: high for 10 ms. -/
def execAlertReleaseHigh (s : State) : Out := .next (ruleSet 0 F.SB_STAT.ALERT_IGNORED 0 0 0 s)

/-- TRAY_ALERT: a low of 1 ms to 1 s with the driver off. -/
def execTrayAlert (s : State) : Out :=
  if driverOn s || fbit s F.SB_STAT.ALERT_IGNORED then .next s else .next (fbump F.SB_STAT.FOREIGN 0 0 s)

/-- SMB_BUS_CLEAR: an attempt to clear the bus; the third that fails disables the port. -/
def execSmbBusClear (freed : Bool) (s : State) : Out :=
  if fbit s F.SB_STAT.SMB_OFF then .next s
  else if freed then .next (ruleSet 0 F.SB_STAT.SMB_TRIES 0 0 0 s)
  else
    let n := fget s F.SB_STAT.SMB_TRIES + 1
    let s1 := ruleSet 0 F.SB_STAT.SMB_TRIES 0 0 (min 3 n) s
    .next (if 3 ≤ n then ruleSet 0 F.SB_STAT.SMB_OFF 0 0 1 s1 else s1)

/-- SVC_BUTTON_STUCK: low for over 10 s. -/
def execSvcButtonStuck (s : State) : Out :=
  .next (ruleSet 0 F.SB_STAT.SVC_STUCK 0 0 1 (modPlat (fun p => { p with svcStuck := true }) s))

/-- PRESENCE_FLAP: presence keeps its last debounced value. -/
def execPresenceFlap (p : PortId) (s : State) : Out :=
  .next (ruleSet 0 F.SB_STAT.FLAP_PORT 0 0 p.val (ruleSet 0 F.SB_STAT.PRSNT_FLAP 0 0 1
    (modPlat (fun x => { x with flapping := mapPut x.flapping p.val true }) s)))

/-- PRESENCE_FLAP_END: 10 s without a change. -/
def execPresenceFlapEnd (p : PortId) (s : State) : Out :=
  .next (modPlat (fun x => { x with flapping := mapDel x.flapping p.val }) s)

end Sys2Proof.Machine
end

