-- ==== Sys2Proof/Machine/Vector.lean ====
section
/-! DEFINITION. The integer rows of the vector slot (R73): each command issues a bundle whose other slots are empty. -/

namespace Sys2Proof.Machine

/-- VMOV (R73). -/
def execVmov (c : CoreId) (g : LaneSel) (vd va : VReg) (s : State) : Out :=
  .next
    (issue c.val { Bundle.none with vec := { Vec.none with op := .vmov, grp := g.grp.toNat, mask := g.mask.toNat, vd := vd.toNat, va := va.toNat } } s)

/-- VAND (R73). -/
def execVand (c : CoreId) (g : LaneSel) (vd va vb : VReg) (s : State) : Out :=
  .next
    (issue c.val { Bundle.none with vec := { Vec.none with op := .vand, grp := g.grp.toNat, mask := g.mask.toNat, vd := vd.toNat, va := va.toNat, vb := vb.toNat } } s)

/-- VOR (R73). -/
def execVor (c : CoreId) (g : LaneSel) (vd va vb : VReg) (s : State) : Out :=
  .next
    (issue c.val { Bundle.none with vec := { Vec.none with op := .vor, grp := g.grp.toNat, mask := g.mask.toNat, vd := vd.toNat, va := va.toNat, vb := vb.toNat } } s)

/-- VXOR (R73). -/
def execVxor (c : CoreId) (g : LaneSel) (vd va vb : VReg) (s : State) : Out :=
  .next
    (issue c.val { Bundle.none with vec := { Vec.none with op := .vxor, grp := g.grp.toNat, mask := g.mask.toNat, vd := vd.toNat, va := va.toNat, vb := vb.toNat } } s)

/-- VIADD (R73). -/
def execViadd (c : CoreId) (g : LaneSel) (vd va vb : VReg) (s : State) : Out :=
  .next
    (issue c.val { Bundle.none with vec := { Vec.none with op := .viadd, grp := g.grp.toNat, mask := g.mask.toNat, vd := vd.toNat, va := va.toNat, vb := vb.toNat } } s)

/-- VISUB (R73). -/
def execVisub (c : CoreId) (g : LaneSel) (vd va vb : VReg) (s : State) : Out :=
  .next
    (issue c.val { Bundle.none with vec := { Vec.none with op := .visub, grp := g.grp.toNat, mask := g.mask.toNat, vd := vd.toNat, va := va.toNat, vb := vb.toNat } } s)

/-- VSHL (R73). -/
def execVshl (c : CoreId) (g : LaneSel) (vd va vb : VReg) (s : State) : Out :=
  .next
    (issue c.val { Bundle.none with vec := { Vec.none with op := .vshl, grp := g.grp.toNat, mask := g.mask.toNat, vd := vd.toNat, va := va.toNat, vb := vb.toNat } } s)

/-- VSHR (R73). -/
def execVshr (c : CoreId) (g : LaneSel) (vd va vb : VReg) (s : State) : Out :=
  .next
    (issue c.val { Bundle.none with vec := { Vec.none with op := .vshr, grp := g.grp.toNat, mask := g.mask.toNat, vd := vd.toNat, va := va.toNat, vb := vb.toNat } } s)

/-- VSEL (R73). -/
def execVsel (c : CoreId) (g : LaneSel) (vd va vb : VReg) (k : BitVec 3) (s : State) : Out :=
  .next
    (issue c.val { Bundle.none with vec := { Vec.none with op := .vsel, grp := g.grp.toNat, mask := g.mask.toNat, vd := vd.toNat, va := va.toNat, vb := vb.toNat, md := k.toNat } } s)

/-- VSPLAT (R73). -/
def execVsplat (c : CoreId) (g : LaneSel) (vd : VReg) (xa : XReg) (s : State) : Out :=
  .next
    (issue c.val { Bundle.none with vec := { Vec.none with op := .vsplat, grp := g.grp.toNat, mask := g.mask.toNat, vd := vd.toNat, va := xa.toNat } } s)

/-- VLIDX (R73). -/
def execVlidx (c : CoreId) (g : LaneSel) (vd : VReg) (s : State) : Out :=
  if vecBad { Vec.none with op := .vlidx, grp := g.grp.toNat, mask := g.mask.toNat, vd := vd.toNat } != 0 then .refused .reservedForm else .next
    (issue c.val { Bundle.none with vec := { Vec.none with op := .vlidx, grp := g.grp.toNat, mask := g.mask.toNat, vd := vd.toNat } } s)

/-- VPERM (R73). -/
def execVperm (c : CoreId) (g : LaneSel) (vd va vb : VReg) (s : State) : Out :=
  .next
    (issue c.val { Bundle.none with vec := { Vec.none with op := .vperm, grp := g.grp.toNat, mask := g.mask.toNat, vd := vd.toNat, va := va.toNat, vb := vb.toNat } } s)

end Sys2Proof.Machine
end

