-- ==== Sys2Proof/Machine/VectorFp.lean ====
section
/-! DEFINITION. The FP32, conversion, reduction and draw rows of the vector slot (R73): each command issues a bundle whose
other slots are empty. -/

namespace Sys2Proof.Machine

/-- FADD (R122). -/
def execFadd (c : CoreId) (g : LaneSel) (vd va vb : VReg) (s : State) : Out :=
  .next
    (issue c.val { Bundle.none with vec := { Vec.none with op := .fadd, grp := g.grp.toNat, mask := g.mask.toNat, vd := vd.toNat, va := va.toNat, vb := vb.toNat } } s)

/-- FSUB (R122). -/
def execFsub (c : CoreId) (g : LaneSel) (vd va vb : VReg) (s : State) : Out :=
  .next
    (issue c.val { Bundle.none with vec := { Vec.none with op := .fsub, grp := g.grp.toNat, mask := g.mask.toNat, vd := vd.toNat, va := va.toNat, vb := vb.toNat } } s)

/-- FMUL (R122). -/
def execFmul (c : CoreId) (g : LaneSel) (vd va vb : VReg) (s : State) : Out :=
  .next
    (issue c.val { Bundle.none with vec := { Vec.none with op := .fmul, grp := g.grp.toNat, mask := g.mask.toNat, vd := vd.toNat, va := va.toNat, vb := vb.toNat } } s)

/-- FFMA (R124). -/
def execFfma (c : CoreId) (g : LaneSel) (vd va vb vc : VReg) (s : State) : Out :=
  .next
    (issue c.val { Bundle.none with vec := { Vec.none with op := .ffma, grp := g.grp.toNat, mask := g.mask.toNat, vd := vd.toNat, va := va.toNat, vb := vb.toNat, vc := vc.toNat } } s)

/-- FMIN (R124). -/
def execFmin (c : CoreId) (g : LaneSel) (vd va vb : VReg) (s : State) : Out :=
  .next
    (issue c.val { Bundle.none with vec := { Vec.none with op := .fmin, grp := g.grp.toNat, mask := g.mask.toNat, vd := vd.toNat, va := va.toNat, vb := vb.toNat } } s)

/-- FMAX (R124). -/
def execFmax (c : CoreId) (g : LaneSel) (vd va vb : VReg) (s : State) : Out :=
  .next
    (issue c.val { Bundle.none with vec := { Vec.none with op := .fmax, grp := g.grp.toNat, mask := g.mask.toNat, vd := vd.toNat, va := va.toNat, vb := vb.toNat } } s)

/-- FSGN (R125). -/
def execFsgn (c : CoreId) (g : LaneSel) (vd va : VReg) (abs : Bool) (s : State) : Out :=
  .next
    (issue c.val { Bundle.none with vec := { Vec.none with op := .fsgn, grp := g.grp.toNat, mask := g.mask.toNat, vd := vd.toNat, va := va.toNat, md := b2n abs } } s)

/-- FDIV (R124). -/
def execFdiv (c : CoreId) (g : LaneSel) (vd va vb : VReg) (s : State) : Out :=
  .next
    (issue c.val { Bundle.none with vec := { Vec.none with op := .fdiv, grp := g.grp.toNat, mask := g.mask.toNat, vd := vd.toNat, va := va.toNat, vb := vb.toNat } } s)

/-- FCMP (R125). -/
def execFcmp (c : CoreId) (g : LaneSel) (k : BitVec 3) (va vb : VReg) (cond : BitVec 4) (s : State) : Out :=
  if vecBad { Vec.none with op := .fcmp, grp := g.grp.toNat, mask := g.mask.toNat, va := va.toNat, vb := vb.toNat, md := k.toNat + 8 * cond.toNat } != 0 then .refused .reservedForm else .next
    (issue c.val { Bundle.none with vec := { Vec.none with op := .fcmp, grp := g.grp.toNat, mask := g.mask.toNat, va := va.toNat, vb := vb.toNat, md := k.toNat + 8 * cond.toNat } } s)

/-- FEXP (R126). -/
def execFexp (c : CoreId) (g : LaneSel) (vd va : VReg) (s : State) : Out :=
  .next
    (issue c.val { Bundle.none with vec := { Vec.none with op := .fexp, grp := g.grp.toNat, mask := g.mask.toNat, vd := vd.toNat, va := va.toNat } } s)

/-- FEXP2 (R126). -/
def execFexp2 (c : CoreId) (g : LaneSel) (vd va : VReg) (s : State) : Out :=
  .next
    (issue c.val { Bundle.none with vec := { Vec.none with op := .fexp2, grp := g.grp.toNat, mask := g.mask.toNat, vd := vd.toNat, va := va.toNat } } s)

/-- FLOG (R126). -/
def execFlog (c : CoreId) (g : LaneSel) (vd va : VReg) (s : State) : Out :=
  .next
    (issue c.val { Bundle.none with vec := { Vec.none with op := .flog, grp := g.grp.toNat, mask := g.mask.toNat, vd := vd.toNat, va := va.toNat } } s)

/-- FLOG2 (R126). -/
def execFlog2 (c : CoreId) (g : LaneSel) (vd va : VReg) (s : State) : Out :=
  .next
    (issue c.val { Bundle.none with vec := { Vec.none with op := .flog2, grp := g.grp.toNat, mask := g.mask.toNat, vd := vd.toNat, va := va.toNat } } s)

/-- FRCP (R126). -/
def execFrcp (c : CoreId) (g : LaneSel) (vd va : VReg) (s : State) : Out :=
  .next
    (issue c.val { Bundle.none with vec := { Vec.none with op := .frcp, grp := g.grp.toNat, mask := g.mask.toNat, vd := vd.toNat, va := va.toNat } } s)

/-- FRSQ (R126). -/
def execFrsq (c : CoreId) (g : LaneSel) (vd va : VReg) (s : State) : Out :=
  .next
    (issue c.val { Bundle.none with vec := { Vec.none with op := .frsq, grp := g.grp.toNat, mask := g.mask.toNat, vd := vd.toNat, va := va.toNat } } s)

/-- FSQRT (R126). -/
def execFsqrt (c : CoreId) (g : LaneSel) (vd va : VReg) (s : State) : Out :=
  .next
    (issue c.val { Bundle.none with vec := { Vec.none with op := .fsqrt, grp := g.grp.toNat, mask := g.mask.toNat, vd := vd.toNat, va := va.toNat } } s)

/-- FTANH (R126). -/
def execFtanh (c : CoreId) (g : LaneSel) (vd va : VReg) (s : State) : Out :=
  .next
    (issue c.val { Bundle.none with vec := { Vec.none with op := .ftanh, grp := g.grp.toNat, mask := g.mask.toNat, vd := vd.toNat, va := va.toNat } } s)

/-- FSIG (R126). -/
def execFsig (c : CoreId) (g : LaneSel) (vd va : VReg) (s : State) : Out :=
  .next
    (issue c.val { Bundle.none with vec := { Vec.none with op := .fsig, grp := g.grp.toNat, mask := g.mask.toNat, vd := vd.toNat, va := va.toNat } } s)

/-- FERF (R126). -/
def execFerf (c : CoreId) (g : LaneSel) (vd va : VReg) (s : State) : Out :=
  .next
    (issue c.val { Bundle.none with vec := { Vec.none with op := .ferf, grp := g.grp.toNat, mask := g.mask.toNat, vd := vd.toNat, va := va.toNat } } s)

/-- FSIN (R126). -/
def execFsin (c : CoreId) (g : LaneSel) (vd va : VReg) (s : State) : Out :=
  .next
    (issue c.val { Bundle.none with vec := { Vec.none with op := .fsin, grp := g.grp.toNat, mask := g.mask.toNat, vd := vd.toNat, va := va.toNat } } s)

/-- FCOS (R126). -/
def execFcos (c : CoreId) (g : LaneSel) (vd va : VReg) (s : State) : Out :=
  .next
    (issue c.val { Bundle.none with vec := { Vec.none with op := .fcos, grp := g.grp.toNat, mask := g.mask.toNat, vd := vd.toNat, va := va.toNat } } s)

/-- CVTIN (R53). -/
def execCvtin (c : CoreId) (g : LaneSel) (vd va : VReg) (fmt : BitVec 5) (s : State) : Out :=
  if vecBad { Vec.none with op := .cvtin, grp := g.grp.toNat, mask := g.mask.toNat, vd := vd.toNat, va := va.toNat, md := fmt.toNat } != 0 then .refused .reservedForm else .next
    (issue c.val { Bundle.none with vec := { Vec.none with op := .cvtin, grp := g.grp.toNat, mask := g.mask.toNat, vd := vd.toNat, va := va.toNat, md := fmt.toNat } } s)

/-- CVTOUT (R53). -/
def execCvtout (c : CoreId) (g : LaneSel) (vd va : VReg) (fmt : BitVec 5) (s : State) : Out :=
  if vecBad { Vec.none with op := .cvtout, grp := g.grp.toNat, mask := g.mask.toNat, vd := vd.toNat, va := va.toNat, md := fmt.toNat } != 0 then .refused .reservedForm else .next
    (issue c.val { Bundle.none with vec := { Vec.none with op := .cvtout, grp := g.grp.toNat, mask := g.mask.toNat, vd := vd.toNat, va := va.toNat, md := fmt.toNat } } s)

/-- RSUMA (R131). -/
def execRsuma (c : CoreId) (g : LaneSel) (vd va vb vc : VReg) (mod : BitVec 7) (s : State) : Out :=
  if vecBad { Vec.none with op := .rsuma, grp := g.grp.toNat, mask := g.mask.toNat, vd := vd.toNat, va := va.toNat, vb := vb.toNat, vc := vc.toNat, md := mod.toNat } != 0 then .refused .reservedForm else .next
    (issue c.val { Bundle.none with vec := { Vec.none with op := .rsuma, grp := g.grp.toNat, mask := g.mask.toNat, vd := vd.toNat, va := va.toNat, vb := vb.toNat, vc := vc.toNat, md := mod.toNat } } s)

/-- RSUMT (R135). -/
def execRsumt (c : CoreId) (g : LaneSel) (vd va : VReg) (s : State) : Out :=
  .next
    (issue c.val { Bundle.none with vec := { Vec.none with op := .rsumt, grp := g.grp.toNat, mask := g.mask.toNat, vd := vd.toNat, va := va.toNat } } s)

/-- RMAXI (R117). -/
def execRmaxi (c : CoreId) (g : LaneSel) (vd va vb vc : VReg) (cont : Bool) (s : State) : Out :=
  if vecBad { Vec.none with op := .rmaxi, grp := g.grp.toNat, mask := g.mask.toNat, vd := vd.toNat, va := va.toNat, vb := vb.toNat, vc := vc.toNat, md := b2n cont } != 0 then .refused .reservedForm else .next
    (issue c.val { Bundle.none with vec := { Vec.none with op := .rmaxi, grp := g.grp.toNat, mask := g.mask.toNat, vd := vd.toNat, va := va.toNat, vb := vb.toNat, vc := vc.toNat, md := b2n cont } } s)

/-- RMINI (R117). -/
def execRmini (c : CoreId) (g : LaneSel) (vd va vb vc : VReg) (cont : Bool) (s : State) : Out :=
  if vecBad { Vec.none with op := .rmini, grp := g.grp.toNat, mask := g.mask.toNat, vd := vd.toNat, va := va.toNat, vb := vb.toNat, vc := vc.toNat, md := b2n cont } != 0 then .refused .reservedForm else .next
    (issue c.val { Bundle.none with vec := { Vec.none with op := .rmini, grp := g.grp.toNat, mask := g.mask.toNat, vd := vd.toNat, va := va.toNat, vb := vb.toNat, vc := vc.toNat, md := b2n cont } } s)

/-- RNGI (R215). -/
def execRngi (c : CoreId) (g : LaneSel) (vd : VReg) (xa xb : XReg) (vc : VReg) (mod : BitVec 7) (s : State) : Out :=
  if vecBad { Vec.none with op := .rngi, grp := g.grp.toNat, mask := g.mask.toNat, vd := vd.toNat, vc := vc.toNat, va := xa.toNat, vb := xb.toNat, md := mod.toNat } != 0 then .refused .reservedForm else .next
    (issue c.val { Bundle.none with vec := { Vec.none with op := .rngi, grp := g.grp.toNat, mask := g.mask.toNat, vd := vd.toNat, vc := vc.toNat, va := xa.toNat, vb := xb.toNat, md := mod.toNat } } s)

/-- RNGL (R221). -/
def execRngl (c : CoreId) (g : LaneSel) (vd : VReg) (xb : XReg) (mod : BitVec 7) (s : State) : Out :=
  if vecBad { Vec.none with op := .rngl, grp := g.grp.toNat, mask := g.mask.toNat, vd := vd.toNat, vb := xb.toNat, md := mod.toNat } != 0 then .refused .reservedForm else .next
    (issue c.val { Bundle.none with vec := { Vec.none with op := .rngl, grp := g.grp.toNat, mask := g.mask.toNat, vd := vd.toNat, vb := xb.toNat, md := mod.toNat } } s)

end Sys2Proof.Machine
end

