-- ==== Sys2Proof/Machine/Dispatch.lean ====
section
/-! DEFINITION. The dispatch of commands to their meanings, one arm per constructor of Instr. -/

namespace Sys2Proof.Machine

def exec (i : Instr) (s : State) : Host.Outcome State Fault Refusal :=
  match i with
  | .regWrite o off v => Sys2Proof.Machine.execRegWrite o off v s
  | .rcRead o off => Sys2Proof.Machine.execRcRead o off s
  | .mtNowLoRead f => Sys2Proof.Machine.execMtNowLoRead f s
  | .bundleIssue c => Sys2Proof.Machine.execBundleIssue c s
  | .add c xd xa xb => Sys2Proof.Machine.execAdd c xd xa xb s
  | .sub c xd xa xb => Sys2Proof.Machine.execSub c xd xa xb s
  | .andOp c xd xa xb => Sys2Proof.Machine.execAndOp c xd xa xb s
  | .orOp c xd xa xb => Sys2Proof.Machine.execOrOp c xd xa xb s
  | .xorOp c xd xa xb => Sys2Proof.Machine.execXorOp c xd xa xb s
  | .shl c xd xa xb => Sys2Proof.Machine.execShl c xd xa xb s
  | .shr c xd xa xb => Sys2Proof.Machine.execShr c xd xa xb s
  | .sra c xd xa xb => Sys2Proof.Machine.execSra c xd xa xb s
  | .mul c xd xa xb => Sys2Proof.Machine.execMul c xd xa xb s
  | .cmplt c xd xa xb => Sys2Proof.Machine.execCmplt c xd xa xb s
  | .cmpltu c xd xa xb => Sys2Proof.Machine.execCmpltu c xd xa xb s
  | .cmpeq c xd xa xb => Sys2Proof.Machine.execCmpeq c xd xa xb s
  | .addi c xd xa imm => Sys2Proof.Machine.execAddi c xd xa imm s
  | .li c xd imm => Sys2Proof.Machine.execLi c xd imm s
  | .shli c xd xa imm => Sys2Proof.Machine.execShli c xd xa imm s
  | .lih c xd xa imm => Sys2Proof.Machine.execLih c xd xa imm s
  | .br c off => Sys2Proof.Machine.execBr c off s
  | .bz c xa off => Sys2Proof.Machine.execBz c xa off s
  | .bnz c xa off => Sys2Proof.Machine.execBnz c xa off s
  | .loopOp c xa off => Sys2Proof.Machine.execLoopOp c xa off s
  | .waitOp c half mask => Sys2Proof.Machine.execWaitOp c half mask s
  | .fence c imm => Sys2Proof.Machine.execFence c imm s
  | .markOp c => Sys2Proof.Machine.execMarkOp c s
  | .endTask c => Sys2Proof.Machine.execEndTask c s
  | .spawn c xa imm => Sys2Proof.Machine.execSpawn c xa imm s
  | .lidx c xd imm => Sys2Proof.Machine.execLidx c xd imm s
  | .rdcnt c xd => Sys2Proof.Machine.execRdcnt c xd s
  | .rdobs c xd imm => Sys2Proof.Machine.execRdobs c xd imm s
  | .rdpar c xd imm => Sys2Proof.Machine.execRdpar c xd imm s
  | .vmov c g vd va => Sys2Proof.Machine.execVmov c g vd va s
  | .vand c g vd va vb => Sys2Proof.Machine.execVand c g vd va vb s
  | .vor c g vd va vb => Sys2Proof.Machine.execVor c g vd va vb s
  | .vxor c g vd va vb => Sys2Proof.Machine.execVxor c g vd va vb s
  | .viadd c g vd va vb => Sys2Proof.Machine.execViadd c g vd va vb s
  | .visub c g vd va vb => Sys2Proof.Machine.execVisub c g vd va vb s
  | .vshl c g vd va vb => Sys2Proof.Machine.execVshl c g vd va vb s
  | .vshr c g vd va vb => Sys2Proof.Machine.execVshr c g vd va vb s
  | .vsel c g vd va vb k => Sys2Proof.Machine.execVsel c g vd va vb k s
  | .vsplat c g vd xa => Sys2Proof.Machine.execVsplat c g vd xa s
  | .vlidx c g vd => Sys2Proof.Machine.execVlidx c g vd s
  | .vperm c g vd va vb => Sys2Proof.Machine.execVperm c g vd va vb s
  | .fadd c g vd va vb => Sys2Proof.Machine.execFadd c g vd va vb s
  | .fsub c g vd va vb => Sys2Proof.Machine.execFsub c g vd va vb s
  | .fmul c g vd va vb => Sys2Proof.Machine.execFmul c g vd va vb s
  | .ffma c g vd va vb vc => Sys2Proof.Machine.execFfma c g vd va vb vc s
  | .fmin c g vd va vb => Sys2Proof.Machine.execFmin c g vd va vb s
  | .fmax c g vd va vb => Sys2Proof.Machine.execFmax c g vd va vb s
  | .fsgn c g vd va abs => Sys2Proof.Machine.execFsgn c g vd va abs s
  | .fdiv c g vd va vb => Sys2Proof.Machine.execFdiv c g vd va vb s
  | .fcmp c g k va vb cond => Sys2Proof.Machine.execFcmp c g k va vb cond s
  | .fexp c g vd va => Sys2Proof.Machine.execFexp c g vd va s
  | .fexp2 c g vd va => Sys2Proof.Machine.execFexp2 c g vd va s
  | .flog c g vd va => Sys2Proof.Machine.execFlog c g vd va s
  | .flog2 c g vd va => Sys2Proof.Machine.execFlog2 c g vd va s
  | .frcp c g vd va => Sys2Proof.Machine.execFrcp c g vd va s
  | .frsq c g vd va => Sys2Proof.Machine.execFrsq c g vd va s
  | .fsqrt c g vd va => Sys2Proof.Machine.execFsqrt c g vd va s
  | .ftanh c g vd va => Sys2Proof.Machine.execFtanh c g vd va s
  | .fsig c g vd va => Sys2Proof.Machine.execFsig c g vd va s
  | .ferf c g vd va => Sys2Proof.Machine.execFerf c g vd va s
  | .fsin c g vd va => Sys2Proof.Machine.execFsin c g vd va s
  | .fcos c g vd va => Sys2Proof.Machine.execFcos c g vd va s
  | .cvtin c g vd va fmt => Sys2Proof.Machine.execCvtin c g vd va fmt s
  | .cvtout c g vd va fmt => Sys2Proof.Machine.execCvtout c g vd va fmt s
  | .rsuma c g vd va vb vc mod => Sys2Proof.Machine.execRsuma c g vd va vb vc mod s
  | .rsumt c g vd va => Sys2Proof.Machine.execRsumt c g vd va s
  | .rmaxi c g vd va vb vc cont => Sys2Proof.Machine.execRmaxi c g vd va vb vc cont s
  | .rmini c g vd va vb vc cont => Sys2Proof.Machine.execRmini c g vd va vb vc cont s
  | .rngi c g vd xa xb vc mod => Sys2Proof.Machine.execRngi c g vd xa xb vc mod s
  | .rngl c g vd xb mod => Sys2Proof.Machine.execRngl c g vd xb mod s
  | .ldv c grp vr lfmt xb off => Sys2Proof.Machine.execLdv c grp vr lfmt xb off s
  | .stv c grp vr lfmt xb off => Sys2Proof.Machine.execStv c grp vr lfmt xb off s
  | .ldx c xr xb off => Sys2Proof.Machine.execLdx c xr xb off s
  | .stx c xr xb off => Sys2Proof.Machine.execStx c xr xb off s
  | .mdl c md xb off => Sys2Proof.Machine.execMdl c md xb off s
  | .tmv c as xb off => Sys2Proof.Machine.execTmv c as xb off s
  | .fill c as xb off => Sys2Proof.Machine.execFill c as xb off s
  | .scopy c as xb off => Sys2Proof.Machine.execScopy c as xb off s
  | .msg c as xb off => Sys2Proof.Machine.execMsg c as xb off s
  | .coll c as xb off => Sys2Proof.Machine.execColl c as xb off s
  | .recv c as xb off => Sys2Proof.Machine.execRecv c as xb off s
  | .mma c md ct k16 clr => Sys2Proof.Machine.execMma c md ct k16 clr s
  | .mpre c md ct => Sys2Proof.Machine.execMpre c md ct s
  | .mout c md ct => Sys2Proof.Machine.execMout c md ct s
  | .mspill c ct => Sys2Proof.Machine.execMspill c ct s
  | .manch c md ct auto as => Sys2Proof.Machine.execManch c md ct auto as s
  | .csave c md ct => Sys2Proof.Machine.execCsave c md ct s
  | .cload c md ct => Sys2Proof.Machine.execCload c md ct s
  | .tokenWindowStart d => Sys2Proof.Machine.execTokenWindowStart d s
  | .arrivalRelease c => Sys2Proof.Machine.execArrivalRelease c s
  | .slowPathDue c => Sys2Proof.Machine.execSlowPathDue c s
  | .slowPathDone c => Sys2Proof.Machine.execSlowPathDone c s
  | .wholeBlockRepeat c => Sys2Proof.Machine.execWholeBlockRepeat c s
  | .moverItemStart c => Sys2Proof.Machine.execMoverItemStart c s
  | .moverItemComplete c eng => Sys2Proof.Machine.execMoverItemComplete c eng s
  | .atShelfComplete c eng => Sys2Proof.Machine.execAtShelfComplete c eng s
  | .shelfClear c => Sys2Proof.Machine.execShelfClear c s
  | .taskStart c => Sys2Proof.Machine.execTaskStart c s
  | .taskEnd c => Sys2Proof.Machine.execTaskEnd c s
  | .overflowRingRefill k lcore => Sys2Proof.Machine.execOverflowRingRefill k lcore s
  | .stealProbeRound c => Sys2Proof.Machine.execStealProbeRound c s
  | .probeWaitExpiry c => Sys2Proof.Machine.execProbeWaitExpiry c s
  | .remoteStealQuery c => Sys2Proof.Machine.execRemoteStealQuery c s
  | .stealReply c => Sys2Proof.Machine.execStealReply c s
  | .messageDelivery => Sys2Proof.Machine.execMessageDelivery s
  | .msgLanded id => Sys2Proof.Machine.execMsgLanded id s
  | .msgRefusal id => Sys2Proof.Machine.execMsgRefusal id s
  | .gridCheckDone c => Sys2Proof.Machine.execGridCheckDone c s
  | .prepassLocalDone c => Sys2Proof.Machine.execPrepassLocalDone c s
  | .cellarRead m line errs => Sys2Proof.Machine.execCellarRead m line errs s
  | .rowRetirementDone m => Sys2Proof.Machine.execRowRetirementDone m s
  | .pcMigrationDone m => Sys2Proof.Machine.execPcMigrationDone m s
  | .cellarWrite m line first data poison => Sys2Proof.Machine.execCellarWrite m line first data poison s
  | .cowWaitResume m => Sys2Proof.Machine.execCowWaitResume m s
  | .scrubLine m line errs => Sys2Proof.Machine.execScrubLine m line errs s
  | .granuleZeroFillDone g => Sys2Proof.Machine.execGranuleZeroFillDone g s
  | .storeRoomLock o => Sys2Proof.Machine.execStoreRoomLock o s
  | .updateStart m => Sys2Proof.Machine.execUpdateStart m s
  | .updateComplete m => Sys2Proof.Machine.execUpdateComplete m s
  | .cuLd m e d sl => Sys2Proof.Machine.execCuLd m e d sl s
  | .cuLdw m e d sl => Sys2Proof.Machine.execCuLdw m e d sl s
  | .cuSt m e a sl => Sys2Proof.Machine.execCuSt m e a sl s
  | .cuStw m e a sl => Sys2Proof.Machine.execCuStw m e a sl s
  | .cuMov m e d a => Sys2Proof.Machine.execCuMov m e d a s
  | .cuAdd m e d a b => Sys2Proof.Machine.execCuAdd m e d a b s
  | .cuSub m e d a b => Sys2Proof.Machine.execCuSub m e d a b s
  | .cuMul m e d a b => Sys2Proof.Machine.execCuMul m e d a b s
  | .cuFma m e d a b c => Sys2Proof.Machine.execCuFma m e d a b c s
  | .cuDiv m e d a b => Sys2Proof.Machine.execCuDiv m e d a b s
  | .cuSqrt m e d a => Sys2Proof.Machine.execCuSqrt m e d a s
  | .cuMin m e d a b => Sys2Proof.Machine.execCuMin m e d a b s
  | .cuMax m e d a b => Sys2Proof.Machine.execCuMax m e d a b s
  | .cuNeg m e d a => Sys2Proof.Machine.execCuNeg m e d a s
  | .cuAbs m e d a => Sys2Proof.Machine.execCuAbs m e d a s
  | .cuSgn m e d a => Sys2Proof.Machine.execCuSgn m e d a s
  | .cuClt m e d a b => Sys2Proof.Machine.execCuClt m e d a b s
  | .cuSel m e d a b c => Sys2Proof.Machine.execCuSel m e d a b c s
  | .cuAxpby m e d a b c => Sys2Proof.Machine.execCuAxpby m e d a b c s
  | .cuEmasq m e d a b c => Sys2Proof.Machine.execCuEmasq m e d a b c s
  | .cuAdir m e d a b c => Sys2Proof.Machine.execCuAdir m e d a b c s
  | .cuEnd m e => Sys2Proof.Machine.execCuEnd m e s
  | .frontStageStart d => Sys2Proof.Machine.execFrontStageStart d s
  | .factorisationStart d => Sys2Proof.Machine.execFactorisationStart d s
  | .solverMatrixDone d => Sys2Proof.Machine.execSolverMatrixDone d s
  | .stepBegin k => Sys2Proof.Machine.execStepBegin k s
  | .stepCommit k => Sys2Proof.Machine.execStepCommit k s
  | .tlyRingTailWrite o k tail => Sys2Proof.Machine.execTlyRingTailWrite o k tail s
  | .stepCloseContribute k => Sys2Proof.Machine.execStepCloseContribute k s
  | .stepCloseAgreed k => Sys2Proof.Machine.execStepCloseAgreed k s
  | .replayStartAgreed k => Sys2Proof.Machine.execReplayStartAgreed k s
  | .auditCompare c => Sys2Proof.Machine.execAuditCompare c s
  | .marginRunStart u row => Sys2Proof.Machine.execMarginRunStart u row s
  | .marginRunDone u passed => Sys2Proof.Machine.execMarginRunDone u passed s
  | .mtCopyCorrection d => Sys2Proof.Machine.execMtCopyCorrection d s
  | .exchangeRequestSend p => Sys2Proof.Machine.execExchangeRequestSend p s
  | .exchangeRequestReceive p body resent => Sys2Proof.Machine.execExchangeRequestReceive p body resent s
  | .exchangeReplyReceive p body resent => Sys2Proof.Machine.execExchangeReplyReceive p body resent s
  | .offScheduleRejoin => Sys2Proof.Machine.execOffScheduleRejoin s
  | .ppsEdge => Sys2Proof.Machine.execPpsEdge s
  | .ppsMissTimeout => Sys2Proof.Machine.execPpsMissTimeout s
  | .slotEntryWrite o p e second v => Sys2Proof.Machine.execSlotEntryWrite o p e second v s
  | .frameBoundary => Sys2Proof.Machine.execFrameBoundary s
  | .slotFrameSend p e => Sys2Proof.Machine.execSlotFrameSend p e s
  | .slotFrameReceive p e first last frame => Sys2Proof.Machine.execSlotFrameReceive p e first last frame s
  | .slotOccurrenceStart p e => Sys2Proof.Machine.execSlotOccurrenceStart p e s
  | .frameReceive p frame => Sys2Proof.Machine.execFrameReceive p frame s
  | .markerSend p => Sys2Proof.Machine.execMarkerSend p s
  | .markerReceive p width8 subst => Sys2Proof.Machine.execMarkerReceive p width8 subst s
  | .frameSlotArbitration p => Sys2Proof.Machine.execFrameSlotArbitration p s
  | .retryTimeout p vc => Sys2Proof.Machine.execRetryTimeout p vc s
  | .laneLoss p lane => Sys2Proof.Machine.execLaneLoss p lane s
  | .trainingAttemptEnd p r => Sys2Proof.Machine.execTrainingAttemptEnd p r s
  | .trainingRetryTimer p => Sys2Proof.Machine.execTrainingRetryTimer p s
  | .presenceChange p present => Sys2Proof.Machine.execPresenceChange p present s
  | .serviceButtonPress => Sys2Proof.Machine.execServiceButtonPress s
  | .drainTimeout p => Sys2Proof.Machine.execDrainTimeout p s
  | .attnTrainedExpiry p => Sys2Proof.Machine.execAttnTrainedExpiry p s
  | .svcMarkWrite o p mark => Sys2Proof.Machine.execSvcMarkWrite o p mark s
  | .fiArm o p v => Sys2Proof.Machine.execFiArm o p v s
  | .packetForward p => Sys2Proof.Machine.execPacketForward p s
  | .packetDeliver => Sys2Proof.Machine.execPacketDeliver s
  | .e2eAckSend k => Sys2Proof.Machine.execE2eAckSend k s
  | .e2eNakSend k => Sys2Proof.Machine.execE2eNakSend k s
  | .e2eAckReceive body => Sys2Proof.Machine.execE2eAckReceive body s
  | .e2eNakReceive body => Sys2Proof.Machine.execE2eNakReceive body s
  | .e2eResendTimeout k => Sys2Proof.Machine.execE2eResendTimeout k s
  | .destUnreachable node => Sys2Proof.Machine.execDestUnreachable node s
  | .collectiveStart => Sys2Proof.Machine.execCollectiveStart s
  | .collectiveComplete cctx seq step => Sys2Proof.Machine.execCollectiveComplete cctx seq step s
  | .collAbortReceive body => Sys2Proof.Machine.execCollAbortReceive body s
  | .agreementComplete cctx seq step => Sys2Proof.Machine.execAgreementComplete cctx seq step s
  | .streamPageSend k => Sys2Proof.Machine.execStreamPageSend k s
  | .buddyStreamReceive src off data poison last => Sys2Proof.Machine.execBuddyStreamReceive src off data poison last s
  | .fsStreamChunk k => Sys2Proof.Machine.execFsStreamChunk k s
  | .restoreComplete k => Sys2Proof.Machine.execRestoreComplete k s
  | .moveComplete => Sys2Proof.Machine.execMoveComplete s
  | .savedTaskResume c => Sys2Proof.Machine.execSavedTaskResume c s
  | .contextIdle k => Sys2Proof.Machine.execContextIdle k s
  | .stowComplete k => Sys2Proof.Machine.execStowComplete k s
  | .unstowComplete k => Sys2Proof.Machine.execUnstowComplete k s
  | .flr f => Sys2Proof.Machine.execFlr f s
  | .pcieHotReset => Sys2Proof.Machine.execPcieHotReset s
  | .mbInWrite f n v => Sys2Proof.Machine.execMbInWrite f n v s
  | .mbGo f v => Sys2Proof.Machine.execMbGo f v s
  | .mailboxTake f => Sys2Proof.Machine.execMailboxTake f s
  | .mbOstatAck f v => Sys2Proof.Machine.execMbOstatAck f v s
  | .ringSqDoorbell f r v => Sys2Proof.Machine.execRingSqDoorbell f r v s
  | .ringCqDoorbell f r v => Sys2Proof.Machine.execRingCqDoorbell f r v s
  | .ringEnable f r v => Sys2Proof.Machine.execRingEnable f r v s
  | .commandTake => Sys2Proof.Machine.execCommandTake s
  | .commandComplete src tag => Sys2Proof.Machine.execCommandComplete src tag s
  | .nopCmd src pk => Sys2Proof.Machine.execNopCmd src pk s
  | .getInfo src pk => Sys2Proof.Machine.execGetInfo src pk s
  | .readEvents src pk => Sys2Proof.Machine.execReadEvents src pk s
  | .readLog src pk => Sys2Proof.Machine.execReadLog src pk s
  | .regAccess src pk => Sys2Proof.Machine.execRegAccess src pk s
  | .telemetry src pk => Sys2Proof.Machine.execTelemetry src pk s
  | .fnQuota src pk => Sys2Proof.Machine.execFnQuota src pk s
  | .bind src pk => Sys2Proof.Machine.execBind src pk s
  | .unbind src pk => Sys2Proof.Machine.execUnbind src pk s
  | .moveGroup src pk => Sys2Proof.Machine.execMoveGroup src pk s
  | .halt src pk => Sys2Proof.Machine.execHalt src pk s
  | .holdRegister src pk => Sys2Proof.Machine.execHoldRegister src pk s
  | .memMap src pk => Sys2Proof.Machine.execMemMap src pk s
  | .memRead src pk => Sys2Proof.Machine.execMemRead src pk s
  | .memWrite src pk => Sys2Proof.Machine.execMemWrite src pk s
  | .loadImage src pk => Sys2Proof.Machine.execLoadImage src pk s
  | .postStep src pk => Sys2Proof.Machine.execPostStep src pk s
  | .replay src pk => Sys2Proof.Machine.execReplay src pk s
  | .resume src pk => Sys2Proof.Machine.execResume src pk s
  | .realign src pk => Sys2Proof.Machine.execRealign src pk s
  | .ucodeLoad src pk => Sys2Proof.Machine.execUcodeLoad src pk s
  | .updRegister src pk => Sys2Proof.Machine.execUpdRegister src pk s
  | .updDeregister src pk => Sys2Proof.Machine.execUpdDeregister src pk s
  | .updFire src pk => Sys2Proof.Machine.execUpdFire src pk s
  | .solvRegister src pk => Sys2Proof.Machine.execSolvRegister src pk s
  | .solvDeregister src pk => Sys2Proof.Machine.execSolvDeregister src pk s
  | .cctxCreate src pk => Sys2Proof.Machine.execCctxCreate src pk s
  | .cctxDestroy src pk => Sys2Proof.Machine.execCctxDestroy src pk s
  | .timeSet src pk => Sys2Proof.Machine.execTimeSet src pk s
  | .portRetrain src pk => Sys2Proof.Machine.execPortRetrain src pk s
  | .portUnlock src pk => Sys2Proof.Machine.execPortUnlock src pk s
  | .fsRing src pk => Sys2Proof.Machine.execFsRing src pk s
  | .checkpoint src pk => Sys2Proof.Machine.execCheckpoint src pk s
  | .restore src pk => Sys2Proof.Machine.execRestore src pk s
  | .lockSet src pk => Sys2Proof.Machine.execLockSet src pk s
  | .debugChallenge src pk => Sys2Proof.Machine.execDebugChallenge src pk s
  | .debugUnlock src pk => Sys2Proof.Machine.execDebugUnlock src pk s
  | .debugLock src pk => Sys2Proof.Machine.execDebugLock src pk s
  | .retireUnit src pk => Sys2Proof.Machine.execRetireUnit src pk s
  | .setPower src pk => Sys2Proof.Machine.execSetPower src pk s
  | .failover src pk => Sys2Proof.Machine.execFailover src pk s
  | .heartbeatTick => Sys2Proof.Machine.execHeartbeatTick s
  | .mgmtWatchdogFailover => Sys2Proof.Machine.execMgmtWatchdogFailover s
  | .standbyDead => Sys2Proof.Machine.execStandbyDead s
  | .shedLevelEval busy => Sys2Proof.Machine.execShedLevelEval busy s
  | .logMirrorCopy => Sys2Proof.Machine.execLogMirrorCopy s
  | .mctpRequest eid pk => Sys2Proof.Machine.execMctpRequest eid pk s
  | .mctpControlMessage eid cmd data => Sys2Proof.Machine.execMctpControlMessage eid cmd data s
  | .jtagIdcode => Sys2Proof.Machine.execJtagIdcode s
  | .jtagSamplePreload scan => Sys2Proof.Machine.execJtagSamplePreload scan s
  | .jtagExtest scan => Sys2Proof.Machine.execJtagExtest scan s
  | .jtagClamp => Sys2Proof.Machine.execJtagClamp s
  | .jtagHighz => Sys2Proof.Machine.execJtagHighz s
  | .jtagRegacc dr => Sys2Proof.Machine.execJtagRegacc dr s
  | .jtagBypass => Sys2Proof.Machine.execJtagBypass s
  | .monitorWindow src count => Sys2Proof.Machine.execMonitorWindow src count s
  | .holdoverTimeout n => Sys2Proof.Machine.execHoldoverTimeout n s
  | .pllRelock n => Sys2Proof.Machine.execPllRelock n s
  | .soscTrim ppm => Sys2Proof.Machine.execSoscTrim ppm s
  | .clkDomWrite o n v => Sys2Proof.Machine.execClkDomWrite o n v s
  | .atticMiscompare => Sys2Proof.Machine.execAtticMiscompare s
  | .atticSelfCheckDone failed => Sys2Proof.Machine.execAtticSelfCheckDone failed s
  | .throttleTick tj vcore watts => Sys2Proof.Machine.execThrottleTick tj vcore watts s
  | .dieOvertemp d tj => Sys2Proof.Machine.execDieOvertemp d tj s
  | .dieResetRelease d => Sys2Proof.Machine.execDieResetRelease d s
  | .supplyLost r => Sys2Proof.Machine.execSupplyLost r s
  | .railPresent r => Sys2Proof.Machine.execRailPresent r s
  | .dieIdleEntry d => Sys2Proof.Machine.execDieIdleEntry d s
  | .coldStart straps => Sys2Proof.Machine.execColdStart straps s
  | .startupPhaseComplete b => Sys2Proof.Machine.execStartupPhaseComplete b s
  | .perstRelease => Sys2Proof.Machine.execPerstRelease s
  | .perstAssert => Sys2Proof.Machine.execPerstAssert s
  | .firmwareAuthDone a => Sys2Proof.Machine.execFirmwareAuthDone a s
  | .alertStuckDetect => Sys2Proof.Machine.execAlertStuckDetect s
  | .alertReleaseHigh => Sys2Proof.Machine.execAlertReleaseHigh s
  | .trayAlert => Sys2Proof.Machine.execTrayAlert s
  | .smbBusClear freed => Sys2Proof.Machine.execSmbBusClear freed s
  | .smbRetry o => Sys2Proof.Machine.execSmbRetry o s
  | .alertMctp o on => Sys2Proof.Machine.execAlertMctp o on s
  | .svcButtonStuck => Sys2Proof.Machine.execSvcButtonStuck s
  | .presenceFlap p => Sys2Proof.Machine.execPresenceFlap p s
  | .flowEntryReclaim k => Sys2Proof.Machine.execFlowEntryReclaim k s
  | .holdoverErrorCrossesFourGuards => Sys2Proof.Machine.execHoldoverErrorCrossesFourGuards s
  | .flowHeldOver1Ms k => Sys2Proof.Machine.execFlowHeldOver1Ms k s
  | .moveBeyond3Ms => Sys2Proof.Machine.execMoveBeyond3Ms s
  | .frameSlotShareWindowEnd p => Sys2Proof.Machine.execFrameSlotShareWindowEnd p s
  | .soscReadyTimeout => Sys2Proof.Machine.execSoscReadyTimeout s
  | .time10mLost => Sys2Proof.Machine.execTime10mLost s
  | .time10mReturn => Sys2Proof.Machine.execTime10mReturn s
  | .presenceFlapEnd p => Sys2Proof.Machine.execPresenceFlapEnd p s
  | .jtagTestLogicReset => Sys2Proof.Machine.execJtagTestLogicReset s
  | .commandQueuedReply src tag => Sys2Proof.Machine.execCommandQueuedReply src tag s
  | .parkedExitComplete => Sys2Proof.Machine.execParkedExitComplete s

end Sys2Proof.Machine
end

