-- ==== Sys2Proof/Machine/Tick.lean ====
section
/-! DEFINITION. What the passing of time does when no command waits (log entry 2): machine time counts and slews, and its
error grows while nothing steers it. -/

namespace Sys2Proof.Machine

/-- A signed 64-bit amount moved one toward zero. -/
def towardZero (v : DWord) : DWord := if v = 0 then 0 else if v.toNat < 2 ^ 63 then v - 1 else v + 1

/-- Machine time after one mt: a pending correction moves it by one more or holds it, once in 10,000 mt (R254, 100 ppm). -/
def timeStep (t : TimeUnit) : TimeUnit :=
  let due := t.tickPhase + 1 = 10000
  let adj : DWord := if !due || t.slew = 0 then 1 else if t.slew.toNat < 2 ^ 63 then 2 else 0
  { t with
    now := t.now + adj
    slew := if due then towardZero t.slew else t.slew
    tickPhase := if due then 0 else t.tickPhase + 1
    copies := t.copySlew.foldl (fun (m : SMap DWord) e => mapSet 0 m e.1 (towardZero (mapGet 0 m e.1))) t.copies
    copySlew := [] }

/-- The machine time in which `MT_ERR` grows by one mt: 1 ms per second in Attic-only, 10 ns per second in holdover, or on
TIME_PPS with TIME_10M in use and absent (R256, R257, R450). -/
def errPeriod (s : State) : Option Nat :=
  if fget s F.PWR_STAT.STATE = 2 then some 1000
  else if fget s F.MT_STAT.STATE = 3 || (s.time.tenLost && fbit s F.MT_CTRL.TEN_EN && fget s F.MT_STAT.SRC == 1 &&
    fget s F.MT_STAT.STATE == 2) then some 100000000
  else none

/-- `MT_ERR` as one mt passes; the schedule is judged on it (R261, R263). -/
def growErr (s : State) : State :=
  match errPeriod s with
  | none => s
  | some n =>
    if s.time.errTicks + 1 < n then modTime (fun t => { t with errTicks := t.errTicks + 1 }) s
    else setErr (fget s F.MT_ERR.MT + 1) (modTime (fun t => { t with errTicks := 0 }) s)

/-- One unit of machine time passes (R248). -/
def tick (s : State) : State := growErr (modTime timeStep s)

end Sys2Proof.Machine
end

