-- ==== Sys2Proof/WellFormed.lean ====
section
/-! DEFINITION. Well-formed commands: what a command's operands must satisfy beyond their types. A slot form that the spec
reserves is not well formed (R70, R131, R171, R175, R217). -/

namespace Sys2Proof

open Machine

/-- Whether a unit that spare management names exists (R387). -/
def UnitRef.exists_ (u : UnitRef) : Bool :=
  match u.kind.val with
  | 0 => decide (u.place.val < 8) && decide (u.unit < 272)
  | 1 => decide (u.unit < 9)
  | 2 => u.unit == u.place.val
  | 3 => decide (u.place.val < 16)
  | 4 => decide (u.place.val < 16) && decide (u.unit < 33)
  | 5 => decide (u.place.val < 16) && decide (u.unit < 68)
  | 6 => u.place.val == 0 && decide (u.unit < 264)
  | _ => u.place.val == 0 && decide (u.unit < 2)

/-- Whether a command is well formed. -/
def Instr.wellFormed : Instr → Bool
  | .loopOp _ xa off =>
    !(ctlBad (.loop xa.toNat off.toInt) != 0)
  | .fence _ imm =>
    !(ctlBad (.fence imm.toNat) != 0)
  | .spawn _ xa imm =>
    !(ctlBad (.spawn xa.toNat imm.toNat) != 0)
  | .rdobs _ xd imm =>
    !(ctlBad (.rdobs xd.toNat imm.toNat) != 0)
  | .vlidx _ g vd =>
    !(vecBad { Vec.none with op := .vlidx, grp := g.grp.toNat, mask := g.mask.toNat, vd := vd.toNat } != 0)
  | .fcmp _ g k va vb cond =>
    !(vecBad { Vec.none with op := .fcmp, grp := g.grp.toNat, mask := g.mask.toNat, va := va.toNat, vb := vb.toNat, md := k.toNat + 8 * cond.toNat } != 0)
  | .cvtin _ g vd va fmt =>
    !(vecBad { Vec.none with op := .cvtin, grp := g.grp.toNat, mask := g.mask.toNat, vd := vd.toNat, va := va.toNat, md := fmt.toNat } != 0)
  | .cvtout _ g vd va fmt =>
    !(vecBad { Vec.none with op := .cvtout, grp := g.grp.toNat, mask := g.mask.toNat, vd := vd.toNat, va := va.toNat, md := fmt.toNat } != 0)
  | .rsuma _ g vd va vb vc mod =>
    !(vecBad { Vec.none with op := .rsuma, grp := g.grp.toNat, mask := g.mask.toNat, vd := vd.toNat, va := va.toNat, vb := vb.toNat, vc := vc.toNat, md := mod.toNat } != 0)
  | .rmaxi _ g vd va vb vc cont =>
    !(vecBad { Vec.none with op := .rmaxi, grp := g.grp.toNat, mask := g.mask.toNat, vd := vd.toNat, va := va.toNat, vb := vb.toNat, vc := vc.toNat, md := b2n cont } != 0)
  | .rmini _ g vd va vb vc cont =>
    !(vecBad { Vec.none with op := .rmini, grp := g.grp.toNat, mask := g.mask.toNat, vd := vd.toNat, va := va.toNat, vb := vb.toNat, vc := vc.toNat, md := b2n cont } != 0)
  | .rngi _ g vd xa xb vc mod =>
    !(vecBad { Vec.none with op := .rngi, grp := g.grp.toNat, mask := g.mask.toNat, vd := vd.toNat, vc := vc.toNat, va := xa.toNat, vb := xb.toNat, md := mod.toNat } != 0)
  | .rngl _ g vd xb mod =>
    !(vecBad { Vec.none with op := .rngl, grp := g.grp.toNat, mask := g.mask.toNat, vd := vd.toNat, vb := xb.toNat, md := mod.toNat } != 0)
  | .ldv _ grp vr lfmt xb off =>
    !(movBad { Mov.none with op := .ldv, xb := xb.toNat, off := off.toNat, grp := grp.toNat, reg := vr.toNat, lfmt := lfmt.toNat } != 0)
  | .stv _ grp vr lfmt xb off =>
    !(movBad { Mov.none with op := .stv, xb := xb.toNat, off := off.toNat, grp := grp.toNat, reg := vr.toNat, lfmt := lfmt.toNat } != 0)
  | .mdl _ md xb off =>
    !(movBad { Mov.none with op := .mdl, xb := xb.toNat, off := off.toNat, reg := md.toNat } != 0)
  | .cellarRead _ line _ => decide (line.toNat < stackLines)
  | .cellarWrite _ line first data _ => decide (line.toNat < stackLines) && decide (0 < data.length) && decide (first.val + data.length ≤ 64)
  | .scrubLine _ line _ => decide (line.toNat < stackLines)
  | .marginRunStart u _ => u.exists_
  | .marginRunDone u passed => u.exists_ && decide (passed.length ≤ 11)
  | .exchangeRequestReceive _ body _ => body.length == 128
  | .exchangeReplyReceive _ body _ => body.length == 128
  | .slotFrameReceive _ _ _ _ frame => frame.length == 144
  | .frameReceive _ frame => frame.length == 144
  | .e2eAckReceive body => body.length == 128
  | .e2eNakReceive body => body.length == 128
  | .collAbortReceive body => body.length == 128
  | .buddyStreamReceive _ _ data poison _ => poison.length == (data.length + 63) / 64
  | .nopCmd _ pk => pk.ps.length == 11
  | .getInfo _ pk => pk.ps.length == 11
  | .readEvents _ pk => pk.ps.length == 11
  | .readLog _ pk => pk.ps.length == 11
  | .regAccess _ pk => pk.ps.length == 11
  | .telemetry _ pk => pk.ps.length == 11
  | .fnQuota _ pk => pk.ps.length == 11
  | .bind _ pk => pk.ps.length == 11
  | .unbind _ pk => pk.ps.length == 11
  | .moveGroup _ pk => pk.ps.length == 11
  | .halt _ pk => pk.ps.length == 11
  | .holdRegister _ pk => pk.ps.length == 11
  | .memMap _ pk => pk.ps.length == 11
  | .memRead _ pk => pk.ps.length == 11
  | .memWrite _ pk => pk.ps.length == 11
  | .loadImage _ pk => pk.ps.length == 11
  | .postStep _ pk => pk.ps.length == 11
  | .replay _ pk => pk.ps.length == 11
  | .resume _ pk => pk.ps.length == 11
  | .realign _ pk => pk.ps.length == 11
  | .ucodeLoad _ pk => pk.ps.length == 11
  | .updRegister _ pk => pk.ps.length == 11
  | .updDeregister _ pk => pk.ps.length == 11
  | .updFire _ pk => pk.ps.length == 11
  | .solvRegister _ pk => pk.ps.length == 11
  | .solvDeregister _ pk => pk.ps.length == 11
  | .cctxCreate _ pk => pk.ps.length == 11
  | .cctxDestroy _ pk => pk.ps.length == 11
  | .timeSet _ pk => pk.ps.length == 11
  | .portRetrain _ pk => pk.ps.length == 11
  | .portUnlock _ pk => pk.ps.length == 11
  | .fsRing _ pk => pk.ps.length == 11
  | .checkpoint _ pk => pk.ps.length == 11
  | .restore _ pk => pk.ps.length == 11
  | .lockSet _ pk => pk.ps.length == 11
  | .debugChallenge _ pk => pk.ps.length == 11
  | .debugUnlock _ pk => pk.ps.length == 11
  | .debugLock _ pk => pk.ps.length == 11
  | .retireUnit _ pk => pk.ps.length == 11
  | .setPower _ pk => pk.ps.length == 11
  | .failover _ pk => pk.ps.length == 11
  | .mctpRequest _ pk => pk.ps.length == 11
  | .throttleTick tj vcore _ => tj.length == 8 && vcore.length == 8
  | .startupPhaseComplete b => b.disabled.all (fun c => decide (c < 2176)) && b.engines.length == 16 &&
    b.pcSpared.all (fun x => decide (x.1 < 16) && decide (x.2 < 32)) && decide (b.banks ≤ 264) &&
    b.storeGranules.all (fun x => decide (x.1 < 1024))
  | .regWrite _ _ _ => true
  | .rcRead _ _ => true
  | .mtNowLoRead _ => true
  | .bundleIssue _ => true
  | .add _ _ _ _ => true
  | .sub _ _ _ _ => true
  | .andOp _ _ _ _ => true
  | .orOp _ _ _ _ => true
  | .xorOp _ _ _ _ => true
  | .shl _ _ _ _ => true
  | .shr _ _ _ _ => true
  | .sra _ _ _ _ => true
  | .mul _ _ _ _ => true
  | .cmplt _ _ _ _ => true
  | .cmpltu _ _ _ _ => true
  | .cmpeq _ _ _ _ => true
  | .addi _ _ _ _ => true
  | .li _ _ _ => true
  | .shli _ _ _ _ => true
  | .lih _ _ _ _ => true
  | .br _ _ => true
  | .bz _ _ _ => true
  | .bnz _ _ _ => true
  | .waitOp _ _ _ => true
  | .markOp _ => true
  | .endTask _ => true
  | .lidx _ _ _ => true
  | .rdcnt _ _ => true
  | .rdpar _ _ _ => true
  | .vmov _ _ _ _ => true
  | .vand _ _ _ _ _ => true
  | .vor _ _ _ _ _ => true
  | .vxor _ _ _ _ _ => true
  | .viadd _ _ _ _ _ => true
  | .visub _ _ _ _ _ => true
  | .vshl _ _ _ _ _ => true
  | .vshr _ _ _ _ _ => true
  | .vsel _ _ _ _ _ _ => true
  | .vsplat _ _ _ _ => true
  | .vperm _ _ _ _ _ => true
  | .fadd _ _ _ _ _ => true
  | .fsub _ _ _ _ _ => true
  | .fmul _ _ _ _ _ => true
  | .ffma _ _ _ _ _ _ => true
  | .fmin _ _ _ _ _ => true
  | .fmax _ _ _ _ _ => true
  | .fsgn _ _ _ _ _ => true
  | .fdiv _ _ _ _ _ => true
  | .fexp _ _ _ _ => true
  | .fexp2 _ _ _ _ => true
  | .flog _ _ _ _ => true
  | .flog2 _ _ _ _ => true
  | .frcp _ _ _ _ => true
  | .frsq _ _ _ _ => true
  | .fsqrt _ _ _ _ => true
  | .ftanh _ _ _ _ => true
  | .fsig _ _ _ _ => true
  | .ferf _ _ _ _ => true
  | .fsin _ _ _ _ => true
  | .fcos _ _ _ _ => true
  | .rsumt _ _ _ _ => true
  | .ldx _ _ _ _ => true
  | .stx _ _ _ _ => true
  | .tmv _ _ _ _ => true
  | .fill _ _ _ _ => true
  | .scopy _ _ _ _ => true
  | .msg _ _ _ _ => true
  | .coll _ _ _ _ => true
  | .recv _ _ _ _ => true
  | .mma _ _ _ _ _ => true
  | .mpre _ _ _ => true
  | .mout _ _ _ => true
  | .mspill _ _ => true
  | .manch _ _ _ _ _ => true
  | .csave _ _ _ => true
  | .cload _ _ _ => true
  | .tokenWindowStart _ => true
  | .arrivalRelease _ => true
  | .slowPathDue _ => true
  | .slowPathDone _ => true
  | .wholeBlockRepeat _ => true
  | .moverItemStart _ => true
  | .moverItemComplete _ _ => true
  | .atShelfComplete _ _ => true
  | .shelfClear _ => true
  | .taskStart _ => true
  | .taskEnd _ => true
  | .overflowRingRefill _ _ => true
  | .stealProbeRound _ => true
  | .probeWaitExpiry _ => true
  | .remoteStealQuery _ => true
  | .stealReply _ => true
  | .messageDelivery => true
  | .msgLanded _ => true
  | .msgRefusal _ => true
  | .gridCheckDone _ => true
  | .prepassLocalDone _ => true
  | .rowRetirementDone _ => true
  | .pcMigrationDone _ => true
  | .cowWaitResume _ => true
  | .granuleZeroFillDone _ => true
  | .storeRoomLock _ => true
  | .updateStart _ => true
  | .updateComplete _ => true
  | .cuLd _ _ _ _ => true
  | .cuLdw _ _ _ _ => true
  | .cuSt _ _ _ _ => true
  | .cuStw _ _ _ _ => true
  | .cuMov _ _ _ _ => true
  | .cuAdd _ _ _ _ _ => true
  | .cuSub _ _ _ _ _ => true
  | .cuMul _ _ _ _ _ => true
  | .cuFma _ _ _ _ _ _ => true
  | .cuDiv _ _ _ _ _ => true
  | .cuSqrt _ _ _ _ => true
  | .cuMin _ _ _ _ _ => true
  | .cuMax _ _ _ _ _ => true
  | .cuNeg _ _ _ _ => true
  | .cuAbs _ _ _ _ => true
  | .cuSgn _ _ _ _ => true
  | .cuClt _ _ _ _ _ => true
  | .cuSel _ _ _ _ _ _ => true
  | .cuAxpby _ _ _ _ _ _ => true
  | .cuEmasq _ _ _ _ _ _ => true
  | .cuAdir _ _ _ _ _ _ => true
  | .cuEnd _ _ => true
  | .frontStageStart _ => true
  | .factorisationStart _ => true
  | .solverMatrixDone _ => true
  | .stepBegin _ => true
  | .stepCommit _ => true
  | .tlyRingTailWrite _ _ _ => true
  | .stepCloseContribute _ => true
  | .stepCloseAgreed _ => true
  | .replayStartAgreed _ => true
  | .auditCompare _ => true
  | .mtCopyCorrection _ => true
  | .exchangeRequestSend _ => true
  | .offScheduleRejoin => true
  | .ppsEdge => true
  | .ppsMissTimeout => true
  | .slotEntryWrite _ _ _ _ _ => true
  | .frameBoundary => true
  | .slotFrameSend _ _ => true
  | .slotOccurrenceStart _ _ => true
  | .markerSend _ => true
  | .markerReceive _ _ _ => true
  | .frameSlotArbitration _ => true
  | .retryTimeout _ _ => true
  | .laneLoss _ _ => true
  | .trainingAttemptEnd _ _ => true
  | .trainingRetryTimer _ => true
  | .presenceChange _ _ => true
  | .serviceButtonPress => true
  | .drainTimeout _ => true
  | .attnTrainedExpiry _ => true
  | .svcMarkWrite _ _ _ => true
  | .fiArm _ _ _ => true
  | .packetForward _ => true
  | .packetDeliver => true
  | .e2eAckSend _ => true
  | .e2eNakSend _ => true
  | .e2eResendTimeout _ => true
  | .destUnreachable _ => true
  | .collectiveStart => true
  | .collectiveComplete _ _ _ => true
  | .agreementComplete _ _ _ => true
  | .streamPageSend _ => true
  | .fsStreamChunk _ => true
  | .restoreComplete _ => true
  | .moveComplete => true
  | .savedTaskResume _ => true
  | .contextIdle _ => true
  | .stowComplete _ => true
  | .unstowComplete _ => true
  | .flr _ => true
  | .pcieHotReset => true
  | .mbInWrite _ _ _ => true
  | .mbGo _ _ => true
  | .mailboxTake _ => true
  | .mbOstatAck _ _ => true
  | .ringSqDoorbell _ _ _ => true
  | .ringCqDoorbell _ _ _ => true
  | .ringEnable _ _ _ => true
  | .commandTake => true
  | .commandComplete _ _ => true
  | .heartbeatTick => true
  | .mgmtWatchdogFailover => true
  | .standbyDead => true
  | .shedLevelEval _ => true
  | .logMirrorCopy => true
  | .mctpControlMessage _ _ _ => true
  | .jtagIdcode => true
  | .jtagSamplePreload _ => true
  | .jtagExtest _ => true
  | .jtagClamp => true
  | .jtagHighz => true
  | .jtagRegacc _ => true
  | .jtagBypass => true
  | .monitorWindow _ _ => true
  | .holdoverTimeout _ => true
  | .pllRelock _ => true
  | .soscTrim _ => true
  | .clkDomWrite _ _ _ => true
  | .atticMiscompare => true
  | .atticSelfCheckDone _ => true
  | .dieOvertemp _ _ => true
  | .dieResetRelease _ => true
  | .supplyLost _ => true
  | .railPresent _ => true
  | .dieIdleEntry _ => true
  | .coldStart _ => true
  | .perstRelease => true
  | .perstAssert => true
  | .firmwareAuthDone _ => true
  | .alertStuckDetect => true
  | .alertReleaseHigh => true
  | .trayAlert => true
  | .smbBusClear _ => true
  | .smbRetry _ => true
  | .alertMctp _ _ => true
  | .svcButtonStuck => true
  | .presenceFlap _ => true
  | .flowEntryReclaim _ => true
  | .holdoverErrorCrossesFourGuards => true
  | .flowHeldOver1Ms _ => true
  | .moveBeyond3Ms => true
  | .frameSlotShareWindowEnd _ => true
  | .soscReadyTimeout => true
  | .time10mLost => true
  | .time10mReturn => true
  | .presenceFlapEnd _ => true
  | .jtagTestLogicReset => true
  | .commandQueuedReply _ _ => true
  | .parkedExitComplete => true

end Sys2Proof
end

