-- ==== Sys2Proof/Safety.lean ====
section
/-! DEFINITION. What counts as a safe run, and the terms in which claims about commands are made: a machine whose waiting
commands are well formed goes on, what its state says of itself stays in order, and what a core that issues a bundle is
and leaves. -/

namespace Sys2Proof.Machine

/-- The step goes on. -/
def goesOn (s : State) : Prop := ∃ t, step s = .next t

/-- Every waiting command is well formed. -/
def queueOk (s : State) : Bool := s.pending.all Instr.wellFormed

/-- Device memory and host memory are in canonical form. -/
def memoryOk (s : State) : Bool := Memory.wf s.mem && Memory.wf s.host

/-! ## Issue of a bundle (R67, R68, R84, R85, R88) -/

/-- The state in which results due in a core's next cycle have landed (R69). -/
def landed (c : Nat) (s : State) : State :=
  match (coreOf s c).run with
  | none => s
  | some r => modCore c (fun q => landDue (constLines s r.task.slot) q.cyc q) s

/-- The core with the results due landed. -/
def landedCore (c : Nat) (s : State) : Core := coreOf (landed c s) c

/-- The core as a bundle's slots read it: its charged mover items have paid for what they move in the cycle (R88, R146). -/
def issuing (c : Nat) (s : State) : Core := payMovers (moverWant (landedCore c s)) (landedCore c s)

/-- The ticks that a core's mover items and its bundle demand of the pool in one cycle (R86). -/
def ticksOf (c : Nat) (b : Bundle) (s : State) : Nat := (moverWant (landedCore c s)).length + demandOf (landedCore c s) b

/-- The task that a core runs, if any. -/
def taskOf (c : Nat) (s : State) : Option Run := (coreOf s c).run

/-- The core runs an unfinished task of a running context, without an audit core, and no repeat, slow-path or token freeze
holds it. -/
def mayIssue (c : Nat) (s : State) : Bool :=
  match (coreOf s c).run with
  | none => false
  | some r =>
    !r.isAudit && r.audit.isNone && !r.ended && !(coreOf s c).moving && ctxState s r.task.slot == 1 &&
      (ctxOf s r.task.slot).isSome && !(coreOf s c).repeatDue && !slowNow (coreOf s c) && !(coreOf s c).tokenFrozen

/-- Every arrival point of the bundle is met (R80). -/
def arrived (c : Nat) (b : Bundle) (s : State) : Bool :=
  match (coreOf s c).run with
  | none => false
  | some r => arrivalOk (landed c s) c (landedCore c s) r b

/-- The pool of the core's die has the ticks that the cycle demands (R88). -/
def funded (c : Nat) (b : Bundle) (s : State) : Bool :=
  match (coreOf s c).run with
  | none => false
  | some r => match ctxOf s r.task.slot with
    | some x => decide (ticksOf c b s ≤ poolLeft x (dieOf c))
    | none => false

/-- The core issues bundle `b` in its next cycle: no freeze of R84 and no schedule fault of R85. -/
def issues (c : Nat) (b : Bundle) (s : State) : Bool :=
  mayIssue c s && arrived c b s && funded c b s && (faultOf (landedCore c s) b).isNone

/-- The state in which the cycle's ticks are spent and its core is shown as not frozen. -/
def charged (c : Nat) (b : Bundle) (s : State) : State :=
  match (coreOf s c).run with
  | none => s
  | some r => setCstat F.CORE_STAT.FRZ c 0 (spendTicks r.task.slot (dieOf c) (ticksOf c b s)
      (modCore c (payMovers (moverWant (landedCore c s))) (landed c s)))

/-- The pool of the core's die has the ticks that its charged mover items demand in the cycle (R84, R88). -/
def moversFunded (c : Nat) (s : State) : Bool :=
  match (coreOf s c).run with
  | none => false
  | some r => match ctxOf s r.task.slot with
    | some x => decide ((moverWant (landedCore c s)).length ≤ poolLeft x (dieOf c))
    | none => false

/-- The state of a core that waits at an arrival point of `b`: its charged mover items pay and go on, and a FENCE lets the shelf
writes in flight go on (R84, R476). -/
def atArrival (c : Nat) (b : Bundle) (s : State) : State :=
  match (coreOf s c).run with
  | none => s
  | some r =>
    (match b.ctl with | .fence _ => fenceDrain c | _ => id) (spendTicks r.task.slot (dieOf c) (moverWant (landedCore c s)).length
      (modCore c (payMovers (moverWant (landedCore c s))) (landed c s)))

/-- The state a core leaves that issues `b` when its slots only put the results `ps` in flight. -/
def issued (c : Nat) (b : Bundle) (ps : List Pend) (s : State) : State :=
  modCore c (fun k => advance (issuing c s) b.ctl { k with pend := k.pend ++ ps }) (charged c b s)

/-- A result in flight, usable `lat` schedule cycles later (R68). -/
def flight (k : Core) (slot lat : Nat) (w : Wb) : Pend := { due := k.cyc + lat, slot := slot, wb := w, slowLanes := [], slowCost := 0 }

/-- A bundle with nothing but a control slot. -/
def ctlB (i : Ctl) : Bundle := { Bundle.none with ctl := i }
/-- A bundle with nothing but a vector slot. -/
def vecB (v : Vec) : Bundle := { Bundle.none with vec := v }
/-- A bundle with nothing but a move slot. -/
def movB (m : Mov) : Bundle := { Bundle.none with mov := m }
/-- A bundle with nothing but a matrix slot. -/
def matB (m : Mat) : Bundle := { Bundle.none with mat := m }

/-- Command `i` completes as a control slot `u` of core `c` whose one result is `v` for register `xd` after `lat` cycles. -/
def givesX (i : Instr) (c : Nat) (u : Ctl) (lat xd : Nat) (v : DWord) (s : State) : Prop :=
  issues c (ctlB u) s = true → exec i s = .next (issued c (ctlB u) [flight (issuing c s) 0 lat (.x xd v)] s)

/-- A control slot that writes nothing and moves the core to `p`, with the loop stack `ls` and the pending branch `br`. -/
def goesTo (i : Instr) (c : Nat) (u : Ctl) (p : Nat) (ls : List (Nat × Nat × Nat)) (br : Option (Nat × Nat)) (s : State) : Prop :=
  issues c (ctlB u) s = true → exec i s = .next
    (modCore c (fun k => { k with cyc := k.cyc + 1, pc := p, loops := ls, branch := br }) (charged c (ctlB u) s))

/-- The result an element-wise vector slot puts in flight: `f` in every enabled lane, poisoned where a source is. -/
def laneFlight (k : Core) (r : Run) (v : Vec) (src : List Nat) (lat : Nat) (f : Nat → Word) : Pend :=
  flight k 1 lat (.v v.grp v.vd ((lanesOn k r v.grp v.mask).map (fun j => (j, f j, src.any (fun a => vPois k v.grp j a)))))

/-- Whether an enabled lane reads poison from one of the registers `src`. -/
def laneEats (k : Core) (r : Run) (v : Vec) (src : List Nat) : Bool :=
  (lanesOn k r v.grp v.mask).any (fun j => src.any (fun a => vPois k v.grp j a))

/-- Command `i` completes as a vector slot `v` of core `c` that puts `ps` in flight, and consumes poison where `eats`. -/
def givesV (i : Instr) (c : Nat) (v : Vec) (ps : List Pend) (eats : Bool) (s : State) : Prop :=
  issues c (vecB v) s = true → exec i s = .next
    (modCore c (advance (issuing c s) .nop)
      ((if eats then coreConsumes c else id) (modCore c (fun k => { k with pend := k.pend ++ ps }) (charged c (vecB v) s))))

/-- The tree of R135 over the `2 ^ d` leaves from `lo` on: an absent child passes its sibling through. -/
def sumTree (leaf : Nat → Option Word) : Nat → Nat → Option Word
  | 0, lo => leaf lo
  | d + 1, lo => match sumTree leaf d lo, sumTree leaf d (lo + 2 ^ d) with
    | none, y => y
    | x, none => x
    | some x, some y => some (fAdd x y)

/-- A vector slot with no modifier. -/
def vec3 (op : VOp) (g : LaneSel) (vd va vb : VReg) : Vec :=
  { Vec.none with op := op, grp := g.grp.toNat, mask := g.mask.toNat, vd := vd.toNat, va := va.toNat, vb := vb.toNat }

/-- Command `i` completes as a function of R126: the fast lanes' results and the slow lanes named with their cycles. -/
def givesFun (i : Instr) (c : Nat) (op : VOp) (g : LaneSel) (vd va : VReg) (f : FunKind) (lat : Nat) (s : State) : Prop :=
  ∀ r, (coreOf s c).run = some r →
    let v := vec3 op g vd va 0
    let k := issuing c s
    let slow := (lanesOn k r v.grp v.mask).filter (fun j => (fFun f (vGet k v.grp j v.va)).2)
    givesV i c v
      [{ laneFlight k r v [v.va] lat (fun j => (fFun f (vGet k v.grp j v.va)).1) with
          slowLanes := slow, slowCost := slow.length * slowCycles f }]
      (laneEats k r v [v.va]) s

/-! ## Tasks -/

/-- Whether poison that a collective of step `t` consumes is only marked on the step: its reduction moves data only, or the step
belongs to several devices and is not being replayed (R369, R374). -/
def poisonMarks (s : State) (red slot : Nat) (t : DWord) : Prop :=
  4 ≤ red ∨ (multiDevice s slot = true ∧ ∀ x e, ctxOf s slot = some x → stepSt? x t = some e → e.replayed = false)

/-- A core that has just started task `t` (R156): its registers, masks, tiles and arrival slots empty, at the entry bundle. -/
def startedTask (c : Nat) (t : Task) (stolen : Bool) (s : State) : Prop :=
  ∃ r, taskOf c s = some r ∧ r.task = t ∧ r.stolen = stolen ∧ r.ended = false ∧ r.isAudit = false ∧
    (coreOf s c).pc = t.desc.entry ∧ (coreOf s c).x = [] ∧ (coreOf s c).v = [] ∧ (coreOf s c).k = [] ∧ (coreOf s c).arr = [] ∧
    (coreOf s c).tiles = [] ∧ (coreOf s c).md = [] ∧ (coreOf s c).shelfMark = [] ∧ cstat s F.CORE_STAT.STATE c = 2

/-- Whether a context's image draws with RNGL, so that a task start reads lane states (R221). -/
def drawsLanes (s : State) (slot : Nat) : Bool :=
  match ctxOf s slot with
  | some x => (match x.image with | some im => im.usesRngl | none => false)
  | none => false

/-! ## Ports -/

/-- The last flit of a port's queue of VC0 is the one-flit packet of `body`, put behind what waited before. -/
def queuedVc0 (p : Nat) (body : List Byte) (s t : State) : Prop :=
  (txVc (portOf t p) 0).queue = (txVc (portOf s p) 0).queue ++ [vc0Flit body]

/-- A control packet of VC0 toward node `dst` is queued on the port of its route, if it has one (R275, R310). -/
def ctlSent (dst : Nat) (body : List Byte) (s t : State) : Prop :=
  ∀ p, route s dst true { src := BitVec.ofNat 14 (ownNode s), dst := BitVec.ofNat 14 dst, vc := 0, flow := 0 } = some p →
    queuedVc0 p (padTo 124 body ++ leBytes 2 dst ++ leBytes 2 (ownNode s)) s t

/-- A device that starts again with its attic kept, in `phase` of a start-up (R455, R456, R459): every register outside the
attic at its reset value, no context, core, port, log entry or byte of device memory kept, machine time going on; what lies
outside the device stays. -/
def restarted (phase : Nat) (s t : State) : Prop :=
  fget t F.BOOT_STAT.PHASE = phase ∧ t.time.now = s.time.now ∧ (∀ p, p < 36 → fbit t F.LNK_HP.PRESENT p = fbit s F.LNK_HP.PRESENT p) ∧
  (∀ r ∈ [Reg.CLK_SOSC, .ATTIC_STAT, .ATTIC_WAKE, .SB_STAT, .SB_CTRL], rget t r = rget s r) ∧
  (∀ f ∈ [F.CLK_SRC_STAT.READY_A, F.CLK_SRC_STAT.READY_B, F.CLK_SRC_STAT.READY_S], fbit t f = fbit s f) ∧
  (∀ r i j, r ∉ atticRegs → r ≠ .BOOT_STAT → r ≠ .CLK_SRC_STAT → r ≠ .LNK_HP → rget t r i j = rget State.reset r i j) ∧
  t.ctxs = [] ∧ t.cores = [] ∧ t.ports = [] ∧ t.cctxs = [] ∧ t.colls = [] ∧ t.mem = [] ∧ t.memPoison = [] ∧ t.logBuf = [] ∧
  t.mgmt = State.reset.mgmt ∧ t.pending = s.pending ∧ t.host = s.host ∧ t.hostPoison = s.hostPoison ∧ t.wear = s.wear

/-- The state a port takes when it enters TRAINING: OFF where its role is 0 or its die is held in reset (R285). -/
def trainState (s : State) (p : Nat) : Nat :=
  if bitsOf (rget s .LNK_CFG p).toNat 31 30 = 0 || 3 ≤ fget s F.DIE_PWR.STATE (portDie p) then 0 else 2

/-! ## Register accesses -/

/-- Registers of whose writes the S8 judges the value, or that have an effect of their own (R5, R340, R363, R404, R432, R445). -/
def actingRegs : List Reg :=
  [.SLOT_ENT_A, .SLOT_ENT_B, .CLK_DOM, .RT_PWT, .CLK_JUDGE, .CKP_CFG, .STR_BUDDY_BASE, .STR_BUDDY_CFG, .TEN_STOW_BASE,
   .TEN_STOW_CFG, .TEN_REBIND_BASE, .LOG_CFG, .FI_CTRL, .LNK_HP, .SB_CTRL, .MT_CTRL, .MT_ASYM, .RNG_SRKEY_LO, .RNG_SRKEY_HI,
   .RNG_LSKEY_LO, .RNG_LSKEY_HI, .RNG_LS_BASE, .RNG_LS_CNT, .RPR_CFG, .RPR_TLY_BASE]

/-- A write by `o` to a register reaches it: it has the right, meets no lock, and the log takes its entry (R407, R428, R433). -/
def mayWrite (o : Origin) (r : Reg) (i j : Nat) (s : State) : Prop :=
  (rights s o r i j).2 = true ∧ lockedFor s o r i j = false ∧ 64 < logFree s

/-- Every register but the one at `off` and the log's sequence number reads the same before and after. -/
def othersKept (off : Nat) (s t : State) : Prop :=
  ∀ r i j, regOff r i j ≠ off → regOff r i j ≠ regOff .LOG_SEQ 0 0 → rget t r i j = rget s r i j

/-! ## Commands of R421 -/

/-- A packet with the opcode of its command. -/
def asOp (op : Nat) (pk : Packet) : Packet := { pk with opcode := BitVec.ofNat 16 op }

/-- The state in which a command that names a bound context runs: the context is active (R398). -/
def naming (pk : Packet) (s : State) : State :=
  match boundSlot s pk.ctx.toNat with
  | some k => if pk.ctx = 0xFFFF then s else touchCtx k s
  | none => s

/-- Whether the log has room for the entries that a command makes (R433). -/
def logRoom (src : CmdSrc) (pk : Packet) (s : State) : Prop :=
  let s1 := addTaken (Taken.fresh src pk) (naming pk s)
  entersLog pk = false ∨
  match handler src pk (extOf s pk) s1 with
  | .done _ _ t => 1 + (changedRegs s1 t).length + laterEntries (naming pk s) pk + 64 ≤ logFree s
  | .running _ t => 1 + (changedRegs s1 t).length + laterEntries (naming pk s) pk + 64 ≤ logFree s
  | .own _ _ => 66 ≤ logFree s
  | .after _ => 65 ≤ logFree s
  | _ => True

/-- A command runs when it is taken: the device is not in Attic-only, no check that R421 makes before the opcode's own refuses it,
no context that it names is stowed or on its way, and the log has room. -/
def servedNow (src : CmdSrc) (pk : Packet) (s : State) : Prop :=
  fget s F.PWR_STAT.STATE ≠ 2 ∧ (∃ sp, opSpec pk.opcode.toNat = some sp ∧ screen sp s src pk = stOk) ∧
    namedStowed s pk = none ∧ namesStowing s pk = false ∧ logRoom src pk s

/-- Command `i`, of packet `pk`, is done with status `st` and answered; `post` says of its result words and of the state in which
the answer is given what the command did. -/
def answers (i : Instr) (src : CmdSrc) (pk : Packet) (st : Nat) (s : State) (post : List Word → State → Prop) : Prop :=
  servedNow src pk s → ∃ u ys, exec i s = .next (answer (Taken.fresh src pk) st ys u) ∧ post ys u

/-- Command `i`, of packet `pk`, runs; `post` says what holds once it has begun. -/
def runsOn (i : Instr) (src : CmdSrc) (pk : Packet) (s : State) (post : State → Prop) : Prop :=
  servedNow src pk s → ∃ t, exec i s = .next t ∧ post t

/-- A command that changes only the context it names: `f` is what the context becomes. -/
def ctxBecomes (k : Nat) (x : Ctx) (f : Ctx → Ctx) (s u : State) : Prop :=
  ctxOf u k = some (f { x with lastActive := s.time.now }) ∧ u.mem = s.mem ∧ u.cores = s.cores

/-! ## Counters -/

/-- A counter field grew by `n` from `s` to `t`, saturating at its width (R5). -/
def counted (f : Fld) (i j n : Nat) (s t : State) : Prop :=
  fget t f i j = satTo (2 ^ (f.hi + 1 - f.lo) - 1) (fget s f i j + n)

/-! ## What a command can reach -/

/-- Commands that may write device memory: those that store, reads that find wrong bytes, the frames, packets and replies that
carry stores with them, and the register writes that may add to the log (R189, R292, R432). -/
def mayStore : Instr → Bool
  | .regWrite .. | .moverItemComplete .. | .taskEnd .. | .cellarRead .. | .scrubLine .. | .cellarWrite .. | .cowWaitResume .. | .granuleZeroFillDone ..
  | .storeRoomLock .. | .updateComplete .. | .solverMatrixDone .. | .stepBegin .. | .stepCommit .. | .tlyRingTailWrite ..
  | .stepCloseContribute .. | .replayStartAgreed .. | .slotEntryWrite .. | .svcMarkWrite .. | .fiArm .. | .frameReceive .. | .slotFrameReceive ..
  | .packetDeliver .. | .collectiveStart .. | .collectiveComplete .. | .buddyStreamReceive .. | .restoreComplete ..
  | .stowComplete .. | .unstowComplete .. | .flr .. | .mbInWrite .. | .mbGo .. | .mailboxTake .. | .mbOstatAck ..
  | .ringSqDoorbell .. | .ringCqDoorbell .. | .ringEnable .. | .commandTake .. | .commandComplete .. | .memWrite ..
  | .logMirrorCopy .. | .mctpRequest .. | .jtagRegacc .. | .clkDomWrite .. | .coldStart .. | .perstRelease ..
  | .perstAssert .. | .smbRetry .. | .alertMctp .. => true
  | _ => false

/-- Commands that write nothing to host memory. -/
def keepsHost : Instr → Bool
  | .rcRead .. | .mtNowLoRead .. | .tokenWindowStart .. | .slowPathDue .. | .slowPathDone .. | .shelfClear ..
  | .overflowRingRefill .. | .probeWaitExpiry .. | .remoteStealQuery .. | .msgLanded ..
  | .cellarRead .. | .rowRetirementDone .. | .pcMigrationDone .. | .cellarWrite .. | .cowWaitResume .. | .scrubLine ..
  | .granuleZeroFillDone .. | .cuSt .. | .cuStw .. | .cuMov .. | .cuAdd .. | .cuSub .. | .cuMul .. | .cuFma .. | .cuDiv ..
  | .cuSqrt .. | .cuMin .. | .cuMax .. | .cuNeg .. | .cuAbs .. | .cuSgn .. | .cuClt .. | .cuSel .. | .cuAxpby ..
  | .cuEmasq .. | .cuAdir .. | .cuEnd .. | .frontStageStart .. | .factorisationStart .. | .marginRunStart ..
  | .marginRunDone .. | .mtCopyCorrection .. | .exchangeRequestSend .. | .exchangeRequestReceive ..
  | .exchangeReplyReceive .. | .offScheduleRejoin .. | .ppsEdge .. | .ppsMissTimeout .. | .frameBoundary ..
  | .slotFrameSend .. | .slotFrameReceive .. | .slotOccurrenceStart .. | .frameReceive .. | .markerSend ..
  | .markerReceive .. | .frameSlotArbitration .. | .retryTimeout .. | .laneLoss .. | .trainingAttemptEnd ..
  | .trainingRetryTimer .. | .presenceChange .. | .serviceButtonPress .. | .drainTimeout .. | .attnTrainedExpiry ..
  | .e2eAckSend .. | .e2eNakSend .. | .e2eNakReceive .. | .e2eResendTimeout .. | .agreementComplete ..
  | .buddyStreamReceive .. | .savedTaskResume .. | .pcieHotReset .. | .heartbeatTick .. | .shedLevelEval ..
  | .logMirrorCopy .. | .mctpControlMessage .. | .jtagIdcode .. | .jtagSamplePreload .. | .jtagExtest .. | .jtagClamp ..
  | .jtagHighz .. | .jtagBypass .. | .monitorWindow .. | .pllRelock .. | .soscTrim .. | .atticMiscompare ..
  | .atticSelfCheckDone .. | .throttleTick .. | .dieResetRelease .. | .railPresent .. | .dieIdleEntry ..
  | .startupPhaseComplete .. | .firmwareAuthDone .. | .alertStuckDetect .. | .alertReleaseHigh .. | .trayAlert ..
  | .smbBusClear .. | .svcButtonStuck .. | .presenceFlap .. | .flowEntryReclaim .. | .holdoverErrorCrossesFourGuards ..
  | .flowHeldOver1Ms .. | .moveBeyond3Ms .. | .frameSlotShareWindowEnd .. | .soscReadyTimeout .. | .time10mLost ..
  | .time10mReturn .. | .presenceFlapEnd .. | .jtagTestLogicReset .. => true
  | _ => false

/-- Commands that leave every core as it is. -/
def keepsCores : Instr → Bool
  | .rcRead .. | .mtNowLoRead .. | .overflowRingRefill .. | .cellarRead .. | .rowRetirementDone .. | .pcMigrationDone ..
  | .cellarWrite .. | .cowWaitResume .. | .scrubLine .. | .granuleZeroFillDone .. | .cuSt .. | .cuStw .. | .cuMov ..
  | .cuAdd .. | .cuSub .. | .cuMul .. | .cuFma .. | .cuDiv .. | .cuSqrt .. | .cuMin .. | .cuMax .. | .cuNeg .. | .cuAbs ..
  | .cuSgn .. | .cuClt .. | .cuSel .. | .cuAxpby .. | .cuEmasq .. | .cuAdir .. | .cuEnd .. | .frontStageStart ..
  | .factorisationStart .. | .mtCopyCorrection .. | .exchangeRequestSend .. | .exchangeRequestReceive ..
  | .exchangeReplyReceive .. | .offScheduleRejoin .. | .ppsEdge .. | .ppsMissTimeout .. | .frameBoundary ..
  | .slotFrameSend .. | .slotFrameReceive .. | .slotOccurrenceStart .. | .frameReceive .. | .markerSend ..
  | .markerReceive .. | .frameSlotArbitration .. | .retryTimeout .. | .laneLoss .. | .trainingAttemptEnd ..
  | .trainingRetryTimer .. | .presenceChange .. | .serviceButtonPress .. | .drainTimeout .. | .attnTrainedExpiry ..
  | .e2eAckSend .. | .e2eNakSend .. | .e2eAckReceive .. | .e2eNakReceive .. | .e2eResendTimeout .. | .streamPageSend ..
  | .buddyStreamReceive .. | .fsStreamChunk .. | .restoreComplete .. | .pcieHotReset .. | .nopCmd .. | .getInfo ..
  | .readEvents .. | .readLog .. | .regAccess .. | .telemetry .. | .fnQuota .. | .holdRegister .. | .memMap ..
  | .memRead .. | .memWrite .. | .replay .. | .resume .. | .ucodeLoad .. | .updDeregister .. | .solvRegister ..
  | .solvDeregister .. | .cctxCreate .. | .cctxDestroy .. | .timeSet .. | .portRetrain .. | .portUnlock .. | .fsRing ..
  | .checkpoint .. | .lockSet .. | .debugChallenge .. | .debugUnlock .. | .debugLock .. | .setPower .. | .failover ..
  | .heartbeatTick .. | .mgmtWatchdogFailover .. | .standbyDead .. | .shedLevelEval .. | .logMirrorCopy ..
  | .mctpControlMessage .. | .jtagIdcode .. | .jtagSamplePreload .. | .jtagExtest .. | .jtagClamp .. | .jtagHighz ..
  | .jtagBypass .. | .monitorWindow .. | .pllRelock .. | .soscTrim .. | .atticMiscompare .. | .atticSelfCheckDone ..
  | .throttleTick .. | .railPresent .. | .dieIdleEntry .. | .firmwareAuthDone .. | .alertStuckDetect ..
  | .alertReleaseHigh .. | .trayAlert .. | .smbBusClear .. | .svcButtonStuck .. | .presenceFlap .. | .flowEntryReclaim ..
  | .holdoverErrorCrossesFourGuards .. | .flowHeldOver1Ms .. | .moveBeyond3Ms .. | .frameSlotShareWindowEnd ..
  | .soscReadyTimeout .. | .time10mLost .. | .time10mReturn .. | .presenceFlapEnd .. | .jtagTestLogicReset ..
  | .commandQueuedReply .. => true
  | _ => false

/-- Commands that leave every context as it is. -/
def keepsCtxs : Instr → Bool
  | .rcRead .. | .mtNowLoRead .. | .slowPathDue .. | .slowPathDone .. | .shelfClear .. | .probeWaitExpiry ..
  | .msgLanded .. | .rowRetirementDone .. | .pcMigrationDone .. | .cellarWrite .. | .cowWaitResume ..
  | .granuleZeroFillDone .. | .cuSt .. | .cuStw .. | .cuMov .. | .cuAdd .. | .cuSub .. | .cuMul .. | .cuFma .. | .cuDiv ..
  | .cuSqrt .. | .cuMin .. | .cuMax .. | .cuNeg .. | .cuAbs .. | .cuSgn .. | .cuClt .. | .cuSel .. | .cuAxpby ..
  | .cuEmasq .. | .cuAdir .. | .cuEnd .. | .frontStageStart .. | .factorisationStart .. | .marginRunStart ..
  | .marginRunDone .. | .mtCopyCorrection .. | .exchangeRequestSend .. | .exchangeRequestReceive ..
  | .exchangeReplyReceive .. | .offScheduleRejoin .. | .ppsEdge .. | .ppsMissTimeout .. | .frameBoundary ..
  | .slotFrameSend .. | .slotFrameReceive .. | .slotOccurrenceStart .. | .frameReceive .. | .markerSend ..
  | .markerReceive .. | .frameSlotArbitration .. | .retryTimeout .. | .laneLoss .. | .trainingRetryTimer ..
  | .presenceChange .. | .serviceButtonPress .. | .drainTimeout .. | .attnTrainedExpiry .. | .e2eAckSend ..
  | .e2eNakSend .. | .e2eNakReceive .. | .e2eResendTimeout .. | .buddyStreamReceive ..
  | .pcieHotReset .. | .heartbeatTick .. | .mgmtWatchdogFailover .. | .standbyDead .. | .shedLevelEval ..
  | .logMirrorCopy .. | .mctpControlMessage .. | .jtagIdcode .. | .jtagSamplePreload .. | .jtagExtest .. | .jtagClamp ..
  | .jtagHighz .. | .jtagBypass .. | .monitorWindow .. | .pllRelock .. | .soscTrim .. | .atticMiscompare ..
  | .atticSelfCheckDone .. | .throttleTick .. | .dieResetRelease .. | .railPresent .. | .dieIdleEntry ..
  | .firmwareAuthDone .. | .alertStuckDetect .. | .alertReleaseHigh .. | .trayAlert .. | .smbBusClear ..
  | .svcButtonStuck .. | .presenceFlap .. | .flowEntryReclaim .. | .holdoverErrorCrossesFourGuards ..
  | .flowHeldOver1Ms .. | .moveBeyond3Ms .. | .frameSlotShareWindowEnd .. | .soscReadyTimeout .. | .time10mLost ..
  | .time10mReturn .. | .presenceFlapEnd .. | .jtagTestLogicReset .. | .commandQueuedReply .. | .parkedExitComplete .. => true
  | _ => false

/-- Commands that leave every register as it is. -/
def keepsRegs : Instr → Bool
  | .shelfClear .. | .probeWaitExpiry .. | .remoteStealQuery .. | .msgLanded .. | .cowWaitResume .. | .cuSt .. | .cuStw ..
  | .cuMov .. | .cuAdd .. | .cuSub .. | .cuMul .. | .cuFma .. | .cuDiv .. | .cuSqrt .. | .cuMin .. | .cuMax .. | .cuNeg ..
  | .cuAbs .. | .cuSgn .. | .cuClt .. | .cuSel .. | .cuAxpby .. | .cuEmasq .. | .cuAdir .. | .cuEnd ..
  | .factorisationStart .. | .mtCopyCorrection .. | .exchangeRequestSend .. | .slotOccurrenceStart .. | .e2eAckSend ..
  | .e2eNakSend .. | .agreementComplete .. | .jtagIdcode .. | .jtagSamplePreload .. | .jtagExtest .. | .jtagClamp ..
  | .jtagHighz .. | .jtagBypass .. | .atticMiscompare .. | .railPresent .. | .flowEntryReclaim .. | .time10mLost ..
  | .time10mReturn .. | .presenceFlapEnd .. | .jtagTestLogicReset .. => true
  | _ => false

/-! ## Slot forms that the spec reserves (R70, R131, R171, R175, R217) -/

/-- Slot commands of which some operands are reserved. -/
def reservable : Instr → Bool
  | .loopOp .. | .fence .. | .spawn .. | .rdobs .. | .vlidx .. | .fcmp .. | .cvtin .. | .cvtout .. | .rsuma .. | .rmaxi ..
  | .rmini .. | .rngi .. | .rngl .. | .ldv .. | .stv .. | .mdl .. => true
  | _ => false

end Sys2Proof.Machine
end

