-- ==== Sys2Proof/Certificates/Slice0/Obligations.lean ====
section
/-! DEFINITION. The statements for the provers. -/

open Sys2Proof Sys2Proof.Machine

/-- A step takes the command at the front of the queue: it is that command's effect on the state with the rest of the queue.
What the spec leaves open of this is the model's choice: log entry 1. -/
def Obligations.StepTakesFront : Prop :=
  ∀ (i : Instr) (rest : List Instr) (s : State), s.pending = i :: rest → step s = exec i { s with pending := rest }

/-- The twelve register operations and the four immediate operations of the control slot (R71): each puts its result in
flight with the latency of R68 and moves its core to the next bundle. -/
def Obligations.ScalarArithmetic : Prop :=
  ∀ (c : CoreId) (xd xa xb : XReg) (imm : Imm16) (s : State),
    let a := xGet (issuing c.val s) xa.toNat
    let b := xGet (issuing c.val s) xb.toNat
    let alu := fun (i : Instr) (op : AluOp) (lat : Nat) (v : DWord) =>
      givesX i c.val (.alu op xd.toNat xa.toNat xb.toNat) lat xd.toNat v s
    alu (.add c xd xa xb) .add 1 (a + b) ∧
    alu (.sub c xd xa xb) .sub 1 (a - b) ∧
    alu (.andOp c xd xa xb) .and 1 (a &&& b) ∧
    alu (.orOp c xd xa xb) .or 1 (a ||| b) ∧
    alu (.xorOp c xd xa xb) .xor 1 (a ^^^ b) ∧
    alu (.shl c xd xa xb) .shl 1 (a <<< (b.toNat % 64)) ∧
    alu (.shr c xd xa xb) .shr 1 (a >>> (b.toNat % 64)) ∧
    alu (.sra c xd xa xb) .sra 1 (a.sshiftRight (b.toNat % 64)) ∧
    alu (.mul c xd xa xb) .mul 3 (a * b) ∧
    alu (.cmplt c xd xa xb) .cmplt 1 (if a.slt b then 1 else 0) ∧
    alu (.cmpltu c xd xa xb) .cmpltu 1 (if a < b then 1 else 0) ∧
    alu (.cmpeq c xd xa xb) .cmpeq 1 (if a = b then 1 else 0) ∧
    givesX (.addi c xd xa imm) c.val (.addi xd.toNat xa.toNat imm.toNat) 1 xd.toNat (a + imm.signExtend 64) s ∧
    givesX (.li c xd imm) c.val (.li xd.toNat imm.toNat) 1 xd.toNat (imm.signExtend 64) s ∧
    givesX (.shli c xd xa imm) c.val (.shli xd.toNat xa.toNat imm.toNat) 1 xd.toNat (a <<< (imm.toNat % 64)) s ∧
    givesX (.lih c xd xa imm) c.val (.lih xd.toNat xa.toNat imm.toNat) 1 xd.toNat ((a <<< 16) ||| imm.zeroExtend 64) s

/-- The control slot's reads of the task and the device (R71, R155, R171, R176): the logical index base, the bound core
count, a task parameter, and an observation, which in a portable context is counted and flags the step (R29). -/
def Obligations.ScalarReads : Prop :=
  ∀ (c : CoreId) (xd : XReg) (imm : Imm16) (s : State) (r : Run) (x : Ctx),
    (coreOf s c.val).run = some r → ctxOf s r.task.slot = some x →
    givesX (.lidx c xd imm) c.val (.lidx xd.toNat imm.toNat) 1 xd.toNat (dw ((r.task.desc.lbase.toNat + imm.toNat) % 2 ^ 40)) s ∧
    givesX (.rdcnt c xd) c.val (.rdcnt xd.toNat) 1 xd.toNat (dw (boundCount x)) s ∧
    givesX (.rdpar c xd imm) c.val (.rdpar xd.toNat imm.toNat) 1 xd.toNat
      (dw (r.task.desc.params.getD (imm.toNat % 32) 0).toNat) s ∧
    (obsSelectors.contains imm.toNat = true → portable s r.task.slot = false →
      givesX (.rdobs c xd imm) c.val (.rdobs xd.toNat imm.toNat) 2 xd.toNat
        (obsValue (charged c.val (ctlB (.rdobs xd.toNat imm.toNat)) s) c.val (issuing c.val s) r imm.toNat) s) ∧
    (obsSelectors.contains imm.toNat = true → portable s r.task.slot = true →
      issues c.val (ctlB (.rdobs xd.toNat imm.toNat)) s = true → ∃ t, exec (.rdobs c xd imm) s = .next t ∧
        fget t F.RPR_OBS_COUNT.COUNT r.task.slot = satTo (2 ^ 32 - 1) (fget s F.RPR_OBS_COUNT.COUNT r.task.slot + 1) ∧
        fbit t F.RPR_STAT.OBS r.task.slot = true ∧
        (coreOf t c.val).pend = (issuing c.val s).pend ++ [flight (issuing c.val s) 0 2 (.x xd.toNat
          (obsValue (charged c.val (ctlB (.rdobs xd.toNat imm.toNat)) s) c.val (issuing c.val s) r imm.toNat))])

/-- Branches (R72): a taken branch takes effect after two more bundles, a branch not taken only moves on, and LOOP opens a
body that ends at its offset and runs max(Xa, 1) times. A slot the load would refuse never issues. What the spec leaves open
of this is the model's choice: log entries 64 and 65. -/
def Obligations.Branches : Prop :=
  ∀ (c : CoreId) (xa : XReg) (off : Off21) (s : State),
    let k := issuing c.val s
    let dest := ((k.pc : Int) + off.toInt).toNat
    let n := (loopStep k.pc k.loops).1
    let ls := (loopStep k.pc k.loops).2
    let on := xGet k xa.toNat = 0
    goesTo (.br c off) c.val (.br off.toInt) n ls (some (2, dest)) s ∧
    (on → goesTo (.bz c xa off) c.val (.bz xa.toNat off.toInt) n ls (some (2, dest)) s) ∧
    (¬ on → k.branch = none → goesTo (.bz c xa off) c.val (.bz xa.toNat off.toInt) n ls none s) ∧
    (¬ on → goesTo (.bnz c xa off) c.val (.bnz xa.toNat off.toInt) n ls (some (2, dest)) s) ∧
    (on → k.branch = none → goesTo (.bnz c xa off) c.val (.bnz xa.toNat off.toInt) n ls none s) ∧
    (1 ≤ off.toInt → k.branch = none →
      let l := loopStep k.pc ((k.pc + 1, dest, max (xGet k xa.toNat).toNat 1) :: k.loops)
      goesTo (.loopOp c xa off) c.val (.loop xa.toNat off.toInt) l.1 l.2 none s) ∧
    (off.toInt < 1 → exec (.loopOp c xa off) s = .refused .reservedForm)

/-- The arrival points, the repeat point, END, SPAWN and a fetched bundle (R67, R80, R83, R84, R85, R88, R158, R160). WAIT
and FENCE only move on once what they wait for is complete; MARK saves the state a repeat resumes with; END frees nothing
yet but ends the task; SPAWN places its descriptor on the queue that its immediate selects, or in the gate pool;
BUNDLE_ISSUE runs the four slots of the bundle at the program counter. What the spec leaves open of this is the model's
choice: log entries 31, 66 and 67. -/
def Obligations.ControlPoints : Prop :=
  ∀ (c : CoreId) (s : State),
    let k := issuing c.val s
    (∀ (half : Bool) (mask : Imm16), issues c.val (ctlB (.wait half mask.toNat)) s = true →
      exec (.waitOp c half mask) s = .next (issued c.val (ctlB (.wait half mask.toNat)) [] s)) ∧
    (∀ imm : Imm16, imm.toNat % 4 ≠ 3 → issues c.val (ctlB (.fence imm.toNat)) s = true →
      exec (.fence c imm) s = .next (issued c.val (ctlB (.fence imm.toNat)) [] s)) ∧
    (∀ imm : Imm16, imm.toNat % 4 = 3 → exec (.fence c imm) s = .refused .reservedForm) ∧
    (issues c.val (ctlB .mark) s = true → ∃ t r q, exec (.markOp c) s = .next t ∧ taskOf c.val s = some r ∧
      taskOf c.val t = some q ∧ q.repeatPc = (coreOf t c.val).pc ∧ q.repeatX = k.x ∧ q.repeatLoops = (coreOf t c.val).loops ∧
      q.unsafeRegion = false ∧ q.regionTens = [] ∧ q.tens = joinAccs r.tens r.regionTens ∧
      q.taskTally = r.taskTally + r.regionTally) ∧
    (issues c.val (ctlB .fin) s = true → ∃ t, exec (.endTask c) s = .next t ∧
      taskOf c.val t = (taskOf c.val s).map (fun r => { r with ended := true })) ∧
    (∀ (xa : XReg) (imm : Imm16) (r : Run) (x : Ctx) (im : Image),
      let b := ctlB (.spawn xa.toNat imm.toNat)
      let u := charged c.val b s
      let g := shelfGet u c.val ((xGet k xa.toNat).toNat / 64 * 64) 192
      let d := taskDescOf g.bytes
      let l := if imm.toNat % 4 = 2 then d.target else (lcoreOf x c.val).getD r.task.home
      let task : Task := { desc := d, slot := r.task.slot, step := r.task.step, home := l, tried := [], saved := none, poison := false
                           posted := false }
      imm.toNat % 4 ≠ 3 → issues c.val b s = true → taskOf c.val s = some r → ctxOf u r.task.slot = some x →
      x.image = some im → g.poison = false → g.bad = none → taskDescOk im.code.length g.bytes = true →
      (imm.toNat % 4 = 2 → d.target < boundCount x) → taskFits x l (decide (imm.toNat % 4 = 1)) = true →
      ∃ t, exec (.spawn c xa imm) s = .next t ∧ ctxOf t r.task.slot = some
        (if gateOpen x task then queueTask l (imm.toNat % 4 = 1) task x
          else gateTask l (imm.toNat % 4 = 1) task x)) ∧
    (∀ b, fetch s (coreOf s c.val) = some b → issues c.val b s = true →
      exec (.bundleIssue c) s = .next (bundleGo c.val b (charged c.val b s)))

/-- What keeps a core from issuing, by R84, R85 and R88: a pool without the ticks of the cycle freezes it, its charged
movers paused; an arrival point that is not met freezes it while its movers go on; then a schedule fault fails its task. No
slot takes effect. What the spec leaves open of this is the model's choice: log entry 31. -/
def Obligations.IssueFreezes : Prop :=
  ∀ (c : CoreId) (b : Bundle) (s : State), mayIssue c.val s = true → fetch s (coreOf s c.val) = some b →
    (arrived c.val b s = false →
      moversFunded c.val s = true →
      exec (.bundleIssue c) s = .next (freezeCycle c.val 1 F.CORE_FRZ_ARR.CYCLES (atArrival c.val b s))) ∧
    (arrived c.val b s = true → funded c.val b s = false → ∃ t, exec (.bundleIssue c) s = .next t ∧
      (coreOf t c.val).tokenFrozen = true ∧ (coreOf t c.val).pc = (issuing c.val s).pc ∧ (coreOf t c.val).x = (issuing c.val s).x ∧
      (coreOf t c.val).engines = (landedCore c.val s).engines ∧
      fget t F.TOK_EXCESS.TICKS (dieOf c.val) = satTo (2 ^ 32 - 1)
        (fget s F.TOK_EXCESS.TICKS (dieOf c.val) + ticksOf c.val b s)) ∧
    (∀ code, arrived c.val b s = true → funded c.val b s = true → faultOf (landedCore c.val s) b = some code →
      exec (.bundleIssue c) s = .next (schedFault c.val code (landed c.val s)))

/-- The integer operations of the vector slot (R64, R65, R73): every enabled lane's result, with the poison its sources
carry, is in flight with the latency of R73; a disabled lane is not among those written. VMOV copies poison and consumes
none. -/
def Obligations.VectorInteger : Prop :=
  ∀ (c : CoreId) (g : LaneSel) (vd va vb : VReg) (xa : XReg) (kn : BitVec 3) (s : State) (r : Run),
    taskOf c.val s = some r →
    let k := issuing c.val s
    let grp := g.grp.toNat
    let a := fun (j : Nat) => vGet k grp j va.toNat
    let b := fun (j : Nat) => vGet k grp j vb.toNat
    let two := fun (i : Instr) (op : VOp) (f : Nat → Word) =>
      let v := vec3 op g vd va vb
      givesV i c.val v [laneFlight k r v [v.va, v.vb] 1 f] (laneEats k r v [v.va, v.vb]) s
    let on := lanesOn k r grp g.mask.toNat
    let th := fun (j : Nat) => threadIdx r (64 * grp + j)
    givesV (.vmov c g vd va) c.val (vec3 .vmov g vd va 0)
      [laneFlight k r (vec3 .vmov g vd va 0) [va.toNat] 1 a] false s ∧
    two (.vand c g vd va vb) .vand (fun j => a j &&& b j) ∧
    two (.vor c g vd va vb) .vor (fun j => a j ||| b j) ∧
    two (.vxor c g vd va vb) .vxor (fun j => a j ^^^ b j) ∧
    two (.viadd c g vd va vb) .viadd (fun j => a j + b j) ∧
    two (.visub c g vd va vb) .visub (fun j => a j - b j) ∧
    two (.vshl c g vd va vb) .vshl (fun j => a j <<< ((b j).toNat % 32)) ∧
    two (.vshr c g vd va vb) .vshr (fun j => a j >>> ((b j).toNat % 32)) ∧
    (let v := { vec3 .vsel g vd va vb with md := kn.toNat };
      givesV (.vsel c g vd va vb kn) c.val v
        [laneFlight k r v [v.va, v.vb] 1 (fun j =>
          if (if kn = 0 then decide (64 * grp + j < r.task.desc.threads) else (mapGet 0 k.k (8 * grp + kn.toNat)).getLsbD j)
          then a j else b j)] (laneEats k r v [v.va, v.vb]) s) ∧
    givesV (.vsplat c g vd xa) c.val { vec3 .vsplat g vd 0 0 with va := xa.toNat }
      [flight k 1 2 (.v grp vd.toNat (on.map (fun j => (j, wd (xGet k xa.toNat).toNat, false))))] false s ∧
    (vd.toNat ≠ 31 → givesV (.vlidx c g vd) c.val (vec3 .vlidx g vd 0 0)
      [flight k 1 1 (.v grp vd.toNat (on.map (fun j => (j, wd (th j), false)))),
       flight k 1 1 (.v grp (vd.toNat + 1) (on.map (fun j => (j, wd (th j / 2 ^ 32), false))))] false s) ∧
    (vd.toNat = 31 → exec (.vlidx c g vd) s = .refused .reservedForm) ∧
    (let from' := fun (j : Nat) => (b j).toNat % 64;
      let bad := fun (j : Nat) => vPois k grp j vb.toNat || vPois k grp (from' j) va.toNat;
      givesV (.vperm c g vd va vb) c.val (vec3 .vperm g vd va vb)
        [flight k 1 3 (.v grp vd.toNat (on.map (fun j => (j, a (from' j), bad j))))] (on.any bad) s)

/-- The FP32 operations and conversions of the vector slot (R73, R122 to R125, R53 to R55): each enabled lane's exact operation
of its operands, in flight with the latency of R73. FSGN acts on bit 31 alone. -/
def Obligations.VectorFloat : Prop :=
  ∀ (c : CoreId) (g : LaneSel) (vd va vb vc : VReg) (abs : Bool) (kn : BitVec 3) (cond : BitVec 4) (fmt : BitVec 5)
    (s : State) (r : Run), taskOf c.val s = some r →
    let k := issuing c.val s
    let a := fun (j : Nat) => vGet k g.grp.toNat j va.toNat
    let b := fun (j : Nat) => vGet k g.grp.toNat j vb.toNat
    let d := fun (j : Nat) => vGet k g.grp.toNat j vc.toNat
    let does := fun (i : Instr) (v : Vec) (src : List Nat) (lat : Nat) (f : Nat → Word) =>
      givesV i c.val v [laneFlight k r v src lat f] (laneEats k r v src) s
    let two := fun (i : Instr) (op : VOp) (lat : Nat) (f : Word → Word → Word) =>
      does i (vec3 op g vd va vb) [va.toNat, vb.toNat] lat (fun j => f (a j) (b j))
    two (.fadd c g vd va vb) .fadd 4 fAdd ∧
    two (.fsub c g vd va vb) .fsub 4 fSub ∧
    two (.fmul c g vd va vb) .fmul 4 fMul ∧
    does (.ffma c g vd va vb vc) { vec3 .ffma g vd va vb with vc := vc.toNat } [va.toNat, vb.toNat, vc.toNat] 4
      (fun j => fFma (a j) (b j) (d j)) ∧
    two (.fmin c g vd va vb) .fmin 2 fMin ∧
    two (.fmax c g vd va vb) .fmax 2 fMax ∧
    does (.fsgn c g vd va abs) { vec3 .fsgn g vd va 0 with md := b2n abs } [va.toNat] 1
      (fun j => if abs then a j &&& 0x7FFFFFFF else a j ^^^ 0x80000000) ∧
    two (.fdiv c g vd va vb) .fdiv 14 fDiv ∧
    (let v := { vec3 .fcmp g 0 va vb with md := kn.toNat + 8 * cond.toNat };
      (kn ≠ 0 → cond.toNat ≤ 6 → givesV (.fcmp c g kn va vb cond) c.val v
        [flight k 1 2 (.k g.grp.toNat kn.toNat ((lanesOn k r v.grp v.mask).map (fun j => (j, fCmp cond.toNat (a j) (b j)))))]
        (laneEats k r v [va.toNat, vb.toNat]) s) ∧
      (kn = 0 ∨ 6 < cond.toNat → exec (.fcmp c g kn va vb cond) s = .refused .reservedForm)) ∧
    (let t := cvtElem fmt.toNat;
      (fmt.toNat ≤ 6 →
        does (.cvtin c g vd va fmt) { vec3 .cvtin g vd va 0 with md := fmt.toNat } [va.toNat] 3
          (fun j => wd (encodeElem .fp32 .rne (decodeElem t ((a j).toNat % 2 ^ t.bits)))) ∧
        does (.cvtout c g vd va fmt) { vec3 .cvtout g vd va 0 with md := fmt.toNat } [va.toNat] 3
          (fun j => wd (encodeElem t .rne (decode32 (a j))))) ∧
      (6 < fmt.toNat → exec (.cvtin c g vd va fmt) s = .refused .reservedForm ∧
        exec (.cvtout c g vd va fmt) s = .refused .reservedForm))

/-- The correctly rounded functions (R73, R126 to R129): each enabled lane's value, in flight with the latency of R73, and the
lanes that need the slow path named with their cycles. -/
def Obligations.VectorFunctions : Prop :=
  ∀ (c : CoreId) (g : LaneSel) (vd va : VReg) (s : State),
    let fn := fun (i : Instr) (op : VOp) (f : FunKind) (lat : Nat) => givesFun i c.val op g vd va f lat s
    fn (.fexp c g vd va) .fexp .exp 12 ∧ fn (.fexp2 c g vd va) .fexp2 .exp2 12 ∧
    fn (.flog c g vd va) .flog .log 14 ∧ fn (.flog2 c g vd va) .flog2 .log2 14 ∧
    fn (.frcp c g vd va) .frcp .rcp 10 ∧ fn (.frsq c g vd va) .frsq .rsq 10 ∧
    fn (.fsqrt c g vd va) .fsqrt .sqrt 12 ∧ fn (.ftanh c g vd va) .ftanh .tanh 16 ∧
    fn (.fsig c g vd va) .fsig .sig 16 ∧ fn (.ferf c g vd va) .ferf .erf 18 ∧
    fn (.fsin c g vd va) .fsin .sin 20 ∧ fn (.fcos c g vd va) .fcos .cos 20

/-- The reductions over a lane group (R73, R117, R118, R131 to R135): one result, written to every enabled lane and to no other
register; with no lane enabled nothing is read or written. RSUMA's form 0 rounds the exact sum once; form 1 adds the aligned
terms to an anchored partial in three registers; form 2 converts a partial. RSUMT is the tree of pairwise additions; RMAXI and
RMINI keep the winning pair of value and index, in three registers. -/
def Obligations.VectorReductions : Prop :=
  ∀ (c : CoreId) (g : LaneSel) (vd va vb vc : VReg) (mod : BitVec 7) (cont : Bool) (s : State) (r : Run),
    taskOf c.val s = some r →
    let k := issuing c.val s
    let grp := g.grp.toNat
    let on := lanesOn k r grp g.mask.toNat
    let at0 := fun (n : Nat) => (vGet k grp (on.headD 0) n).toNat
    let a := fun (j : Nat) => vGet k grp j va.toNat
    let xs := on.map (fun j => decode32 (a j))
    let gives := fun (i : Instr) (v : Vec) (lat : Nat) (ws : List Word) (p : Bool) => givesV i c.val v
      (if on = [] then [] else ws.zipIdx.map (fun (w, n) => flight k 1 lat (.v grp (vd.toNat + n) (on.map (fun j => (j, w, p))))))
      (p && decide (on ≠ [])) s
    let sum := { vec3 .rsuma g vd va vb with vc := vc.toNat, md := mod.toNat }
    let anchor := sInt 16 (at0 vb.toNat)
    let part := BitVec.ofNat 96 (at0 vc.toNat + 2 ^ 32 * at0 (vc.toNat + 1) + 2 ^ 64 * at0 (vc.toNat + 2))
    let big := xs.any (fun x => match x with | .fin _ m e => decide (anchor + 91 ≤ expOf m e) | _ => false)
    let total := if big then s96Enc 3 0 else
      s96Enc (xs.foldl (fun n x => mergeSt n (numSt x)) (s96Of part).1) (xs.foldl (fun n x => n + alignNum anchor x) (s96Of part).2)
    let pa := on.any (fun j => vPois k grp j va.toNat)
    let ph := [vb.toNat, vc.toNat, vc.toNat + 1, vc.toNat + 2].any (vPois k grp (on.headD 0))
    let best := fun (op : VOp) => { vec3 op g vd va vb with vc := vc.toNat, md := b2n cont }
    let pairs := on.map (fun j => (a j, if cont then (vGet k grp j vb.toNat).toNat + 2 ^ 32 * ((vGet k grp j vc.toNat).toNat % 256)
      else threadIdx r (64 * grp + j)))
    let pp := on.any (fun j => vPois k grp j va.toNat || (cont && (vPois k grp j vb.toNat || vPois k grp j vc.toNat)))
    let won := fun (mini : Bool) =>
      let w := pairs.tail.foldl (maxPair mini) (pairs.headD (0, 0))
      [pairBits w.1, wd w.2, wd (w.2 / 2 ^ 32)]
    (mod = 0 → gives (.rsuma c g vd va vb vc mod) sum 10 [round32 (xs.tail.foldl numAdd (xs.headD (.zero false)))] pa) ∧
    (mod = 1 → vd.toNat ≤ 29 → vc.toNat ≤ 29 → gives (.rsuma c g vd va vb vc mod) sum 10
      [wd total.toNat, wd (total.toNat / 2 ^ 32), wd (total.toNat / 2 ^ 64)] (pa || ph)) ∧
    (mod = 2 → vc.toNat ≤ 29 → gives (.rsuma c g vd va vb vc mod) sum 10 [wd (encodeElem .fp32 .rne (s96Num part anchor))] ph) ∧
    ((2 < mod.toNat ∨ (mod = 1 ∧ (29 < vd.toNat ∨ 29 < vc.toNat)) ∨ (mod = 2 ∧ 29 < vc.toNat)) →
      exec (.rsuma c g vd va vb vc mod) s = .refused .reservedForm) ∧
    gives (.rsumt c g vd va) (vec3 .rsumt g vd va 0) 24
      [(sumTree (fun j => if j ∈ on then some (a j) else none) 6 0).getD 0] pa ∧
    (vd.toNat ≤ 29 → gives (.rmaxi c g vd va vb vc cont) (best .rmaxi) 8 (won false) pp) ∧
    (vd.toNat ≤ 29 → gives (.rmini c g vd va vb vc cont) (best .rmini) 8 (won true) pp) ∧
    (29 < vd.toNat → exec (.rmaxi c g vd va vb vc cont) s = .refused .reservedForm ∧
      exec (.rmini c g vd va vb vc cont) s = .refused .reservedForm)

/-- The draws (R213, R215, R216, R218, R219, R221): RNGI draws from the key, stream, index and draw it names; RNGL from the
context's key and the thread's lane-state entry, which then advances; a reserved stream fails the task with BAD_PARAM and
writes no lane. What the spec leaves open of this is the model's choice: log entry 20. -/
def Obligations.VectorDraws : Prop :=
  ∀ (c : CoreId) (g : LaneSel) (vd vc : VReg) (xa xb : XReg) (mod : BitVec 7) (s : State) (r : Run),
    taskOf c.val s = some r →
    let k := issuing c.val s
    let grp := g.grp.toNat
    let on := lanesOn k r grp g.mask.toNat
    let x := (xGet k xb.toNat).toNat
    let stream := x / 2 ^ 16 % 2 ^ 24
    let vi := { vec3 .rngi g vd 0 0 with va := xa.toNat, vb := xb.toNat, vc := vc.toNat, md := mod.toNat }
    let vl := { vec3 .rngl g vd 0 0 with vb := xb.toNat, md := mod.toNat }
    let idx := fun (j : Nat) => (vGet k grp j vc.toNat).toNat + 2 ^ 32 * ((vGet k grp j (vc.toNat + 1)).toNat % 256)
    let fresh := fun (j : Nat) => vPois k grp j vc.toNat || vPois k grp j (vc.toNat + 1)
    let ent := fun (j : Nat) => mapGet 0 k.gen (64 * grp + j)
    let key := lskey (charged c.val (vecB vl) s) r.task.slot r.task.step
    let u := charged c.val (vecB vl) s
    (vecBad vi = 0 → stream < 0xFFFF00 → on.any fresh = false →
      givesV (.rngi c g vd xa xb vc mod) c.val vi ((rngWbs vi (x / 2 ^ 40)
        (on.map (fun j => (j, gen (xGet k xa.toNat) stream (idx j) (x % 2 ^ 16))))).map (flight k 1 6)) false s) ∧
    (vecBad vi = 0 → 0xFFFF00 ≤ stream → issues c.val (vecB vi) s = true → exec (.rngi c g vd xa xb vc mod) s =
      .next (modCore c.val (advance k .nop) (failParam c.val (charged c.val (vecB vi) s)))) ∧
    (vecBad vi ≠ 0 → exec (.rngi c g vd xa xb vc mod) s = .refused .reservedForm) ∧
    (vecBad vl = 0 → on.all (fun j => (ent j).toNat / 2 ^ 16 % 2 ^ 24 < 0xFFFF00) = true → issues c.val (vecB vl) s = true →
      ∃ t, exec (.rngl c g vd xb mod) s = .next t ∧
        (coreOf t c.val).pend = k.pend ++ (rngWbs vl (x / 2 ^ 40) (on.map (fun j => (j, gen key ((ent j).toNat / 2 ^ 16 % 2 ^ 24)
          (threadIdx r (64 * grp + j)) ((ent j).toNat % 2 ^ 16))))).map (flight k 1 6) ∧
        (∀ j, j < 64 → mapGet 0 (coreOf t c.val).gen (64 * grp + j) = if j ∈ on then (genNext (ent j)).1 else ent j) ∧
        (on.any (fun j => (genNext (ent j)).2) = true → fbit t F.RNG_STAT.STREAM_ADV r.task.slot = true)) ∧
    (vecBad vl = 0 → on.any (fun j => 0xFFFF00 ≤ (ent j).toNat / 2 ^ 16 % 2 ^ 24) = true → issues c.val (vecB vl) s = true →
      exec (.rngl c g vd xb mod) s = .next (modCore c.val (advance k .nop) (failParam c.val u))) ∧
    (vecBad vl ≠ 0 → exec (.rngl c g vd xb mod) s = .refused .reservedForm)

/-- The loads and stores of the move slot (R74, R77, R157, R173): a load puts what the shelf holds in flight for 6 cycles,
counting unmarked lines; a store's bytes reach the shelf 2 cycles later, at the address X[XB] + 64 OFF with its low six bits
ignored, and only from enabled lanes; a store to a constant line fails the task with CONST_WRITE. What the spec leaves open
of this is the model's choice: log entries 8 and 63. -/
def Obligations.MoveLoadsStores : Prop :=
  ∀ (c : CoreId) (grp : BitVec 3) (vr : VReg) (lfmt : BitVec 3) (xr xb : XReg) (md : BitVec 5) (off : Byte) (s : State) (r : Run),
    taskOf c.val s = some r →
    let k := issuing c.val s
    let mk := fun (op : XOp) (reg : Nat) => { Mov.none with op := op, xb := xb.toNat, off := off.toNat, reg := reg }
    let lanes := fun (op : XOp) => { mk op vr.toNat with grp := grp.toNat, lfmt := lfmt.toNat }
    let a := ((xGet k xb.toNat).toNat + off.toNat * 64) % 2 ^ 64 / 64 * 64
    let u := fun (m : Mov) => charged c.val (movB m) s
    let got := fun (m : Mov) (n : Nat) => shelfGet (u m) c.val a n
    let ls := (lfmtLanes lfmt.toNat).1
    let w := (lfmtLanes lfmt.toNat).2
    let on := ls.zipIdx.filter (fun e => laneOn k r grp.toNat 0 e.1)
    let poisoned := on.any (fun e => vPois k grp.toNat e.1 vr.toNat)
    let low := fun (e : Nat × Nat) => leBytes w (vGet k grp.toNat e.1 vr.toNat).toNat
    let flies := fun (i : Instr) (m : Mov) (ps : List Pend) => issues c.val (movB m) s = true → ∃ t, exec i s = .next t ∧
      (coreOf t c.val).pend = k.pend ++ ps ∧ (coreOf t c.val).pc = (advance k .nop k).pc ∧ t.mem = s.mem ∧
      (coreOf t c.val).shelf = k.shelf ∧ (coreOf t c.val).x = k.x ∧ (coreOf t c.val).v = k.v
    (lfmt ≠ 7 → (got (lanes .ldv) 64).bad = none → flies (.ldv c grp vr lfmt xb off) (lanes .ldv)
      [flight k 2 6 (.v grp.toNat vr.toNat (on.map (fun e =>
        (e.1, wd (getLE (got (lanes .ldv) 64).bytes (w * e.2) w), (got (lanes .ldv) 64).poison))))]) ∧
    ((got (mk .ldx xr.toNat) 8).bad = none → (got (mk .ldx xr.toNat) 8).poison = false →
      flies (.ldx c xr xb off) (mk .ldx xr.toNat) [flight k 2 6 (.x xr.toNat (dw (ofLE (got (mk .ldx xr.toNat) 8).bytes)))]) ∧
    (md.toNat < 16 → (got (mk .mdl md.toNat) 64).bad = none → (got (mk .mdl md.toNat) 64).poison = false →
      flies (.mdl c md xb off) (mk .mdl md.toNat) [flight k 2 6 (.md md.toNat (got (mk .mdl md.toNat) 64).bytes)]) ∧
    (lfmt ≠ 7 → hitsConst (u (lanes .stv)) c.val a 64 = false → on.length * w < 64 → flies (.stv c grp vr lfmt xb off) (lanes .stv)
      (on.map (fun e => flight k 2 2 (.shelf (a + w * e.2) (low e) poisoned)))) ∧
    (lfmt ≠ 7 → hitsConst (u (lanes .stv)) c.val a 64 = false → on.length * w = 64 → flies (.stv c grp vr lfmt xb off) (lanes .stv)
      [flight k 2 2 (.shelf a (on.map low).flatten poisoned)]) ∧
    (hitsConst (u (mk .stx xr.toNat)) c.val a 8 = false → flies (.stx c xr xb off) (mk .stx xr.toNat)
      [flight k 2 2 (.shelf a (leBytes 8 (xGet k xr.toNat).toNat) false)]) ∧
    (hitsConst (u (mk .stx xr.toNat)) c.val a 8 = true → issues c.val (movB (mk .stx xr.toNat)) s = true →
      exec (.stx c xr xb off) s = .next (modCore c.val (advance k .nop) (taskFail c.val 4 0 (u (mk .stx xr.toNat))))) ∧
    (lfmt = 7 → exec (.ldv c grp vr lfmt xb off) s = .refused .reservedForm ∧
      exec (.stv c grp vr lfmt xb off) s = .refused .reservedForm) ∧
    (16 ≤ md.toNat → exec (.mdl c md xb off) s = .refused .reservedForm)

/-- The items of the move slot that complete through an arrival slot (R80, R141, R149, R169, R170, R318, R321): TMV, FILL
and SCOPY wait in the mover queue; a resident load that matches completes at once; a message goes out; a RECV arms its box;
a COLL opens its collective. Each adds one pending item to its slot. What the spec leaves open of this is the model's
choice: log entries 31 and 45. -/
def Obligations.MoveItems : Prop :=
  ∀ (c : CoreId) (as : ArrSlot) (xb : XReg) (off : Byte) (s : State) (r : Run), taskOf c.val s = some r →
    let k := issuing c.val s
    let m := fun (op : XOp) => { Mov.none with op := op, xb := xb.toNat, off := off.toNat, reg := as.toNat }
    let a := movAddr k (m .nop)
    let u := fun (op : XOp) => charged c.val (movB (m op)) s
    let line := fun (op : XOp) => (shelfGet (u op) c.val a 64).bytes
    let sound := fun (op : XOp) => (shelfGet (u op) c.val a 64).bad = none
    let more := fun (t : State) => arrCount (coreOf t c.val) as.toNat = arrCount k as.toNat + 1
    let queued := fun (i : Instr) (op : XOp) (kind : Nat) => issues c.val (movB (m op)) s = true → ∃ t, exec i s = .next t ∧
      (coreOf t c.val).queue = k.queue ++ [⟨kind, a / 64, as.toNat⟩] ∧ more t
    (residentHit (u .tmv) c.val r (line .tmv) = false → queued (.tmv c as xb off) .tmv 0) ∧
    (residentHit (u .tmv) c.val r (line .tmv) = true → issues c.val (movB (m .tmv)) s = true →
      ∃ t, exec (.tmv c as xb off) s = .next t ∧ (coreOf t c.val).queue = k.queue ∧
        arrCount (coreOf t c.val) as.toNat = arrCount k as.toNat) ∧
    queued (.fill c as xb off) .fill 1 ∧
    queued (.scopy c as xb off) .scopy 2 ∧
    (let b := line .msg;
      sound .msg →
      (ctxNodes (u .msg) r.task.slot).contains (getLE b 0 2) = true → byteAt b 5 ≤ 4 → byteAt b 4 ≤ 15 → getLE b 8 8 = 0 →
      issues c.val (movB (m .msg)) s = true → ∃ t, exec (.msg c as xb off) s = .next t ∧ more t ∧ t.msgNext = s.msgNext + 1 ∧
        t.msgOut = s.msgOut ++ [{ id := s.msgNext, core := c.val, saved := none, slot := as.toNat, dst := getLE b 0 2
                                  refused := false }]) ∧
    (let b := line .coll;
      let d := collDescOf b;
      sound .coll →
      collBad (u .coll) r.task.slot b = false →
      s.collsDone.any (fun e => e.1 == r.task.slot && e.2.1 == r.task.step && e.2.2.1 == d.cctx && e.2.2.2 == wd d.seq) = false →
      findColl s d.cctx (wd d.seq) r.task.step = none →
      issues c.val (movB (m .coll)) s = true → ∃ t, exec (.coll c as xb off) s = .next t ∧ more t ∧
        t.colls = s.colls ++ [{ Coll.fresh d.cctx (wd d.seq) r.task.step r.task.slot with
          contribs := [{ core := c.val, saved := none, slot := as.toNat, line := a / 64, home := r.task.home
                         taskId := r.task.desc.taskId, desc := b, stamp := stampAt s (dieOf c.val) }] }]) ∧
    (let box := byteAt (line .recv) 4 % 16;
      sound .recv →
      (∀ x l, ctxOf s r.task.slot = some x → lcoreOf x c.val = some l →
        ((mapFind x.bufs l).getD []).all (fun y => msgBox y != box) = true) → k.armed = [] →
      issues c.val (movB (m .recv)) s = true → ∃ t, exec (.recv c as xb off) s = .next t ∧ more t ∧
        armedFor (coreOf t c.val) box = some (box, ⟨a / 64, as.toNat⟩))

/-- The matrix slot (R76, R91 to R93, R97 to R101, R109, R111, R112): MANCH binds its block; MMA adds every aligned product
to its accumulator exactly; MPRE preloads; MSPILL clears the accumulators and adds each exactly into its crate entry at the
end of its 32 cycles; CSAVE and CLOAD copy entries bit for bit, at the end of theirs; MOUT puts the converted block in
flight. What the spec leaves open of this is the model's choice: log entries 15, 23, 33, 34, 62 and 72. -/
def Obligations.MatrixSlot : Prop :=
  ∀ (c : CoreId) (md : BitVec 4) (ct : BitVec 2) (k16 : Byte) (clr : Bool) (as : ArrSlot) (s : State) (r : Run),
    taskOf c.val s = some r →
    let k := issuing c.val s
    let bytes := (mapFind k.md md.toNat).getD []
    let d := mdOf bytes
    let m := fun (op : MOp) (fl : Nat) => { Mat.none with op := op, md := md.toNat, ct := ct.toNat, flags := fl }
    let u := fun (x : Mat) => charged c.val (matB x) s
    let tile := mapFind k.tiles ct.toNat
    let mma := { m .mma (512 * b2n clr) with k16 := k16.toNat }
    let n := (k16.toNat + 1) * 16
    let old := fun (i : Nat) => if clr then 0 else sInt 64 (mapGet 0 k.acc i).toNat
    let oldSt := fun (i : Nat) => if clr then 0 else mapGet 0 k.accSt i
    let manch := fun (t : State) => (coreOf t c.val).tiles
    let same := (match tile with | some t => decide (t.tag = d.tag) && decide (t.block = d.block) | none => false)
    (∀ t a fa fb occ ticks, tile = some t → t.anchor = some a → t.measuring = false → fmtOf d.aFmt = some fa → fmtOf d.bFmt = some fb →
      mmaClass d n = some (occ, ticks) → ((fa.block = 32 ∨ fb.block = 32) → n % 32 = 0) →
      (clr = true ∨ (otherTile k ct.toNat = false ∧ k.steps + n ≤ 4096)) →
      let ra := operandRows (u mma) c.val fa d.aAddr d.aScale d.aStride n
      let rb := operandRows (u mma) c.val fb d.bAddr d.bScale d.bStride n
      let step := fun (i j : Nat) => accRow a { v := old (32 * i + j), st := oldSt (32 * i + j), top := none } (ra.1.getD i []) (rb.1.getD j [])
      (ra.2.join rb.2).bad = none → (ra.2.join rb.2).poison = false →
      (∀ i j, i < 32 → j < 32 → ∀ x, (step i j).top = some x → x < a + 50) →
      issues c.val (matB mma) s = true → ∃ t', exec (.mma c md ct k16 clr) s = .next t' ∧
        (∀ i j, i < 32 → j < 32 → mapGet 0 (coreOf t' c.val).acc (32 * i + j) = dw (uInt 64 (step i j).v) ∧
          mapGet 0 (coreOf t' c.val).accSt (32 * i + j) = (step i j).st) ∧
        (coreOf t' c.val).macFree = k.cyc + occ ∧ (coreOf t' c.val).accTile = some ct.toNat ∧
        (coreOf t' c.val).steps = (if clr then 0 else k.steps) + n ∧ (coreOf t' c.val).crate = k.crate) ∧
    (∀ t a, tile = some t → t.anchor = some a → t.measuring = false → mdPlain bytes = true →
      let g := shelfGet (u (m .mpre 0)) c.val (64 * d.preAddr) 2048
      let val := fun (i : Nat) => decodeElem .s16 ((codesOf 16 g.bytes).getD i 0)
      g.bad = none → g.poison = false → (∀ i, i < 1024 → ∀ x, (accTerm a { v := 0, st := 0, top := none } (val i)).top = some x → x < a + 50) →
      issues c.val (matB (m .mpre 0)) s = true → ∃ t', exec (.mpre c md ct) s = .next t' ∧
        (∀ i, i < 1024 → mapGet 0 (coreOf t' c.val).acc i = dw (uInt 64 (alignNum a (val i))) ∧
          mapGet 0 (coreOf t' c.val).accSt i = numSt (val i)) ∧
        (coreOf t' c.val).macFree = k.cyc + 32 ∧ (coreOf t' c.val).accTile = some ct.toNat) ∧
    (∀ t, tile = some t → otherTile k ct.toNat = false →
      let x := { Mat.none with op := MOp.mspill, ct := ct.toNat }
      issues c.val (matB x) s = true → ∃ t', exec (.mspill c ct) s = .next t' ∧
        (coreOf t' c.val).pend = k.pend ++ [flight k 3 32 (.spill ct.toNat k.acc k.accSt k.accPoison)] ∧
        (coreOf t' c.val).crate = k.crate ∧
        (∀ i, i < 1024 → mapGet 0 (landOne 0 k (flight k 3 32 (.spill ct.toNat k.acc k.accSt k.accPoison))).crate (1024 * ct.toNat + i) =
          s96Add (mapGet 0 k.crate (1024 * ct.toNat + i)) (if mapGet 0 k.accSt i = 0 then s96Enc 0 (sInt 64 (mapGet 0 k.acc i).toNat)
            else s96Enc (mapGet 0 k.accSt i) 0)) ∧
        (coreOf t' c.val).acc = [] ∧ (coreOf t' c.val).accSt = [] ∧ (coreOf t' c.val).steps = 0 ∧
        (coreOf t' c.val).accTile = none ∧ (coreOf t' c.val).macFree = k.cyc + 32) ∧
    (∀ x im, ctxOf (u (m .manch as.toNat)) r.task.slot = some x → x.image = some im → manchOk bytes = true → gridBad im d false = false →
      issues c.val (matB (m .manch as.toNat)) s = true → ∃ t' b, exec (.manch c md ct false as) s = .next t' ∧
        mapFind (manch t') ct.toNat = some b ∧ b.tag = d.tag ∧ b.block = d.block ∧
        b.anchor = some (match raiseOf k ct.toNat b with | some e => e.anchor | none => d.anchor) ∧
        (∀ i, i < 1024 → mapGet 0 (coreOf t' c.val).crate (1024 * ct.toNat + i) =
          if same then mapGet 0 k.crate (1024 * ct.toNat + i) else 0)) ∧
    (∀ x im, ctxOf (u (m .manch (512 + as.toNat))) r.task.slot = some x → x.image = some im → manchOk bytes = true →
      gridBad im d true = false →
      let g := shelfGet (u (m .manch (512 + as.toNat))) c.val (64 * d.ppAddr) 64
      g.bad = none → getLE g.bytes 18 4 ≠ 0 → byteAt g.bytes 22 / 4 = 0 → byteAt g.bytes 23 = 0 → getLE g.bytes 32 32 = 0 →
      getLE g.bytes 28 4 < 0xFFFFFFFE →
      issues c.val (matB (m .manch (512 + as.toNat))) s = true → ∃ t' b q, exec (.manch c md ct true as) s = .next t' ∧
        mapFind (manch t') ct.toNat = some b ∧ b.anchor = none ∧ b.autoSlot = as.toNat ∧ taskOf c.val t' = some q ∧
        q.prepasses = r.prepasses ++ [{ desc := g.bytes, md := bytes, tile := ct.toNat, slot := as.toNat, code := none, fenced := false }] ∧
        arrCount (coreOf t' c.val) as.toNat = arrCount k as.toNat + 1) ∧
    (let x := m .csave 0;
      (∀ t, tile = some t → raiseOf k ct.toNat t = none) → hitsConst (u x) c.val (64 * d.outAddr) 12288 = false →
      issues c.val (matB x) s = true → ∃ t' p, exec (.csave c md ct) s = .next t' ∧
        (coreOf t' c.val).pend = k.pend ++ [flight k 3 198 (.shelf (64 * d.outAddr) (crateBytes ct.toNat k) p)] ∧
        (coreOf t' c.val).outFree = k.cyc + 192 ∧ p = (match tile with | some t => t.poison || t.anchPoison | none => false)) ∧
    (let x := m .cload 0;
      let g := shelfGet (u x) c.val (64 * d.outAddr) 12288;
      g.bad = none → g.poison = false → issues c.val (matB x) s = true → ∃ t', exec (.cload c md ct) s = .next t' ∧
        (coreOf t' c.val).pend = k.pend ++ [flight k 3 192 (.crate ct.toNat g.bytes false)] ∧ (coreOf t' c.val).crate = k.crate ∧
        (∀ i, i < 1024 → mapGet 0 (landOne 0 k (flight k 3 192 (.crate ct.toNat g.bytes false))).crate (1024 * ct.toNat + i) =
          BitVec.ofNat 96 (getLE g.bytes (12 * i) 12)) ∧
        manch t' = k.tiles ∧ (coreOf t' c.val).macFree = k.cyc + 192) ∧
    (∀ t a f, tile = some t → t.anchor = some a → t.measuring = false → moutOk bytes = true → fmtOf d.ofmt = some f →
      let x := m .mout 0
      let note := (biasRead (u x) c.val d).2
      let entry := fun (i : Nat) =>
        let e := mapGet 0 k.crate (1024 * ct.toNat + i)
        if [0, 0xF, 4, 5, 6].contains (bitsOf e.toNat 95 92) then e else s96Enc 3 0
      let o := moutRun (srkey (u x) r.task.slot r.task.step) r.task.step (d.placed t) f a (biasRead (u x) c.val d).1 entry
      note.bad = none → note.poison = false → o.writes.any (fun w => hitsConst (u x) c.val w.1 w.2.length) = false →
      issues c.val (matB x) s = true → ∃ t', exec (.mout c md ct) s = .next t' ∧
        (coreOf t' c.val).pend = k.pend ++ o.writes.map (fun w => flight k 3 (moutOcc f + 6) (.shelf w.1 w.2 (t.poison || t.anchPoison))) ∧
        (coreOf t' c.val).outFree = k.cyc + moutOcc f ∧ (coreOf t' c.val).crate = k.crate)

/-- Core timing (R80, R82 to R84, R87, R88, R129, R178): a token window refills every pool of the die and serves its cores
again; an arrival release issues the waiting bundle; the slow path's freeze begins with 6 cycles and its lanes' cycles and
is counted when it ends; a whole-block repeat puts the core back at its repeat point, and in an unsafe region fails the
task. What the spec leaves open of this is the model's choice: log entries 34, 66 and 68. -/
def Obligations.CoreTiming : Prop :=
  (∀ (d : Die) (s : State), ∃ t, exec (.tokenWindowStart d) s = .next t ∧
    (∀ k x, ctxOf t k = some x → poolLeft x d.val = poolSize x d.val) ∧
    (∀ c, dieOf c = d.val → (coreOf t c).tokenFrozen = false) ∧
    ((∃ c, dieOf c = d.val ∧ (coreOf s c).tokenFrozen = true) ∨ mapGet false s.tokHeld d.val = true →
      counted F.TOK_WINDOWS.WINDOWS d.val 0 1 s t) ∧ mapGet false t.tokHeld d.val = false) ∧
  (∀ (c : CoreId) (s : State) (r : Run) (b : Bundle), taskOf c.val s = some r → fetch s (coreOf s c.val) = some b →
    cstat s F.CORE_STAT.FRZ c.val = 1 → arrivalOk s c.val (coreOf s c.val) r b = true → issues c.val b s = true →
    exec (.arrivalRelease c) s = .next (bundleGo c.val b (charged c.val b s))) ∧
  (∀ (c : CoreId) (s : State), slowNow (coreOf s c.val) = true → (coreOf s c.val).slowDue = none →
    ∃ t, exec (.slowPathDue c) s = .next t ∧ cstat t F.CORE_STAT.FRZ c.val = 2 ∧
      (coreOf t c.val).slowDue = some (6 + ((coreOf s c.val).pend.filter (fun p => p.due ≤ (coreOf s c.val).cyc)).foldl
        (fun a p => a + p.slowCost) 0)) ∧
  (∀ (c : CoreId) (n : Nat) (s : State), (coreOf s c.val).slowDue = some n → ∃ t, exec (.slowPathDone c) s = .next t ∧
    (coreOf t c.val).slowDue = none ∧ slowNow (coreOf t c.val) = false ∧ cstat t F.CORE_STAT.FRZ c.val = 0 ∧
    counted F.CORE_FRZ_SLOW.CYCLES (dieOf c.val) (c.val % 272) n s t) ∧
  (∀ (c : CoreId) (s : State) (r : Run), taskOf c.val s = some r → (coreOf s c.val).repeatDue = true →
    ctxState s r.task.slot = 1 → (coreOf s c.val).slowDue = none → slowNow (coreOf s c.val) = false →
    (r.unsafeRegion = false → r.audit = none → (∀ i, i < 32 → arrCount (coreOf s c.val) i = 0) →
      ∃ t, exec (.wholeBlockRepeat c) s = .next t ∧ (coreOf t c.val).pc = r.repeatPc ∧ (coreOf t c.val).x = r.repeatX ∧
        (coreOf t c.val).loops = r.repeatLoops ∧ (coreOf t c.val).acc = [] ∧ (coreOf t c.val).repeatDue = false ∧
        (taskOf c.val t).map (·.regionTens) = some [] ∧
        counted F.CORE_REPEATS.REPEATS (dieOf c.val) (c.val % 272) 1 s t) ∧
    (r.unsafeRegion = true → exec (.wholeBlockRepeat c) s =
      .next (taskFail c.val 5 0 (modCore c.val (fun q => { q with repeatDue := false }) s))))

/-- The tile movers and the at-shelf operations (R138, R140, R141, R145, R149, R151): the item at the head of the queue
takes the free engine with the descriptor it finds then; an item whose ticks the pool covers moves its data, frees its
engine and completes its arrival slot, a load leaving device memory as it is, a store once no write of it waits for a page;
a FILL writes its pattern on every line; a shelf clear leaves an empty shelf. What the spec leaves open of this is the
model's choice: log entries 35, 68 and 71. -/
def Obligations.MoverItems : Prop :=
  (∀ (c : CoreId) (s : State) (r : Run) (i : MoverItem) (rest : List MoverItem) (e : Nat), taskOf c.val s = some r →
    let k := coreOf s c.val
    let g := shelfGet s c.val (64 * i.line) 64
    let t := tmvOf g.bytes
    let mine := itemRanges i.kind g.bytes
    ctxState s r.task.slot = 1 → k.queue = i :: rest → freeEngine k = some e → g.bad = none →
    k.engines.any (fun x => itemsMeet mine (itemRanges x.2.item.kind x.2.desc)) = false →
    mine.2.any (fun w => hitsConst s c.val w.1 (w.2 - w.1)) = false →
    ((i.kind = 0 ∧ tmvOk g.bytes = true ∧ residentHit s c.val r g.bytes = false ∧
        t.memRanges.findSome? (fun q => accessCause s r.task.slot .mover q.1 (q.2 - q.1)) = none ∧
        (t.op = 1 → hitsHighHalf s t.memRanges = false)) ∨
      (i.kind ≠ 0 ∧ (atShelf i.kind g.bytes).isSome = true)) →
    ∃ t' fenced, exec (.moverItemStart c) s = .next t' ∧ (coreOf t' c.val).queue = rest ∧
      mapFind (coreOf t' c.val).engines e = some
        { item := i, desc := g.bytes, fenced := fenced, paid := 0, wrote := false, left := none } ∧
      t'.mem = s.mem ∧ (coreOf t' c.val).shelf = k.shelf) ∧
  (∀ (c : CoreId) (eng : Fin 4) (s : State) (r : Run) (x : EngineItem), taskOf c.val s = some r → r.audit = none →
    let k := coreOf s c.val
    let t := tmvOf x.desc
    mapFind k.engines eng.val = some x → x.item.kind = 0 → x.left = none → (x.fenced = true → itemFences s r t = []) →
    (t.op = 0 → heldByArray k t.shelfRanges = false) → (t.charged = true → k.tokenFrozen = false) →
    (∀ y, ctxOf s r.task.slot = some y → ticksLeft x ≤ poolLeft y (dieOf c.val)) →
    (moveRows s c.val r.task.slot r.task.step t).2.2 = none →
    (t.op = 0 → x.wrote = false →
      ∃ t', exec (.moverItemComplete c eng) s = .next t' ∧ mapFind (coreOf t' c.val).engines eng.val = none ∧
        arrCount (coreOf t' c.val) x.item.slot = arrCount k x.item.slot - 1 ∧ t'.mem = s.mem) ∧
    (t.op = 1 → x.wrote = true → storeWaits s t = false →
      ∃ t', exec (.moverItemComplete c eng) s = .next t' ∧ mapFind (coreOf t' c.val).engines eng.val = none ∧
        arrCount (coreOf t' c.val) x.item.slot = arrCount k x.item.slot - 1 ∧ t'.mem = s.mem) ∧
    (t.op = 1 → x.wrote = false → ∃ t', exec (.moverItemComplete c eng) s = .next t' ∧
      ((∀ m, (stackOf s m).waitCow = []) → s.held = [] → mapFind (coreOf t' c.val).engines eng.val = none) ∧
      (mapFind (coreOf t' c.val).engines eng.val = none ∧ arrCount (coreOf t' c.val) x.item.slot = arrCount k x.item.slot - 1 ∨
        mapFind (coreOf t' c.val).engines eng.val = some { x with wrote := true }))) ∧
  (∀ (c : CoreId) (eng : Fin 4) (s : State) (r : Run) (x : EngineItem) (w : Nat × Nat), taskOf c.val s = some r →
    r.audit = none → mapFind (coreOf s c.val).engines eng.val = some x → x.item.kind = 1 →
    atShelf 1 x.desc = some (none, w) → heldByArray (coreOf s c.val) [w] = false → constLines s r.task.slot ≤ w.1 / 64 →
    x.desc.length = 64 →
    ∃ t', exec (.atShelfComplete c eng) s = .next t' ∧ mapFind (coreOf t' c.val).engines eng.val = none ∧
      (∀ a, w.1 ≤ a → a < w.2 → mapGet 0 (coreOf t' c.val).shelf a = x.desc.getD (8 + a % 8) 0 ∧
        mapGet false (coreOf t' c.val).shelfMark (a / 64) = true) ∧
      (∀ a, a < w.1 ∨ w.2 ≤ a → mapGet 0 (coreOf t' c.val).shelf a = mapGet 0 (coreOf s c.val).shelf a)) ∧
  (∀ (c : CoreId) (s : State), (coreOf s c.val).clearDue = true → (coreOf s c.val).engines = [] →
    ∃ t, exec (.shelfClear c) s = .next t ∧ (coreOf t c.val).clearDue = false ∧ (coreOf t c.val).queue = [] ∧
      (coreOf t c.val).shelfMark = [] ∧ (coreOf t c.val).resident = [] ∧
      (ctxOf s (cstat s F.CORE_STAT.CTX c.val) = none → (coreOf t c.val).shelf = []))

/-- Tasks (R156, R158, R159, R161, R163 to R165): a free core starts the task at the head of its queue; a task whose END has
issued adds its contributions to its step, counts its signal and frees the core; overflow tasks move onto the die in queue
order, into their queue or, with a shut gate, into the gate pool; a thief takes what a local round finds, else queries the
other dies one after another and then waits; its queries end when a task of its own queues is ready. What the spec leaves
open of this is the model's choice: log entries 20, 36 and 70. -/
def Obligations.TaskFabric : Prop :=
  (∀ (c : CoreId) (s : State) (x : Ctx) (l : Nat) (t : Task) (q : List Task),
    let slot := cstat s F.CORE_STAT.CTX c.val
    coreFree s c.val = true → (∀ p, (coreOf s c.val).probe = some p → p.waiting = true) → ctxOf s slot = some x →
    servedL s x c.val = some l → queueOf x l = t :: q → t.saved = none → drawsLanes s t.slot = false →
    ∃ t' y, exec (.taskStart c) s = .next t' ∧ startedTask c.val t false t' ∧ ctxOf t' slot = some y ∧ queueOf y l = q ∧
      (coreOf t' c.val).tasksRun = stepCount (coreOf s c.val) t.step (coreOf s c.val).tasksRun 1) ∧
  (∀ (c : CoreId) (s : State) (r : Run) (x : Ctx) (e : StepSt), taskOf c.val s = some r → r.ended = true → r.isAudit = false →
    ctxState s r.task.slot = 1 → r.checks = [] → (∀ i, i < 32 → arrCount (coreOf s c.val) i = 0) → r.poisonUsed = false →
    r.audit = none → (coreOf s c.val).genDrew = [] → ctxOf s r.task.slot = some x → stepSt? x r.task.step = some e →
    e.replaying = false → e.stopTag = none →
    ∃ t y e', exec (.taskEnd c) s = .next t ∧ taskOf c.val t = none ∧ cstat t F.CORE_STAT.FRZ c.val = 0 ∧
      ctxOf t r.task.slot = some y ∧ stepSt? y r.task.step = some e' ∧ e'.tens = joinAccs e.tens (settleRegion r).tens ∧
      (r.task.desc.signal ≠ 0xFFFF →
        joinOf y r.task.step r.task.desc.signal = satTo 65535 (joinOf x r.task.step r.task.desc.signal + 1))) ∧
  (∀ (k : Slot) (l : Fin 2048) (s : State) (x : Ctx) (t : Task) (o : List Task), ctxOf s k.val = some x →
    overOf x l.val = t :: o → onDie x l.val < 256 → ∃ t' y, exec (.overflowRingRefill k l) s = .next t' ∧
      ctxOf t' k.val = some y ∧ overOf y l.val = o ∧
      (gateOpen x t = true → queueOf y l.val = queueOf x l.val ++ [t] ∧ y.gated = x.gated) ∧
      (gateOpen x t = false → queueOf y l.val = queueOf x l.val ∧ y.gated = x.gated ++ [(t, l.val, false)])) ∧
  (∀ (c : CoreId) (s : State) (x : Ctx), thief s c.val = true → ctxOf s (cstat s F.CORE_STAT.CTX c.val) = some x →
    let slot := cstat s F.CORE_STAT.CTX c.val
    (∀ t l q, localFind s slot x c.val = some (t, l, q) → t.saved = none → drawsLanes s t.slot = false →
      ∃ t' y, exec (.stealProbeRound c) s = .next t' ∧ startedTask c.val t true t' ∧ ctxOf t' slot = some y ∧ queueOf y l = q ∧
        counted F.STEAL_LOCAL.COUNT (dieOf c.val) 0 1 s t') ∧
    (localFind s slot x c.val = none → ∃ t', exec (.stealProbeRound c) s = .next t' ∧
      (coreOf t' c.val).probe = some { left := (remoteOrder (dieOf c.val)).drop 1, asked := (remoteOrder (dieOf c.val)).head?
                                       reply := none, waiting := false } ∧ t'.ctxs = s.ctxs)) ∧
  (∀ (c : CoreId) (s : State) (p : Probe), (coreOf s c.val).probe = some p →
    let slot := cstat s F.CORE_STAT.CTX c.val
    (p.waiting = true → ∃ t, exec (.probeWaitExpiry c) s = .next t ∧ (coreOf t c.val).probe = none) ∧
    (∀ x d, p.asked = some d → p.reply = none → ctxOf s slot = some x → ctxState s slot = 1 →
      (∀ t l q, remoteFind x d = some (t, l, q) → ∃ t' y, exec (.remoteStealQuery c) s = .next t' ∧
        (coreOf t' c.val).probe = some { p with reply := some (some t) } ∧ ctxOf t' slot = some y ∧ queueOf y l = q) ∧
      (remoteFind x d = none → ∃ t', exec (.remoteStealQuery c) s = .next t' ∧
        (coreOf t' c.val).probe = some { p with reply := some none } ∧ t'.ctxs = s.ctxs)) ∧
    (∀ t, p.reply = some (some t) → ctxState s t.slot = 1 → p.asked ≠ none → t.saved = none → drawsLanes s t.slot = false →
      ∃ t', exec (.stealReply c) s = .next t' ∧ startedTask c.val t true t' ∧
        counted F.STEAL_REMOTE.COUNT (dieOf c.val) 0 1 s t') ∧
    (p.reply = some none → ownReady s c.val = true → ∃ t', exec (.stealReply c) s = .next t' ∧ (coreOf t' c.val).probe = none) ∧
    (∀ d ds, p.reply = some none → ownReady s c.val = false → p.left = d :: ds → ∃ t', exec (.stealReply c) s = .next t' ∧
      (coreOf t' c.val).probe = some { left := ds, asked := some d, reply := none, waiting := false }) ∧
    (p.reply = some none → ownReady s c.val = false → p.left = [] → ∃ t', exec (.stealReply c) s = .next t' ∧
      (coreOf t' c.val).probe = some { left := [], asked := none, reply := none, waiting := true }))

/-- Messages, anchor tables and pre-passes (R99 to R101, R169, R170, R174): a message lands in the armed box's line, or
waits in the buffer of a logical core that nobody serves; one for a logical core beyond the bound count is refused; its
landing completes the sender's arrival slot and its refusal fails the sender; a check that agrees is done and one that
differs fails the task; a pre-pass gives its tile the anchor of its code. What the spec leaves open of this is the model's
choice: log entries 16 and 21. -/
def Obligations.MessagesAndAnchors : Prop :=
  (∀ (s : State) (m : Msg) (rest : List Msg) (x : Ctx), s.msgIn = m :: rest → ctxOf s m.slot = some x → m.lcore < boundCount x →
    (servedBy s m.slot x m.lcore = none → ((mapFind x.bufs m.lcore).getD []).length < 64 →
      ∃ t y, exec .messageDelivery s = .next t ∧ t.msgIn = rest ∧ ctxOf t m.slot = some y ∧
        mapFind y.bufs m.lcore = some ((mapFind x.bufs m.lcore).getD [] ++ [m])) ∧
    (∀ c r key a, servedBy s m.slot x m.lcore = some c → taskOf c s = some r → r.task.slot = m.slot → r.audit = none →
      ctxState s m.slot = 1 → armedFor (coreOf s c) (msgBox m) = some (key, a) → m.bytes.length = 64 →
      constLines s m.slot ≤ a.line → a.line < 6144 →
      ∃ t, exec .messageDelivery s = .next t ∧ t.msgIn = rest ∧ mapFind (coreOf t c).armed key = none ∧
        arrCount (coreOf t c) a.slot = arrCount (coreOf s c) a.slot - 1 ∧
        (∀ i, i < 64 → mapGet 0 (coreOf t c).shelf (64 * a.line + i) = m.bytes.getD i 0) ∧
        mapGet false (coreOf t c).shelfMark a.line = true)) ∧
  (∀ (s : State) (m : Msg) (rest : List Msg) (x : Ctx), s.msgIn = m :: rest → ctxOf s m.slot = some x → boundCount x ≤ m.lcore →
    exec .messageDelivery s = .next { refuseMsg m s with msgIn := rest }) ∧
  (∀ (id : Nat) (s : State) (m : MsgOut), s.msgOut.find? (fun e => e.id == id) = some m → m.saved = none →
    (msgHere s id = false → m.refused = false → auditOf s m.core = none → ∃ t, exec (.msgLanded id) s = .next t ∧
      t.msgOut = s.msgOut.filter (fun e => e.id != id) ∧
      arrCount (coreOf t m.core) m.slot = arrCount (coreOf s m.core) m.slot - 1) ∧
    ((m.dst ≠ ownNode s ∨ m.refused = true) → exec (.msgRefusal id) s = .next (taskFail m.core 9 0 { s with msgOut := s.msgOut.filter (fun e => e.id != id) }))) ∧
  (∀ (c : CoreId) (s : State) (r : Run) (g : GridCheck) (rest : List GridCheck), taskOf c.val s = some r → r.checks = g :: rest →
    accessCause s r.task.slot .mover g.addr 2 = none →
    (stepBytes s r.task.slot r.task.step g.addr 2).2 = false →
    let w := ofLE (stepBytes s r.task.slot r.task.step g.addr 2).1
    let same := (g.auto = true ∧ w = 0x8000) ∨ (g.auto = false ∧ w ≠ 0x8000 ∧ sInt 16 w = g.anchor)
    (same → ∃ t, exec (.gridCheckDone c) s = .next t ∧ taskOf c.val t = some { r with checks := rest } ∧ t.mem = s.mem) ∧
    (¬ same → exec (.gridCheckDone c) s = .next (taskFail c.val 3 0 (modRun c.val (fun r => { r with checks := rest }) s)))) ∧
  (∀ (c : CoreId) (s : State) (r : Run) (p : Prepass) (fa fb : Fmt), taskOf c.val s = some r → r.isAudit = false →
    r.prepasses.find? (fun p => p.code.isNone) = some p → fmtOf (movFmt (mdOf p.md).aFmt) = some fa →
    fmtOf (movFmt (mdOf p.md).bFmt) = some fb → bitAt (byteAt p.desc 22) 0 = false → bitAt (byteAt p.desc 22) 1 = false →
    let n := getLE p.desc 18 4
    let ra := ppRows (getLE p.desc 0 5) (getLE p.desc 10 4) n fa
    let rb := ppRows (getLE p.desc 5 5) (getLE p.desc 14 4) n fb
    let rd := fun (l : List (Nat × Nat)) => l.map (fun g => (stepBytes s r.task.slot r.task.step g.1 g.2).1)
    (ra ++ rb).findSome? (fun g => accessCause s r.task.slot .mover g.1 g.2) = none →
    fencesOf s r.task.slot r.task.step false ((ra ++ rb).map (fun g => (g.1, g.1 + g.2))) = [] →
    (ra ++ rb).all (fun g => !(stepBytes s r.task.slot r.task.step g.1 g.2).2) = true →
    ∃ t q, exec (.prepassLocalDone c) s = .next t ∧
      t = finishPrepass c.val p (localCode (ppScales fa n (rd ra)) (ppScales fb n (rd rb)) none) (countHaz c.val 0 s) ∧
      taskOf c.val t = some q ∧ q.prepasses = r.prepasses.filter (fun e => !(e.tile == p.tile && e.slot == p.slot)))

/-- The cellars (R182, R186, R189 to R193, R343): a clean read changes nothing, a corrected one is counted, an uncorrectable
one leaves its line poisoned with at most its erroneous bytes changed, more than the code covers touches no other line, and
a failed interface check takes the spare pseudo-channel or loses the stack; a retirement takes a spare row, a migration
ends; a write changes its bytes and no other; a waiting write proceeds; the scrub forgets the corrections of a row it has
passed; a zero fill leaves the frames zero and completes the entry's change. What the spec leaves open of this is the
model's choice: log entries 22, 41 and 81. -/
def Obligations.CellarCommands : Prop :=
  (∀ (m : StackId) (line : BitVec 30) (errs : Nat) (s : State), stackOk s m.val = true → line.toNat < stackLines →
    let base := memKey m.val (64 * line.toNat)
    let otherLines := fun (s t : State) => ∀ k, (k < base ∨ base + 64 ≤ k) → mapGet 0 t.mem k = mapGet 0 s.mem k
    (errs = 0 → exec (.cellarRead m line errs) s = .next s) ∧
    (1 ≤ errs → errs ≤ 3 → ∃ t, exec (.cellarRead m line errs) s = .next t ∧ counted F.CEL_CORR.COUNT m.val 0 1 s t ∧
      t.mem = s.mem ∧ t.memPoison = s.memPoison) ∧
    (5 < errs → errs ≤ 73 → ∃ t, exec (.cellarRead m line errs) s = .next t ∧ otherLines s t) ∧
    (73 < errs → (stackOf s m.val).migrating = none → ∃ t, exec (.cellarRead m line errs) s = .next t ∧ t.mem = s.mem ∧
      (fbit s F.CEL_STAT.SPARE_PC_USED m.val = false → fget t F.CEL_STAT.MIGRATING m.val = 1 ∧
        fget t F.CEL_STAT.SPARE_PC_FOR m.val = linePc line.toNat) ∧
      (fbit s F.CEL_STAT.SPARE_PC_USED m.val = true → stackOk t m.val = false)) ∧
    (3 < errs → errs ≤ 5 → ∃ t, exec (.cellarRead m line errs) s = .next t ∧ counted F.CEL_UNCORR.COUNT m.val 0 1 s t ∧ otherLines s t ∧
      ((List.range 64).filter (fun i => mapGet 0 t.mem (memKey m.val (64 * line.toNat + i)) !=
        mapGet 0 s.mem (memKey m.val (64 * line.toNat + i)))).length ≤ errs ∧ physPoison t m.val line.toNat = true) ∧
    (fget s F.CEL_SCRUB.HOURS m.val ≠ 0 →
      (1 ≤ errs → errs ≤ 3 → ∃ t, exec (.scrubLine m line errs) s = .next t ∧ counted F.CEL_CORR.COUNT m.val 0 1 s t ∧ t.mem = s.mem) ∧
      (errs = 0 → line.toNat % 16 = 15 → ∃ t, exec (.scrubLine m line errs) s = .next t ∧
        rowCorrected (stackOf t m.val) (lineRow line.toNat) = 0 ∧ t.mem = s.mem)) ∧
    (fget s F.CEL_SCRUB.HOURS m.val = 0 → exec (.scrubLine m line errs) s = .next s)) ∧
  (∀ (m : StackId) (s : State) (row cause : Nat) (rest : List (Nat × Nat)), (stackOf s m.val).retiring = (row, cause) :: rest →
    ∃ t, exec (.rowRetirementDone m) s = .next t ∧ (stackOf t m.val).retiring = rest ∧
      mapGet false (stackOf t m.val).retired row = true ∧
      mapGet 0 (stackOf t m.val).sparesUsed (row / 2 ^ 21) = mapGet 0 (stackOf s m.val).sparesUsed (row / 2 ^ 21) + 1 ∧
      counted F.CEL_SPARES.ROWS_RETIRED m.val 0 1 s t ∧ t.mem = s.mem) ∧
  (∀ (m : StackId) (s : State) (pc cause : Nat), (stackOf s m.val).migrating = some (pc, cause) →
    ∃ t, exec (.pcMigrationDone m) s = .next t ∧ (stackOf t m.val).migrating = none ∧
      fget t F.CEL_STAT.MIGRATING m.val = 0 ∧ mapGet 0 (stackOf t m.val).sparesUsed pc = 0 ∧ t.mem = s.mem) ∧
  (∀ (m : StackId) (line : BitVec 30) (first : Fin 64) (data : List Byte) (poison : Bool) (s : State), stackOk s m.val = true →
    line.toNat < stackLines → data ≠ [] →
    let off := 64 * line.toNat + first.val
    let bs := data.take (64 - first.val)
    cowBlock s m.val off bs = none → (stackOf s m.val).waitCow.all (fun w => w.1 / 64 != line.toNat) = true →
    ∃ t, exec (.cellarWrite m line first data poison) s = .next t ∧
      (∀ k, mapGet 0 t.mem k = if memKey m.val off ≤ k ∧ k < memKey m.val off + bs.length then bs.getD (k - memKey m.val off) 0
        else mapGet 0 s.mem k) ∧
      (∀ l, mapGet false t.memPoison l = if l = lineKey m.val line.toNat
        then poison || (mapGet false s.memPoison l && decide (bs.length < 64)) else mapGet false s.memPoison l)) ∧
  (∀ (m : StackId) (s : State) (w : Nat × List Byte × Bool × Option (Nat × DWord))
      (l : List (Nat × List Byte × Bool × Option (Nat × DWord))), stackOk s m.val = true →
    cowReady s m.val [] (stackOf s m.val).waitCow = some (w, l) → ∃ t, exec (.cowWaitResume m) s = .next t ∧
      (stackOf t m.val).waitCow = l ∧
      (∀ k, mapGet 0 t.mem k = if memKey m.val w.1 ≤ k ∧ k < memKey m.val w.1 + w.2.1.length
        then w.2.1.getD (k - memKey m.val w.1) 0 else mapGet 0 s.mem k)) ∧
  (∀ (g : Fin 1024) (s : State) (z : ZeroFill), s.mgmt.zeroFills.find? (fun z => z.granule == g.val) = some z →
    let e := if bitAt z.entry.toNat 31 then z.entry else rget s .MEM_GMAP g.val
    ∃ t, exec (.granuleZeroFillDone g) s = .next t ∧ rget t .MEM_GMAP g.val = z.entry ∧
      t.mgmt.zeroFills = s.mgmt.zeroFills.filter (fun z => z.granule != g.val) ∧
      (∀ r ∈ granuleRanges e, ∀ o, r.2.1 ≤ o → o < r.2.1 + r.2.2 → mapGet 0 t.mem (memKey r.1 o) = 0) ∧
      (∀ k, (∀ r ∈ granuleRanges e, k < memKey r.1 r.2.1 ∨ memKey r.1 (r.2.1 + r.2.2) ≤ k) → mapGet 0 t.mem k = mapGet 0 s.mem k))

/-- The lane instructions of the cellar unit (R196, R198, R199): where it is the element's next instruction, T[d] takes the
exact operation of its sources, with their poison, and the element moves on; nothing else changes. -/
def Obligations.CellarUnitLanes : Prop :=
  ∀ (m : StackId) (e : BitVec 40) (d : BitVec 4) (a b c : BitVec 5) (s : State) (u : UpdRun) (de : UpdDesc) (n : CuIns),
    cuRun s m.val = some (u, de) → cuNext u de e.toNat = some n →
    n.d = d.toNat → n.a = a.toNat → n.b = b.toNat → n.c = c.toNat →
    let x := cuSrc u e.toNat a.toNat
    let y := cuSrc u e.toNat b.toNat
    let h := fun (k : Nat) => cuSrc u e.toNat (c.toNat + k)
    let sets := fun (i : Instr) (opc : Nat) (srcs : List Nat) (v : Word) => n.opc = opc → exec i s =
      .next (let u1 := { cuPut e.toNat d.toNat v (srcs.any (cuBad u e.toNat)) u with
          pcs := mapSet 0 u.pcs e.toNat (mapGet 0 u.pcs e.toNat + 1) };
        modStack m.val (fun k => { k with running := some u1 }) s)
    let one := [a.toNat]
    let two := [a.toNat, b.toNat]
    let three := fun (k : Nat) => [a.toNat, b.toNat, c.toNat] ++ (List.range k).map (fun i => c.toNat + 1 + i)
    sets (.cuMov m e d a) 0x08 one x ∧
    sets (.cuAdd m e d a b) 0x09 two (fAdd x y) ∧
    sets (.cuSub m e d a b) 0x0A two (fSub x y) ∧
    sets (.cuMul m e d a b) 0x0B two (fMul x y) ∧
    sets (.cuFma m e d a b c) 0x0C (three 0) (fFma x y (h 0)) ∧
    sets (.cuDiv m e d a b) 0x0D two (fDiv x y) ∧
    sets (.cuSqrt m e d a) 0x0E one (fSqrt x) ∧
    sets (.cuMin m e d a b) 0x0F two (fMin x y) ∧
    sets (.cuMax m e d a b) 0x10 two (fMax x y) ∧
    sets (.cuNeg m e d a) 0x11 one (x ^^^ 0x80000000) ∧
    sets (.cuAbs m e d a) 0x12 one (x &&& 0x7FFFFFFF) ∧
    sets (.cuSgn m e d a) 0x13 one (match decode32 x with
      | .zero _ => 0
      | .nan => 0x7FC00000
      | .inf neg => if neg then 0xBF800000 else 0x3F800000
      | .fin neg _ _ => if neg then 0xBF800000 else 0x3F800000) ∧
    sets (.cuClt m e d a b) 0x14 two (if fCmp 2 x y then 0x3F800000 else 0) ∧
    sets (.cuSel m e d a b c) 0x15 (three 0) (match decode32 (h 0) with | .zero _ => y | _ => x) ∧
    sets (.cuAxpby m e d a b c) 0x18 (three 1) (fFma y (h 1) (fMul x (h 0))) ∧
    sets (.cuEmasq m e d a b c) 0x19 (three 1) (fFma (fMul y y) (h 1) (fMul x (h 0))) ∧
    sets (.cuAdir m e d a b c) 0x1A (three 2) (fDiv (fMul x (h 0)) (fAdd (fSqrt (fMul y (h 1))) (h 2)))

/-- The streams of the cellar unit and an update from its start to its completion (R196, R199, R203, R205 to R208): loads
read the live memory, stores are kept and change no memory until the update completes; the completed update leaves the stack
free and is counted, and a persistent descriptor is armed for the next step. What the spec leaves open of this is the
model's choice: log entries 35, 38 and 74. -/
def Obligations.CellarUnitUpdates : Prop :=
  (∀ (m : StackId) (e : BitVec 40) (d : BitVec 4) (a : BitVec 5) (sl : BitVec 3) (s : State) (u : UpdRun) (de : UpdDesc) (n : CuIns),
    cuRun s m.val = some (u, de) → cuNext u de e.toNat = some n → n.slot = sl.toNat →
    let p := elemAt de sl.toNat e.toNat
    let moves := fun (u1 : UpdRun) => (Host.Outcome.next (let u2 := { u1 with
        pcs := mapSet 0 u1.pcs e.toNat (mapGet 0 u.pcs e.toNat + 1) };
      modStack m.val (fun k => { k with running := some u2 }) s) : Out)
    let w := cuSrc u e.toNat a.toNat
    let bad := cuBad u e.toNat a.toNat
    (n.opc = 1 → n.d = d.toNat → devPoison s p.1 p.2.2 = false → exec (.cuLd m e d sl) s =
      moves (cuPut e.toNat d.toNat (round32 (decodeElem (slotElem de sl.toNat) (getLE (devBytes s p.1 p.2.2) 0 p.2.2))) false u)) ∧
    (n.opc = 2 → n.d = d.toNat → devPoison s p.1 p.2.2 = false → devPoison s p.2.1 2 = false → exec (.cuLdw m e d sl) s =
      moves (cuPut e.toNat d.toNat
        (wd (getLE (devBytes s p.1 p.2.2) 0 p.2.2 * 2 ^ 16 + getLE (devBytes s p.2.1 2) 0 2)) false u)) ∧
    (n.opc = 3 → n.a = a.toNat →
      let code := encodeElem (slotElem de sl.toNat) .rne (decode32 w)
      exec (.cuSt m e a sl) s = moves { cuKeep p.1 (leBytes p.2.2 code) bad u with stored := u.stored ++ [(e.toNat, sl.toNat, wd code)] }) ∧
    (n.opc = 4 → n.a = a.toNat →
      let v := (round32 (decode32 w)).toNat
      exec (.cuStw m e a sl) s = moves { cuKeep p.2.1 (leBytes 2 v) bad (cuKeep p.1 (leBytes 2 (v / 2 ^ 16)) bad u) with
        stored := u.stored ++ [(e.toNat, sl.toNat, wd v)] }) ∧
    (n.opc = 0x3F → exec (.cuEnd m e) s = moves { u with ended := mapPut u.ended e.toNat true })) ∧
  (∀ (m : StackId) (s : State) (num : Nat) (rest : List Nat) (d : UpdDesc), (stackOf s m.val).running = none →
    takeFirst? (updMayRun s m.val) (stackOf s m.val).fires = some (num, rest) → mapFind (stackOf s m.val).descs num = some d →
    devPoison s (getLE d.bytes 28 5) 64 = false → ∃ t, exec (.updateStart m) s = .next t ∧
      (stackOf t m.val).running = some (UpdRun.fresh num (devBytes s (getLE d.bytes 28 5) 64) false) ∧
      (stackOf t m.val).fires = rest ∧ t.mem = s.mem) ∧
  (∀ (m : StackId) (s : State) (u : UpdRun) (d : UpdDesc), cuRun s m.val = some (u, d) → u.ended.length = updElems d →
    updLocal s u d = false → s.held = [] → (stackOf s m.val).waitCow = [] → ∃ t, exec (.updateComplete m) s = .next t ∧
      (stackOf t m.val).running = none ∧ counted F.UPD_DONE.COUNT m.val 0 1 s t ∧
      (d.removing = true ∨ updPersist d = false → mapFind (stackOf t m.val).descs u.num = none) ∧
      (d.removing = false → updPersist d = true → (mapFind (stackOf t m.val).descs u.num).map (·.armed) = some (d.armed + 1)))

/-- The preconditioner solver (R236, R238, R243, R245): the next front stage or factorisation starts on a free solver, a
front stage before any factorisation; where no write waits, a finished matrix is followed by the next, and the last one
completes the stage; the solver of a die held in reset or out of service does nothing. What the spec leaves open of this is
the model's choice: log entries 39 and 83. -/
def Obligations.SolverWorkDone : Prop :=
  ∀ (d : Die) (s : State),
    let o := solverOf s d.val
    let can := (frontDue s d.val).filter (fun w => !frontBlocked s d.val w)
    let quiet := dieHeld s d.val = false ∧ s.held = [] ∧ ∀ m, (stackOf s m).waitCow = []
    (dieHeld s d.val = true → exec (.frontStageStart d) s = .next s ∧ exec (.factorisationStart d) s = .next s ∧
      exec (.solverMatrixDone d) s = .next s) ∧
    (∀ w, o.running = none → dieHeld s d.val = false → firstWork o can = some w → ∃ t, exec (.frontStageStart d) s = .next t ∧
      (solverOf t d.val).running = some { num := w.1, step := w.2, stage := 0, matrix := 0, wrote := false }) ∧
    (∀ w, o.running = none → dieHeld s d.val = false → can = [] → firstWork o (factDue s d.val) = some w →
      ∃ t, exec (.factorisationStart d) s = .next t ∧
        (solverOf t d.val).running = some { num := w.1, step := w.2, stage := 1, matrix := 0, wrote := false } ∧ t.mem = s.mem) ∧
    (∀ w e, o.running = some w → mapFind o.descs w.num = some e → quiet →
      let v := solvOf e.bytes
      let xr := v.xRange w.matrix
      let ro := v.bankRange ((w.step.toNat + 1) % 2) w.matrix
      (w.stage = 0 → devPoison s xr.1 xr.2 = false → devPoison s ro.1 ro.2 = false → ∃ t, exec (.solverMatrixDone d) s = .next t ∧
        (w.matrix + 1 < v.batch → (solverOf t d.val).running = some { w with matrix := w.matrix + 1, wrote := false }) ∧
        (v.batch ≤ w.matrix + 1 → (solverOf t d.val).running = none ∧
          (solverOf t d.val).doneFront = o.doneFront ++ [(w.num, w.step)])) ∧
      (w.stage = 1 → slotHeld v e w.step = false → ∃ t, exec (.solverMatrixDone d) s = .next t ∧
        (w.matrix + 1 < v.batch → (solverOf t d.val).running = some { w with matrix := w.matrix + 1, wrote := false }) ∧
        (v.batch ≤ w.matrix + 1 → e.removing = false → (solverOf t d.val).running = none ∧
          mapFind (solverOf t d.val).descs w.num = some { e with next := w.step + 1 })))

/-- Steps (R20, R40 to R42, R161, R208, R244, R372, R374): a posted step begins with its stamp and its tally settings; a
step with nothing left to do commits and is no longer open, its holds are gone and its record moves the ring's head; the
close and replay agreements take the device's code, close the step, or run its replay. What the spec leaves open of this is
the model's choice: log entries 33, 46, 47 and 69. -/
def Obligations.Steps : Prop :=
  (∀ (k : Slot) (s : State) (x : Ctx) (e : StepSt), ctxOf s k.val = some x → nextStep x = some e → beginReady s k.val x e = true →
    solvStalls s k.val e.num = [] → (x.posts.all (fun p => p.tasks.all (fun d => d.2.isNone))) = true →
    ∃ t y e', exec (.stepBegin k) s = .next t ∧ ctxOf t k.val = some y ∧ stepSt? y e.num = some e' ∧ e'.begun = true ∧
      e'.stampBegin = stampAt s 0 ∧ y.pendingRegs = [] ∧ y.holdNext = none ∧ y.holdList = x.holdNext.getD x.holdList) ∧
  (∀ (k : Slot) (s : State) (x : Ctx) (e : StepSt), ctxOf s k.val = some x → oldestStep x = some e →
    commitReady s k.val x e = true → (e.replayed = true ∨ (e.consumed = false ∧ e.mismatch = false)) → e.tlyLog ≤ 16 →
    let n := (recordSlots x e (recordTensors s k.val x e)).length + 1
    (e.tlyOn = true → n ≤ ringFree s k.val e) →
    ∃ t y, exec (.stepCommit k) s = .next t ∧ ctxOf t k.val = some y ∧ y.committed = some e.num ∧ stepSt? y e.num = none ∧
      (∀ h ∈ t.held, ¬ (h.slot = k.val ∧ h.step = e.num ∧ h.isCut = false)) ∧
      (e.tlyOn = true → fget t F.RPR_TLY_RING.HEAD k.val = (fget s F.RPR_TLY_RING.HEAD k.val + n) % 2 ^ e.tlyLog)) ∧
  (∀ (k : Slot) (s : State) (x : Ctx) (e : StepSt) (c : Nat), ctxOf s k.val = some x →
    minBy? (fun e => e.num.toNat) (x.steps.filter (fun e => e.begun && !e.contributed)) = some e → multiDevice s k.val = true →
    ctxState s k.val = 1 → x.terminated = false → e.replaying = false → tasksLeft s k.val e.num = false →
    collsLeft s k.val e.num = false → stepCctx s k.val = some c → findColl s c 0xFFFFFFFF e.num = none →
    ((e.consumed = true ∨ e.mismatch = true) →
      e.poisonedLines.any (fun l => e.heldRanges.any (fun r => r.1 < 64 * l + 64 && 64 * l < r.2)) = false) →
    ∃ t y e' q, exec (.stepCloseContribute k) s = .next t ∧ ctxOf t k.val = some y ∧ stepSt? y e.num = some e' ∧
      e'.contributed = true ∧ findColl t c 0xFFFFFFFF e.num = some q ∧
      q.own = some (if e.consumed || e.mismatch then 0x80 else 0x01)) ∧
  (∀ (k : Slot) (s : State) (x : Ctx) (e : StepSt) (c code : Nat) (q : Coll), ctxOf s k.val = some x → stepCctx s k.val = some c →
    s.colls.find? (fun q => q.cctx == c && q.seq == 0xFFFFFFFF && q.slot == k.val && (agreedCode s q).isSome && q.own.isSome) =
      some q → agreedCode s q = some code → stepSt? x q.step = some e → x.terminated = false → ctxState s k.val = 1 →
    (code < 0x80 → ∃ t y e', exec (.stepCloseAgreed k) s = .next t ∧ ctxOf t k.val = some y ∧
      stepSt? y q.step = some e' ∧ e' = { e with closed := true } ∧ q ∉ t.colls) ∧
    (code = 0xFF → ∃ t y, exec (.stepCloseAgreed k) s = .next t ∧ ctxOf t k.val = some y ∧ y.terminated = true ∧
      ctxState t k.val = 2 ∧ counted F.FLT_TERMS.COUNT 0 0 1 s t)) ∧
  (∀ (k : Slot) (s : State) (x : Ctx) (e : StepSt), ctxOf s k.val = some x → x.steps.find? (fun e => e.replaying) = some e →
    ctxState s k.val = 1 → (x.posts.all (fun p => p.tasks.all (fun d => d.2.isNone))) = true →
    ((multiDevice s k.val = false ∧ replayReady s k.val e = true) ∨
      (multiDevice s k.val = true ∧ ∃ q, s.colls.find? (fun q =>
        q.seq == 0xFFFFFFFE && q.slot == k.val && q.step == e.num && q.own.isSome && (agreedCode s q).isSome) = some q)) →
    ∃ t y e', exec (.replayStartAgreed k) s = .next t ∧ ctxOf t k.val = some y ∧ stepSt? y e.num = some e' ∧
      e'.replaying = false ∧ e'.replayed = true ∧ y.joins = [] ∧ counted F.FLT_REPLAYS.COUNT 0 0 1 s t)

/-- Audits and margin runs (R382 to R386): equal task tallies free the audit core, different ones are counted and leave it
suspect; a run is counted and held until its results come, a unit that passes returns, one that fails is counted. What the
spec leaves open of this is the model's choice: log entries 46 and 51. -/
def Obligations.AuditsAndMargins : Prop :=
  (∀ (c : CoreId) (s : State) (r : Run) (w : DWord), taskOf c.val s = some r → r.isAudit = true → r.ended = true →
    r.refTally = some w → r.task.slot < 64 →
    ((settleRegion r).taskTally = w → ∃ t, exec (.auditCompare c) s = .next t ∧ taskOf c.val t = none ∧ t.ctxs = s.ctxs ∧
      t.mem = s.mem) ∧
    ((settleRegion r).taskTally ≠ w → ∃ t, exec (.auditCompare c) s = .next t ∧ taskOf c.val t = none ∧
      counted F.AUD_MISMATCH.COUNT 0 0 1 s t ∧ (coreOf t c.val).suspect = true ∧ (coreOf t r.orig).suspect = true)) ∧
  (∀ (u : UnitRef) (row : Fin 6) (s : State), fget s F.FLT_CFG.MRG_DAYS ≠ 0 → fget s F.MGMT_LOAD.SHED < 2 →
    s.mgmt.margins.any (fun m => m.1 == u) = false → marginOk s u row.val = true →
    ∃ t, exec (.marginRunStart u row) s = .next t ∧ t.mgmt.margins = s.mgmt.margins ++ [(u, row.val)] ∧
      counted F.MRG_RUNS.COUNT 0 0 1 s t ∧
      (u.kind.val = 0 → (coreOf t (272 * u.place.val + u.unit)).margin = some row.val ∧
        counted F.RPR_CYC.BREAKS u.place.val 0 1 s t ∧ fget t F.RPR_CYC.LAST_BREAK u.place.val = 6)) ∧
  (∀ (u : UnitRef) (passed : List Bool) (row : Nat) (s : State), s.mgmt.margins.find? (fun m => m.1 == u) = some (u, row) →
    (u.kind.val = 0 → (coreOf s (272 * u.place.val + u.unit)).margin = some row) →
    (marginLevels row ≤ passed.length → passed.all (fun b => b) = true → ∃ t, exec (.marginRunDone u passed) s = .next t ∧
      t.mgmt.margins = s.mgmt.margins.filter (fun n => n.1 != u) ∧
      (u.kind.val = 0 → (coreOf t (272 * u.place.val + u.unit)).margin = none ∧
        (coreOf t (272 * u.place.val + u.unit)).suspect = false)) ∧
    ((passed.take (marginLevels row)).any (fun b => !b) = true → ∃ t, exec (.marginRunDone u passed) s = .next t ∧
      t.mgmt.margins = s.mgmt.margins.filter (fun n => n.1 != u) ∧ counted F.MRG_FAILS.COUNT 0 0 1 s t))

/-- The exchanges (R251, R252, R254): a request carries the port's stamp and the next sequence number, a request that was
not resent is answered with its arrival stamp, and a matching reply gives both delays and steers by its offset where the
port is the source. What the spec leaves open of this is the model's choice: log entry 13. -/
def Obligations.TimeExchange : Prop :=
  (∀ (p : PortId) (s : State), fbit s F.MT_ASYM.DISC_EN p.val = true → portUp s p.val = true →
    let q := (portOf s p.val).reqSeq + 1
    ∃ t, exec (.exchangeRequestSend p) s = .next t ∧ (portOf t p.val).reqSeq = q ∧
      (portOf t p.val).reqT1 = some (portStamp s p.val) ∧
      queuedVc0 p.val (exchBody s 0x21 q.toNat (portStamp s p.val) 0 0) s t) ∧
  (∀ (p : PortId) (body : List Byte) (s : State), byteAt body 0 = 0x21 → portUp s p.val = true →
    let now := portStamp s p.val
    ∃ t, exec (.exchangeRequestReceive p body false) s = .next t ∧ t.time = s.time ∧
      queuedVc0 p.val (exchBody s 0x22 (getLE body 2 2) (dw (getLE body 8 8)) now now) s t) ∧
  (∀ (p : PortId) (body : List Byte) (s : State) (t1 : DWord), (portOf s p.val).reqT1 = some t1 → byteAt body 0 = 0x22 →
    getLE body 2 2 = (portOf s p.val).reqSeq.toNat → portUp s p.val = true → fbit s F.MT_ASYM.DISC_EN p.val = true →
    let t2 := dw (getLE body 16 8)
    let t3 := dw (getLE body 24 8)
    let t4 := portStamp s p.val
    let asym := (BitVec.ofNat 24 (fget s F.MT_ASYM.ASYM p.val)).signExtend 64
    let mean := half64 ((t4 - t1) - (t3 - t2))
    let off := half64 ((t2 - t1) - (t4 - t3) - asym)
    ∃ t, exec (.exchangeReplyReceive p body false) s = .next t ∧ (portOf t p.val).fwd = mean + half64 asym ∧
      (portOf t p.val).rev = mean - half64 asym ∧ (portOf t p.val).reqT1 = none ∧
      (fget t F.MT_STAT.SRC = 2 → fget t F.MT_STAT.SRC_PORT = p.val →
        if s.time.everLocked then t.time.slew = off ∧ t.time.now = s.time.now else t.time.now = s.time.now + off))

/-- Machine time's sources and its leaving and rejoining the slot schedule (R249, R253, R256, R257, R261, R263): a copy is
slewed by one mt, an edge off its place is counted and ignored, a good one counts toward the candidate, its loss drops the
source, a lost TIME_10M lets the error grow, and the schedule is left beyond four guards and rejoined after 1 ms. What the
spec leaves open of this is the model's choice: log entries 42 and 77. -/
def Obligations.TimeSources : Prop :=
  (∀ (d : Die) (s : State), mapGet 0 s.time.copies d.val ≠ 0 → s.time.copySlew = [] →
    ∃ t, exec (.mtCopyCorrection d) s = .next t ∧
      mapGet 0 (tick t).time.copies d.val = towardZero (mapGet 0 s.time.copies d.val) ∧
      ∀ e, e ≠ d.val → mapGet 0 (tick t).time.copies e = mapGet 0 s.time.copies e) ∧
  (∀ (s : State) (a l : DWord) (g : Nat), s.time.errOkSince = some a → s.time.leftAt = some l → fbit s F.MT_STAT.OFF_SCHED = true →
    16000000 ≤ (s.time.now - a).toNat → leastGuard s = some g → fget s F.MT_ERR.MT ≤ g →
    ∃ t, exec .offScheduleRejoin s = .next t ∧ fbit t F.MT_STAT.OFF_SCHED = false ∧ t.time.leftAt = none) ∧
  (∀ (s : State) (g : Nat), leastGuard s = some g → 4 * g < fget s F.MT_ERR.MT → fbit s F.MT_STAT.OFF_SCHED = false →
    ∃ t, exec .holdoverErrorCrossesFourGuards s = .next t ∧ fbit t F.MT_STAT.OFF_SCHED = true ∧
      t.time.leftAt = some (stampAt s 0)) ∧
  (∀ (s : State), fbit s F.MT_CTRL.PPS_EN = true →
    let far := (s.time.everLocked || s.time.ppsSeen) && 16000 < abs64 (ppsOffset s)
    (far = true → ∃ t, exec .ppsEdge s = .next t ∧ t.time = { s.time with ppsGood := 0 } ∧
      counted F.MT_STAT.PPS_BAD 0 0 1 s t) ∧
    (far = false → ∃ t, exec .ppsEdge s = .next t ∧ t.time.ppsGood = satTo 16 (s.time.ppsGood + 1) ∧
      ((s.time.ppsDropped = false ∨ 15 ≤ s.time.ppsGood) → t.time.ppsCand = true))) ∧
  (∀ (s : State), fbit s F.MT_CTRL.PPS_EN = true → ∃ t, exec .ppsMissTimeout s = .next t ∧ fbit t F.MT_STAT.PPS_MISS = true ∧
    t.time.ppsCand = false ∧ t.time.ppsDropped = true ∧
    (fget s F.MT_STAT.SRC ≠ 0 → (∀ p, p < 36 → portFigure s p = none) →
      fget t F.MT_STAT.SRC = 0 ∧ fget t F.MT_STAT.STATE = if s.time.everLocked then 3 else 0)) ∧
  (∀ (s : State), fget s F.PWR_STAT.STATE ≠ 2 → fget s F.MT_STAT.STATE = 2 → fbit s F.MT_CTRL.TEN_EN = true →
    fget s F.MT_STAT.SRC = 1 →
    (∃ t, exec .time10mLost s = .next t ∧ errPeriod t = some 100000000 ∧ t.regs = s.regs) ∧
    (∃ t, exec .time10mReturn s = .next t ∧ errPeriod t = none ∧ t.time.errTicks = 0 ∧ t.regs = s.regs))

/-- The slot schedule (R258 to R260): entry words take effect at a frame boundary; a burst of VC1 stays in the room of its
slot and gives way to a due marker, control flit or eligible VC0; a frame out of its slot is counted and held, and frames
held from earlier occurrences are handed on before one in its slot. What the spec leaves open of this is the model's choice:
log entry 89. -/
def Obligations.SlotSchedule : Prop :=
  (∀ (s : State), mapRises s.time.slotNext = true → ∃ t, exec .frameBoundary s = .next t ∧ t.time.slotNext = [] ∧
    ∀ off v r p e, mapFind s.time.slotNext off = some v → regAt off = some (r, p, e) → (r = .SLOT_ENT_A ∨ r = .SLOT_ENT_B) →
      rget t r p e = v) ∧
  (∀ (p : PortId) (e : Fin 64) (s : State), ∃ t, exec (.slotOccurrenceStart p e) s = .next t ∧
    (∀ h ∈ (portOf t p.val).slotHeld, h.entry ≠ e.val) ∧
    (portOf t p.val).arrived = (portOf s p.val).arrived ++
      (((portOf s p.val).slotHeld.filter (fun h => h.entry == e.val)).map (·.flits)).flatten) ∧
  (∀ (p : PortId) (e : Fin 64) (s : State), portMoves s p.val = true → fbit s F.MT_STAT.OFF_SCHED = false →
    fbit s F.FI_CTRL.ARM p.val = false →
    let n := slotRoom s p.val e.val
    (n = 0 ∨ vc1Next (portOf s p.val) = false → exec (.slotFrameSend p e) s = .next s) ∧
    (0 < n → vc1Next (portOf s p.val) = true → ∃ t w, exec (.slotFrameSend p e) s = .next t ∧ w ≠ [] ∧ (portOf t p.val).slotSent = [(e.val, w)] ∧
      (portOf s p.val).sinceMarker < (portOf t p.val).sinceMarker ∧
      (portOf t p.val).sinceMarker ≤ (portOf s p.val).sinceMarker + n)) ∧
  (∀ (p : PortId) (e : Fin 64) (a b : DWord) (w : List Byte) (s : State), portMoves s p.val = true →
    let free := !fbit s F.SLOT_ENT_B.VALID p.val e.val || (portOf s p.val).farOffSched
    ∃ t, exec (.slotFrameReceive p e a b w) s = .next t ∧
      (free = true → fget t F.SLOT_EDGE.COUNT p.val = fget s F.SLOT_EDGE.COUNT p.val) ∧
      (∀ n, free = false → slotInTime s p.val e.val a b = some n →
        fget t F.SLOT_EDGE.COUNT p.val = fget s F.SLOT_EDGE.COUNT p.val ∧
        ∀ h ∈ (portOf t p.val).slotHeld, h.entry = e.val → n ≤ h.occ) ∧
      (free = false → slotInTime s p.val e.val a b = none → counted F.SLOT_EDGE.COUNT p.val 0 1 s t))

/-- The link layer (R270, R271, R280, R281, R283, R288 to R290, R403): a bad frame is counted, the next data flit in
sequence is taken and one ahead asks for a go-back; every frame slot is counted, a due control flit goes first, and a marker
carries a waiting map into force; a go-back replays all kept flits, the 32nd fails the port; a lost lane is counted and
marked. What the spec leaves open of this is the model's choice: log entries 43 and 76. -/
def Obligations.LinkLayer : Prop :=
  (∀ (p : PortId) (w : List Byte) (s : State), portMoves s p.val = true →
    (frameGood w = none → ∃ t, exec (.frameReceive p w) s = .next t ∧ counted F.LNK_FEC_BAD.COUNT p.val 0 1 s t ∧
      t.ports = s.ports) ∧
    (∀ bs n, frameGood w = some (bs, n) → frameKind bs = 1 →
      let f := frameFlit bs
      let r := rxVc (portOf s p.val) f.vc
      (f.seq = r.nextSeq % 2 ^ 21 → ∃ t, exec (.frameReceive p w) s = .next t ∧
        counted F.LNK_FEC_CORR.COUNT p.val 0 n s t ∧
        (rxVc (portOf t p.val) f.vc).nextSeq = (r.nextSeq + 1) % 2 ^ 21 ∧ (rxVc (portOf t p.val) f.vc).nak = false) ∧
      (let gap := (f.seq + 2 ^ 21 - r.nextSeq % 2 ^ 21) % 2 ^ 21
       0 < gap → gap < 2 ^ 20 → ∃ t, exec (.frameReceive p w) s = .next t ∧
        (rxVc (portOf t p.val) f.vc).nextSeq = r.nextSeq ∧ (rxVc (portOf t p.val) f.vc).nak = true))) ∧
  (∀ (p : PortId) (s : State), 2 ≤ portState s p.val → portState s p.val ≠ 6 → 4096 ≤ (portOf s p.val).sinceMarker →
    ∃ t, exec (.markerSend p) s = .next t ∧ (portOf t p.val).sinceMarker = 0 ∧ (portOf t p.val).txSubstDue = none ∧
      (portOf t p.val).txNarrowDue = false ∧ (portOf t p.val).markers = ((portOf s p.val).markers + 1) % 2 ^ 32 ∧
      (∀ l, l < 9 → (portOf s p.val).txNarrowDue = false → (portOf s p.val).txSubstDue = some l →
        fget t F.LNK_LANES.TX_SUBST p.val = l)) ∧
  (∀ (p : PortId) (m : BitVec 4) (s : State), portMoves s p.val = true ∨ portState s p.val = 5 →
    ((∀ l, mapGet 0 (portOf s p.val).laneCorr l ≤ 1024) →
      (∃ t, exec (.markerReceive p false m) s = .next t ∧ fget t F.LNK_STAT.WIDTH p.val = 4) ∧
      (∃ t, exec (.markerReceive p true m) s = .next t ∧ fget t F.LNK_LANES.RX_SUBST p.val = m.toNat)) ∧
    (∀ l : Fin 9, 1024 < mapGet 0 (portOf s p.val).laneCorr l.val → mapGet 0 (portOf s p.val).laneRuns l.val = 15 →
      (∀ o, o ≠ l.val → mapGet 0 (portOf s p.val).laneCorr o ≤ 1024) → laneLive s p.val l.val = true →
      m.toNat = fget s F.LNK_LANES.RX_SUBST p.val →
      ∃ t, exec (.markerReceive p true m) s = .next t ∧ counted F.LNK_LANE_EVT.COUNT p.val 0 1 s t)) ∧
  (∀ (p : PortId) (s : State), 2 ≤ portState s p.val → portState s p.val ≠ 6 → (portOf s p.val).sinceMarker < 4096 →
    ∃ t, exec (.frameSlotArbitration p) s = .next t ∧ (portOf t p.val).sinceMarker = (portOf s p.val).sinceMarker + 1 ∧
      (portOf t p.val).windowFrames = (portOf s p.val).windowFrames + 1 ∧
      ((255 ≤ (portOf s p.val).sinceCtl ∨ (portOf s p.val).ctlDue = true ∨ portMoves s p.val = false) →
        (portOf t p.val).sinceCtl = 0 ∧ (portOf t p.val).ctlDue = false)) ∧
  (∀ (p : PortId) (v : Fin 8) (s : State), portMoves s p.val = true →
    let x := txVc (portOf s p.val) v.val
    x.kept ≠ [] →
    ∃ t, exec (.retryTimeout p v) s = .next t ∧ counted F.LNK_RETRY.COUNT p.val 0 1 s t ∧
      (x.goBacks + 1 < 32 → (txVc (portOf t p.val) v.val).replay = x.kept.map (fun f => { f with retx := true }) ∧
        (txVc (portOf t p.val) v.val).goBacks = x.goBacks + 1) ∧
      (32 ≤ x.goBacks + 1 → portState t p.val = 6 ∧ fget t F.LNK_STAT.CAUSE p.val = 2)) ∧
  (∀ (p : PortId) (l : Fin 9) (s : State), laneLive s p.val l.val = true →
    ∃ t, exec (.laneLoss p l) s = .next t ∧ counted F.LNK_LANE_EVT.COUNT p.val 0 1 s t ∧
      fget t F.LNK_LANES.RX_FAILED p.val = fget s F.LNK_LANES.RX_FAILED p.val + 2 ^ l.val) ∧
  (∀ (p : PortId) (s : State), ∃ t, exec (.frameSlotShareWindowEnd p) s = .next t ∧ (portOf t p.val).windowFrames = 0 ∧
    (portOf t p.val).vcFrames = 0 ∧ (portOf t p.val).bulkWaited = [] ∧
    ((portOf t p.val).share.isSome =
      ((portOf s p.val).windowFrames < 2 * (portOf s p.val).vcFrames && !(portOf s p.val).bulkWaited.isEmpty)))

/-- Ports (R285, R286, R290, R291, R295 to R298, R466): training ends UP at the width its lanes give, or is repeated and
fails after eight attempts; a drain starts at the button, is abandoned after 10 s; a cable that comes trains, one that goes
fails the port; the button and presence watchers are noted; each port's light shows its attention state. What the spec
leaves open of this is the model's choice: log entries 27, 43 and 89. -/
def Obligations.Ports : Prop :=
  (∀ (p : PortId) (r : TrainResult) (s : State), portState s p.val = 2 → (portOf s p.val).trainPending = false →
    lrOn (portOf s p.val) = false →
    let k := portOf s p.val
    (4 ≤ lanesIn r.rxLock.toNat → 4 ≤ lanesIn r.txLock.toNat →
      (bitAt k.cfg.toNat 28 = true → bitsOf k.cfg.toNat 27 14 = r.farNode.toNat) →
      roleOf k ≠ 3 → (roleOf k = r.farRole.toNat ∨ r.farRole.toNat = 3) →
      ∃ t, exec (.trainingAttemptEnd p r) s = .next t ∧ portState t p.val = 3 ∧
        fget t F.LNK_STAT.WIDTH p.val =
          (if (substFor r.rxLock.toNat).isSome && (substFor r.txLock.toNat).isSome then 8 else 4) ∧
        fget t F.LNK_NEIGH.NODE p.val = r.farNode.toNat) ∧
    (lanesIn r.rxLock.toNat < 4 ∨ lanesIn r.txLock.toNat < 4 →
      (k.quiet = true → ∃ t, exec (.trainingAttemptEnd p r) s = .next t ∧ portState t p.val = 2 ∧
        (portOf t p.val).attempts = k.attempts ∧ (portOf t p.val).trainPending = true) ∧
      (k.quiet = false → k.attempts + 1 < 8 → ∃ t, exec (.trainingAttemptEnd p r) s = .next t ∧ portState t p.val = 2 ∧
        (portOf t p.val).attempts = k.attempts + 1 ∧ (portOf t p.val).trainPending = true) ∧
      (k.quiet = false → 8 ≤ k.attempts + 1 → ∃ t, exec (.trainingAttemptEnd p r) s = .next t ∧ portState t p.val = 6 ∧
        fget t F.LNK_STAT.CAUSE p.val = 3))) ∧
  (∀ (p : PortId) (s : State), portState s p.val = 2 → (portOf s p.val).trainPending = true →
    ∃ t, exec (.trainingRetryTimer p) s = .next t ∧ (portOf t p.val).trainPending = false ∧
      portState t p.val = trainState s p.val) ∧
  (∀ (p : PortId) (s : State), atticOnly s = false → mapGet false s.plat.flapping p.val = false →
    (fbit s F.LNK_HP.PRESENT p.val = false → 9 ≤ fget s F.BOOT_STAT.PHASE → ∃ t, exec (.presenceChange p true) s = .next t ∧
      fbit t F.LNK_HP.PRESENT p.val = true ∧ portState t p.val = trainState s p.val) ∧
    (fbit s F.LNK_HP.PRESENT p.val = true → portMoves s p.val = true → ∃ t, exec (.presenceChange p false) s = .next t ∧
      fbit t F.LNK_HP.PRESENT p.val = false ∧ portState t p.val = 6 ∧ fget t F.LNK_STAT.CAUSE p.val = 5)) ∧
  (∀ (s : State), atticOnly s = false → ∃ t, exec .serviceButtonPress s = .next t ∧ t.plat.svcStuck = false ∧
    ∀ p, p < 36 → portUp s p = true → fbit s F.LNK_HP.SVC_MARK p = true →
      (mapStable (portOf s p) = true → portState t p = 4) ∧
      (mapStable (portOf s p) = false → portUp t p = true ∧ (portOf t p).drainDue = true)) ∧
  (∀ (p : PortId) (s : State), portState s p.val = 4 → ∃ t, exec (.drainTimeout p) s = .next t ∧ portUp t p.val = true ∧
    fbit t F.LNK_HP.DRAIN_ABORT p.val = true ∧ (portOf t p.val).drainDone = false) ∧
  (∀ (p : PortId) (s : State), ∃ t, exec (.attnTrainedExpiry p) s = .next t ∧ (portOf t p.val).trainedShow = false ∧
    fget t F.LNK_HP.ATTN p.val ≠ 4) ∧
  (∀ (p : PortId) (s : State),
    let code := fget s F.LNK_HP.ATTN p.val
    let ms := s.time.now.toNat / 16000000
    (atticOnly s = true → attnLight s p.val = false) ∧
    (atticOnly s = false → (code = 0 → attnLight s p.val = false) ∧
      (code = 1 → attnLight s p.val = decide (ms % 1000 < 500)) ∧ (code = 2 → attnLight s p.val = decide (ms % 250 < 125)) ∧
      (code = 3 → attnLight s p.val = true) ∧
      (code = 4 → attnLight s p.val = decide (ms % 1000 < 100 ∨ (200 ≤ ms % 1000 ∧ ms % 1000 < 300))) ∧
      (code = 5 → attnLight s p.val = decide (ms % 1000 < 100)) ∧
      (code = 6 → attnLight s p.val = decide (ms % 2000 < 1000)))) ∧
  (∀ (s : State), ∃ t, exec .svcButtonStuck s = .next t ∧ t.plat.svcStuck = true ∧ fbit t F.SB_STAT.SVC_STUCK = true) ∧
  (∀ (p : PortId) (s : State), ∃ t, exec (.presenceFlap p) s = .next t ∧ mapGet false t.plat.flapping p.val = true ∧
    fbit t F.SB_STAT.PRSNT_FLAP = true ∧ fget t F.SB_STAT.FLAP_PORT = p.val) ∧
  (∀ (p : PortId) (s : State), ∃ t, exec (.presenceFlapEnd p) s = .next t ∧ mapGet false t.plat.flapping p.val = false ∧
    t.regs = s.regs)

/-- The routing engine and end-to-end delivery (R305, R307, R311 to R314, R332, R337, R403): a whole packet goes to delivery
here, on to the route's port, or is given up; a packet in order is delivered, one ahead is kept in the window, one behind is
counted and dropped; acknowledgements free what they cover, refusals and timeouts resend the rest, and flows are held, given
up or lost. What the spec leaves open of this is the model's choice: log entries 44, 79 and 80. -/
def Obligations.PacketDelivery : Prop :=
  (∀ (p : PortId) (s : State) (f : Flit) (fl rest : List Flit) (pk : Pkt), nextArrived s p.val = some (f :: fl, rest) →
    let got := (f :: fl).map (poolGet s)
    f.vc ≠ 0 → flitsPkt got = some pk →
    ∃ t, exec (.packetForward p) s = .next t ∧ (portOf t p.val).arrived = rest ∧
      (pk.key.dst.toNat = ownNode s → t.deliver = s.deliver ++ [pk]) ∧
      (∀ q, pk.key.dst.toNat ≠ ownNode s → route s pk.key.dst.toNat false pk.key = some q → t.deliver = s.deliver ∧
        (txVc (portOf t q) f.vc).queue = (txVc (portOf s q) f.vc).queue ++
          got.map (onward s p.val)) ∧
      (pk.key.dst.toNat ≠ ownNode s → route s pk.key.dst.toNat false pk.key = none → t.deliver = s.deliver)) ∧
  (∀ (s : State) (pk : Pkt) (rest : List Pkt), takeFirst? (mayDeliver s) s.deliver = some (pk, rest) →
    (parked s && pktBound s pk) = false → pk.key.src ≠ pk.key.dst →
    let r := rxOf s pk.key
    let d := seqAhead pk.e2e r.next
    (d = 0 → pk.ptype = 1 → pktStowed s pk = none → r.window = [] →
      ∃ t, exec .packetDeliver s = .next t ∧ t.deliver = rest ∧ t.msgIn = s.msgIn ++ [pktMsg pk] ∧
        (rxOf t pk.key).next = (r.next + 1) % 2 ^ 32 ∧ (rxOf t pk.key).sinceAck = r.sinceAck + 1) ∧
    (0 < d → d ≤ 4095 → mapFind r.window pk.e2e = none → ∃ t, exec .packetDeliver s = .next t ∧ t.deliver = rest ∧
      mapFind (rxOf t pk.key).window pk.e2e = some pk ∧ (rxOf t pk.key).next = r.next ∧ (rxOf t pk.key).gap = true ∧
      counted F.COL_REORDER.COUNT 0 0 1 s t) ∧
    (4095 < d → d < 2 ^ 31 → ∃ t, exec .packetDeliver s = .next t ∧ t.deliver = rest ∧ t.msgIn = s.msgIn ∧
      counted F.COL_DROP.COUNT 0 0 1 s t ∧ ctlSent pk.key.src.toNat (e2eBody 0x24 pk.key r.next) s t) ∧
    (2 ^ 31 ≤ d → ∃ t, exec .packetDeliver s = .next t ∧ t.deliver = rest ∧ t.flowsRx = s.flowsRx ∧ t.msgIn = s.msgIn ∧
      counted F.COL_DROP.COUNT 0 0 1 s t)) ∧
  (∀ (body : List Byte) (s : State) (f : FlowTx), byteAt body 0 = 0x23 → (ackOf body).1.src.toNat = ownNode s →
    flowTx? s (ackOf body).1 = some f → seqAhead (ackOf body).2 f.acked ≤ seqAhead f.next f.acked →
    let kept := f.kept.filter (fun pk => decide (seqAhead pk.e2e (ackOf body).2 < 2 ^ 31))
    ∃ t u, exec (.e2eAckReceive body) s = .next t ∧ flowTx? t (ackOf body).1 = some u ∧ u.acked = (ackOf body).2 ∧
      ∃ more, u.kept = kept ++ more) ∧
  (∀ (key : FlowKey) (from0 : Nat) (body : List Byte) (s : State) (f : FlowTx), flowTx? s key = some f →
    let path := match f.port with
      | some p => if portMoves s p then some p else flowPath s key f
      | none => flowPath s key f
    let done := fun (i : Instr) (n : Nat) => ∃ t, exec i s = .next t ∧ flowTx? t key = some { f with port := path } ∧
      (path ≠ none → counted F.COL_RETX.COUNT 0 0
        (f.kept.filter (fun pk => decide ((pk.e2e + 2 ^ 32 - n) % 2 ^ 32 < 2 ^ 31))).length s t)
    (byteAt body 0 = 0x24 → ackOf body = (key, from0) → key.src.toNat = ownNode s → done (.e2eNakReceive body) from0) ∧
    done (.e2eResendTimeout key) f.acked ∧
    (f.breach = none → f.held ≠ [] ∨ f.kept ≠ [] → ∃ t, exec (.flowHeldOver1Ms key) s = .next t ∧
      flowTx? t key = some { f with breach := some (s.time.now - 16000000, flowCtxs s key f) }) ∧
    (f.kept = [] → f.held = [] → 16000000 ≤ (s.time.now - f.closedAt).toNat → s.flowWait = [] →
      ∃ t, exec (.flowEntryReclaim key) s = .next t ∧ flowTx? t key = none)) ∧
  (∀ (key : FlowKey) (s : State) (r : FlowRx), key.dst.toNat = ownNode s → flowRx? s key = some r → flowTx? s key = none →
    r.window = [] → r.sinceAck = 0 → 16000000 ≤ (s.time.now - r.closedAt).toNat →
    ∃ t, exec (.flowEntryReclaim key) s = .next t ∧ flowRx? t key = none) ∧
  (∀ (key : FlowKey) (s : State) (r : FlowRx), flowRx? s key = some r →
    (r.sinceAck ≠ 0 → ∃ t, exec (.e2eAckSend key) s = .next t ∧ flowRx? t key = some { r with sinceAck := 0, closedAt := s.time.now } ∧
      ctlSent key.src.toNat (e2eBody 0x23 key r.next) s t) ∧
    (r.gap = true → ∃ t, exec (.e2eNakSend key) s = .next t ∧ t.flowsRx = s.flowsRx ∧
      ctlSent key.src.toNat (e2eBody 0x24 key r.next) s t)) ∧
  (∀ (node : NodeId) (s : State), node.toNat ≠ ownNode s →
    s.flowsTx.any (fun (e : FlowKey × FlowTx) => e.1.dst == node && !(e.2.kept.isEmpty && e.2.held.isEmpty)) = true →
    ∃ t, exec (.destUnreachable node) s = .next t ∧ (∀ m ∈ t.msgOut, m.dst ≠ node.toNat) ∧
      (∀ k ∈ t.colls, isStepSeq k.seq = true ∨ node.toNat ∉ collMembers t k))

/-- Collectives (R101, R320 to R322, R326, R328, R330, R332): the first in issue order starts where a slot and its banks are
free and else waits, counted once; a done one leaves the open ones and is remembered; an abort ends it and halts its
context; an agreed code reaches its sequence. What the spec leaves open of this is the model's choice: log entries 45 and
85. -/
def Obligations.Collectives : Prop :=
  (∀ (s : State) (k : Coll), s.colls.find? (seqReady s) = none → s.colls.find? (stageResumes s) = none →
    minBy? (fun k => (collArrival k).toNat) (s.colls.filter (fun k => collReady s k && !inputFenced s k)) = some k →
    let need := (collBytes (collMembers s k) (collDesc k) + 131071) / 131072
    let k1 := { k with started := true, banks := need }
    (collsFlying s < 256 → need ≤ banksFree s → checkWrong s k1 = false → inputFault s k1 (collView s k1 false) = none →
      stageMeets s k1 (collView s k1 false) 1 ≠ 2 →
      poisonMarks s (collView s k1 false).red k.slot k.step →
      ∃ t q, exec .collectiveStart s = .next t ∧ findColl t k.cctx k.seq k.step = some q ∧ q.started = true ∧ q.banks = need) ∧
    (256 ≤ collsFlying s ∨ banksFree s < need → k.waited = false → ∃ t q, exec .collectiveStart s = .next t ∧
      findColl t k.cctx k.seq k.step = some q ∧ q.started = false ∧ q.waited = true ∧ counted F.COL_WAIT.COUNT 0 0 1 s t)) ∧
  (∀ (c : BitVec 10) (q : Word) (n : DWord) (s : State) (k : Coll), findColl s c.toNat q n = some k → k.started = true →
    collDone s k = true → ctxState s k.slot = 1 → isStepSeq q = false →
    let v := collView s k false
    let out := collOutput v k
    let g := outRange k out
    (k.wrote = true → devWaits s g.1 (g.2 - g.1) = true → exec (.collectiveComplete c q n) s = .next s) ∧
    (s.held = [] → (∀ m, (stackOf s m).waitCow = []) → accessCause s k.slot .coll g.1 (g.2 - g.1) = none → hitsHighHalf s [g] = false →
    (out = [] ∨ fencesOf s k.slot k.step true [g] = []) → poisonMarks s v.red k.slot k.step →
    ∃ t, exec (.collectiveComplete c q n) s = .next t ∧ findColl t c.toNat q n = none ∧
      (k.slot, n, c.toNat, q) ∈ t.collsDone)) ∧
  (∀ (body : List Byte) (s : State) (x : Cctx) (y : Ctx) (k : Coll), mapFind s.cctxs (getLE body 2 2) = some x → x.slot < 64 →
    ctxOf s x.slot = some y → y.terminated = false → ctxState s x.slot = 1 → isStepSeq (wd (getLE body 4 4)) = false →
    findColl s (getLE body 2 2) (wd (getLE body 4 4)) (dw (getLE body 8 8)) = some k →
    ∃ t, exec (.collAbortReceive body) s = .next t ∧ k ∉ t.colls ∧ ctxState t x.slot = 2) ∧
  (∀ (c : BitVec 10) (q : Word) (n : DWord) (s : State) (k : Coll) (code : Nat), findColl s c.toNat q n = some k →
    isStepSeq q = false → k.agreed = none → agreedCode s k = some code →
    ∃ t u, exec (.agreementComplete c q n) s = .next t ∧ findColl t c.toNat q n = some u ∧ u.agreed = some code ∧ u.prepass = [])

/-- Checkpoint streams, the file store and restores (R352, R353, R355, R357, R358): the next piece of an image goes out on a
port of its stream; a stream packet at its buddy is kept, and the header that completes an image makes its slot valid; a
chunk of the file store moves the ring; a restore makes the image's step the committed one. What the spec leaves open of
this is the model's choice: log entries 4, 18, 19 and 48. -/
def Obligations.CheckpointStreams : Prop :=
  (∀ (k : Slot) (s : State) (x : Ctx) (m : Stream) (c : Piece) (rest : List Piece), ctxOf s (streamOwner s k.val) = some x →
    x.stream = some m → m.started = true → m.toFile = false → streamPorts s m ≠ [] → nextPiece s m = some (c, rest) →
    ∃ t y, ∃ p ∈ streamPorts s m, exec (.streamPageSend k) s = .next t ∧ ctxOf t (streamOwner s k.val) = some y ∧
      y.stream = some { m with todo := rest, out := m.out ++ [(c, p)] }) ∧
  (∀ (src : NodeId) (off : DWord) (data : List Byte) (bad : List Bool) (s : State), fget s F.STR_BUDDY_CFG.SLOTS ≠ 0 →
    fget s F.STR_BUDDY_CFG.SRC_NODE = src.toNat → fbit s F.STR_BUDDY_STAT.RECEIVING = true →
    off.toNat + data.length ≤ fget s F.STR_BUDDY_CFG.SLOT_GIB * 2 ^ 30 →
    let k := fget s F.STR_BUDDY_STAT.RX_SLOT
    let got := mapPut s.buddyGot (2 ^ 41 * k + off.toNat) data.length
    let whole := (got.filter (fun (e : Nat × Nat) => e.1 / 2 ^ 41 == k)).foldl (fun n (e : Nat × Nat) => n + e.2) 0
    (∃ t, exec (.buddyStreamReceive src off data bad false) s = .next t ∧ t.buddyGot = got ∧
      fget t F.STR_BUDDY_STAT.RX_SLOT = k ∧ fbit t F.STR_BUDDY_STAT.RECEIVING = true) ∧
    (bitAt (byteAt data 38) 1 = true → whole = getLE data 24 8 → ∃ t, exec (.buddyStreamReceive src off data bad true) s = .next t ∧
      buddyValid t k = true ∧ fbit t F.STR_BUDDY_STAT.RECEIVING = false)) ∧
  (∀ (k : Slot) (s : State) (x : Ctx) (m : Stream) (base size : Nat), ctxOf s (streamOwner s k.val) = some x → x.stream = some m →
    x.fsRing = some (base, size) → m.started = true → m.toFile = true → size ≠ 0 → m.acked + 2 ^ 22 < m.image.length →
    let frame := zstdFrame ((m.image.drop m.acked).take (2 ^ 22))
    ∃ t y, exec (.fsStreamChunk k) s = .next t ∧ ctxOf t (streamOwner s k.val) = some y ∧
      y.stream = some { m with acked := m.acked + 2 ^ 22, todo := m.todo.filter (fun p => decide (m.acked + 2 ^ 22 < p.off + p.len)) } ∧ y.fsPos = (x.fsPos + frame.length) % size ∧
      t.host = (ringPut base size x.fsPos frame s).host ∧ t.mem = s.mem) ∧
  (∀ (k : Slot) (s : State) (x : Ctx) (r : Restore) (im : List Byte) (bad : Nat → Bool) (dir : List DirEnt),
    ctxOf s k.val = some x → x.restoreCmd = some r → restoreImage s x r = (some im, bad, false) → imageDir im = some dir →
    (r.map.map mapEntOf).all (entOk s k.val dir) = true →
    let n := dw (getLE im 8 8)
    ∃ t y, exec (.restoreComplete k) s = .next t ∧ ctxOf t k.val = some y ∧ y.committed = some n ∧ y.lastPosted = some n ∧
      y.restored = some n ∧ y.restoreCmd = none ∧ y.terminated = false ∧ (ctxState s k.val = 2 → ctxState t k.val = 1))

/-- Moves, saved tasks, idle and stowed contexts, and function resets (R394 to R401, R408): a move takes its group from the
source to the destination and lateness is counted; a saved task goes on where it stopped; an idle context is marked; a
stowed context leaves its slot and one that returns is bound again; a reset turns rings off and unbinds what the function
owns. What the spec leaves open of this is the model's choice: log entries 49 and 50. -/
def Obligations.Tenancy : Prop :=
  (∀ (s : State) (m : Move) (rest : List Move), takeFirst? (moveReady s) s.mgmt.moves = some (m, rest) → m.group < 128 →
    (∀ c ∈ groupCores s m.group, auditOf s c = none) →
    ∃ t, exec .moveComplete s = .next t ∧ t.mgmt.moves = rest ∧
      (m.dst ≠ some m.src → ∀ x, ctxOf t m.src = some x → m.group ∉ x.groups) ∧
      (∀ d y, m.dst = some d → d ≠ m.src → d < 64 → ctxOf s d = some y → (ctxState s d = 1 ∨ ctxState s d = 2) →
        ∃ z, ctxOf t d = some z ∧ m.group ∈ z.groups)) ∧
  (∀ (s : State) (m : Move), s.mgmt.moves.find? (fun m => !m.late) = some m → ∃ t, exec .moveBeyond3Ms s = .next t ∧
    (∀ o ∈ t.mgmt.moves, o.group = m.group → o.late = true) ∧ counted F.TEN_MOVE_LATE.COUNT 0 0 1 s t) ∧
  (∀ (c : CoreId) (s : State) (p : Probe) (t : Task) (n : Nat) (im : Core) (r : Run), (coreOf s c.val).probe = some p →
    p.reply = some (some t) → t.saved = some n → mapFind s.saves n = some im → im.run = some r → ctxState s t.slot = 1 →
    ∃ u, exec (.savedTaskResume c) s = .next u ∧ taskOf c.val u = some { r with task := { r.task with saved := none } } ∧
      (coreOf u c.val).x = im.x ∧ (coreOf u c.val).pc = im.pc ∧ (coreOf u c.val).shelf = im.shelf ∧
      (coreOf u c.val).v = im.v ∧ (coreOf u c.val).crate = im.crate ∧ (coreOf u c.val).cyc = im.cyc ∧
      mapFind u.saves n = none ∧ u.mem = s.mem) ∧
  (∀ (k : Slot) (s : State), s.mgmt.unbinding = [] → workless s k.val = true → ∃ t, exec (.contextIdle k) s = .next t ∧
    fbit t F.CTX_STAT.IDLE k.val = true ∧ t.ctxs = s.ctxs) ∧
  (∀ (k : Slot) (s : State) (x : Ctx) (n : Nat), s.mgmt.stows.find? (fun w => w.1 == k.val) = some (k.val, none) →
    freeEntry (modMgmt (fun m => { m with stows := m.stows.filter (fun v => v.1 != k.val) }) s) = some n → ctxOf s k.val = some x →
    ∃ t, exec (.stowComplete k) s = .next t ∧ ctxOf t k.val = none ∧ (ctxOf t (stowTag n)).isSome = true ∧
      ∃ e ∈ t.stowed, e.entry = n ∧ e.slot = k.val) ∧
  (∀ (k : Slot) (s : State) (x : Ctx) (e : Stowed), s.mgmt.unstows.contains k.val = true → nextUnstow s k.val = some e →
    ctxOf s (stowTag e.entry) = some x → (∀ g ∈ x.granules, g < 1024) → (∀ g ∈ x.groups, g < 128) →
    ∃ u, exec (.unstowComplete k) s = .next (takeLaunches (runStalled u)) ∧ ctxState u k.val = 1 ∧
      (ctxOf u k.val).isSome = true ∧ (∀ f ∈ u.stowed, f.entry ≠ e.entry) ∧ k.val ∉ u.mgmt.unstows) ∧
  (∀ (f : Fn) (s : State), s.mgmt.stows = [] → s.stowed = [] → s.mgmt.unbinding = [] → ∃ t, exec (.flr f) s = .next t ∧
    (∀ k x, k < 64 → ctxOf s k = some x → ownerOf s k = f.val → (k, none) ∈ t.mgmt.unbinding ∨ ctxOf t k = none) ∧
    (s.ctxs.all (fun (e : Nat × Ctx) => ownerOf s e.1 != f.val) = true → fbit t F.MB_STAT.FULL f.val = false ∧
      fbit t F.MB_OSTAT.FULL f.val = false ∧ ∀ r, r < 4 → fbit t F.RING_CFG.EN f.val r = false)) ∧
  (∀ (s : State), ∃ t, exec .pcieHotReset s = .next t ∧ t.ctxs = s.ctxs ∧
    (∀ f r, f < 65 → r < 4 → fbit t F.RING_CFG.EN f r = false) ∧
    ∀ c ∈ t.mgmt.taken, isMctp c.src = false → c.mute = true)

/-- Register accesses (R5, R6, R7, R9, R407, R429, R433): a write that has the right, no lock and room in the log takes
effect under the access codes, with one log entry, and changes no other register; a write to a locked register, or with a
full log, leaves the register and shows why; a write outside the writer's windows does nothing; a read gives the value and
clears its RC fields; MT_NOW_LO latches MT_NOW_HI. What the spec leaves open of this is the model's choice: log entries 30
and 52. -/
def Obligations.RegisterAccess : Prop :=
  (∀ (o : Origin) (off v : Word) (r : Reg) (i j : Nat) (s : State), regAt off.toNat = some (r, i, j) →
    pageRegs.contains r = false →
    (actingRegs.contains r = false → mayWrite o r i j s → loggedWrite r v = true →
      ∃ t, exec (.regWrite o off v) s = .next t ∧ rget t r i j = writtenVal r (rget s r i j) v ∧ othersKept off.toNat s t ∧
        t.logBuf = s.logBuf ++ [{ logBase o 0 stOk off.toNat (dw (regView s o r i j).toNat) (dw (regView t o r i j).toNat) with
          seq := rget s .LOG_SEQ, stamp := s.time.now }] ∧
        t.mem = s.mem ∧ t.host = s.host ∧ t.ctxs = s.ctxs ∧ t.cores = s.cores ∧ t.ports = s.ports) ∧
    (∀ f : Fn, o = .host f → (rights s o r i j).2 = true → lockedFor s o r i j = true →
      ∃ t, exec (.regWrite o off v) s = .next t ∧ fbit t F.FN_STAT.LOCK_VIOLATION f.val = true ∧
        rget t r i j = rget s r i j ∧ t.ctxs = s.ctxs ∧ t.mem = s.mem) ∧
    (actingRegs.contains r = false → (rights s o r i j).2 = true → lockedFor s o r i j = false → loggedWrite r v = true →
      logFree s ≤ 64 → ∃ t, exec (.regWrite o off v) s = .next t ∧ rget t r i j = rget s r i j ∧
        counted F.LOG_REFUSED.COUNT 0 0 1 s t ∧ t.logBuf = s.logBuf) ∧
    (∀ f : Fn, o = .host f → (rights s o r i j).2 = false → exec (.regWrite o off v) s = .next s)) ∧
  (∀ (f : Fn) (off v : Word) (s : State), regAt off.toNat = none → exec (.regWrite (.host f) off v) s = .next s) ∧
  (∀ (o : Origin) (off : Word) (s : State),
    (∀ r i j, regAt off.toNat = some (r, i, j) → (rights s o r i j).1 = true → ∃ t, exec (.rcRead o off) s = .next t ∧
      t.busData = readWord s o r i j ∧ (∀ f ∈ fieldsOf r, f.acc = .rc → fget t ⟨r, f.hi, f.lo⟩ i j = 0) ∧ t.mem = s.mem) ∧
    ((∀ r i j, regAt off.toNat = some (r, i, j) → (rights s o r i j).1 = false) →
      exec (.rcRead o off) s = .next { s with busData := 0 })) ∧
  (∀ (f : Fn) (s : State), ∃ t, exec (.mtNowLoRead f) s = .next t ∧ t.busData = wd s.time.now.toNat ∧
    mapGet 0 t.time.hiLatch f.val = wd (s.time.now.toNat / 2 ^ 32) ∧ t.regs = s.regs)

/-- Registers whose writes do something of their own (R41, R185, R258, R296, R299, R445 to R447, R466, R470): the store-room
lock, the step-record ring's tail, slot entries from the next frame boundary on, the service mark, the fault injector, a
clock domain, the retry of SMBus and the alert path. What the spec leaves open of this is the model's choice: log entry 52.
-/
def Obligations.ActingRegisters : Prop :=
  (∀ (o : Origin) (s : State), mayWrite o .STR_CFG 0 0 s → ∃ t, exec (.storeRoomLock o) s = .next t ∧
    fbit t F.STR_CFG.LOCK = true ∧ onceWritten t .STR_CFG 0 0 = true) ∧
  (∀ (o : Origin) (k : Slot) (n : Imm16) (s : State), (rights s o .RPR_TLY_RING k.val 0).2 = true →
    lockedFor s o .RPR_TLY_RING k.val 0 = false →
    ∃ t, exec (.tlyRingTailWrite o k n) s = .next t ∧ fget t F.RPR_TLY_RING.TAIL k.val = n.toNat ∧
      fget t F.RPR_TLY_RING.HEAD k.val = fget s F.RPR_TLY_RING.HEAD k.val ∧ t.logBuf = s.logBuf) ∧
  (∀ (o : Origin) (p : PortId) (e : Fin 64) (b : Bool) (v : Word) (s : State),
    let r : Reg := if b then .SLOT_ENT_B else .SLOT_ENT_A
    mayWrite o r p.val e.val s →
    (∀ u, slotWrite p.val e.val b v s = some u → ∃ t, exec (.slotEntryWrite o p e b v) s = .next t ∧
      mapFind t.time.slotNext (regOff r p.val e.val) = some v ∧ rget t r p.val e.val = rget s r p.val e.val) ∧
    (slotWrite p.val e.val b v s = none → ∃ t, exec (.slotEntryWrite o p e b v) s = .next t ∧
      t.time.slotNext = s.time.slotNext ∧ rget t r p.val e.val = rget s r p.val e.val)) ∧
  (∀ (o : Origin) (p : PortId) (m : Bool) (s : State), mayWrite o .LNK_HP p.val 0 s →
    ∃ t, exec (.svcMarkWrite o p m) s = .next t ∧ fbit t F.LNK_HP.SVC_MARK p.val = m ∧
      (m = false → fbit s F.LNK_HP.SVC_MARK p.val = true → portState s p.val = 5 → portState t p.val = trainState s p.val) ∧
      (portState s p.val ≠ 5 → portState t p.val = portState s p.val)) ∧
  (∀ (o : Origin) (p : PortId) (v : Word) (s : State), mayWrite o .FI_CTRL p.val 0 s →
    (bitAt v.toNat 30 = false → ∃ t, exec (.fiArm o p v) s = .next t ∧
      fbit t F.FI_CTRL.ARM p.val = true ∧ fget t F.FI_OFF.DONE p.val = 0 ∧
      fget t F.FI_CTRL.COUNT p.val = bitsOf v.toNat 19 8 ∧
      (portOf t p.val).fiLeft = (if bitsOf v.toNat 19 8 = 0 then none else some (bitsOf v.toNat 19 8))) ∧
    (bitAt v.toNat 30 = true → ∃ t, exec (.fiArm o p v) s = .next t ∧ rget t .FI_CTRL p.val = rget s .FI_CTRL p.val ∧
      t.ports = s.ports)) ∧
  (∀ (o : Origin) (n : Fin 79) (v : Word) (s : State), mayWrite o .CLK_DOM n.val 0 s →
    (clkJudge s n.val v = stOk → ∃ t, exec (.clkDomWrite o n v) s = .next t ∧
      fget t F.CLK_DOM.SEL n.val = bitsOf v.toNat 31 30 ∧ fget t F.CLK_DOM.FB n.val = bitsOf v.toNat 29 28 ∧
      fget t F.CLK_DOM.RATIO n.val = (if n.val < 8 then bitsOf v.toNat 8 0 else 0) ∧
      (fbit s F.CLK_DSTAT.LOCK n.val = true → (mapFind s.plat.relock n.val).getD (fget s F.CLK_DSTAT.CUR n.val) ≠ bitsOf v.toNat 31 30 →
        fbit t F.CLK_DSTAT.HOLD n.val = true ∧ mapFind t.plat.relock n.val = some (bitsOf v.toNat 31 30))) ∧
    (clkJudge s n.val v ≠ stOk → ∃ t, exec (.clkDomWrite o n v) s = .next t ∧
      rget t .CLK_DOM n.val = rget s .CLK_DOM n.val ∧ t.plat.relock = s.plat.relock ∧
      (∀ f : Fn, o = .host f → clkJudge s n.val v = stNotReady → fbit t F.CLK_SRC_STAT.REFUSED = true))) ∧
  (∀ (o : Origin) (s : State), mayWrite o .SB_CTRL 0 0 s →
    (∃ t, exec (.smbRetry o) s = .next t ∧ fbit t F.SB_STAT.SMB_OFF = false ∧ fget t F.SB_STAT.SMB_TRIES = 0 ∧
      fget t F.SB_CTRL.ALERT_MCTP = fget s F.SB_CTRL.ALERT_MCTP) ∧
    (∀ on : Bool, ∃ t, exec (.alertMctp o on) s = .next t ∧ fbit t F.SB_CTRL.ALERT_MCTP = on ∧
      fget t F.SB_STAT.SMB_OFF = fget s F.SB_STAT.SMB_OFF))

/-- Function pages and rings (R406, R409 to R411, R413 to R415, R437): the inbound mailbox takes words and GO until it is
full, then refuses with OVERRUN and a Completer Abort; the acknowledgement empties the outbound one; a doorbell within its
ring moves its index and one beyond it is an error; enabling a ring of a good size starts a new pass. What the spec leaves
open of this is the model's choice: log entries 52 and 53. -/
def Obligations.FunctionPages : Prop :=
  (∀ (f : Fn) (n : Fin 16) (v : Word) (s : State),
    (fbit s F.MB_STAT.FULL f.val = false → ∃ t, exec (.mbInWrite f n v) s = .next t ∧ rget t .MB_IN f.val n.val = v ∧
      t.logBuf = s.logBuf ∧ ∀ r i j, regOff r i j ≠ regOff .MB_IN f.val n.val → rget t r i j = rget s r i j) ∧
    (fbit s F.MB_STAT.FULL f.val = true → ∃ t, exec (.mbInWrite f n v) s = .next t ∧
      rget t .MB_IN f.val n.val = rget s .MB_IN f.val n.val ∧ fbit t F.MB_STAT.OVERRUN f.val = true ∧
      mapGet 0 t.aer f.val = mapGet 0 s.aer f.val + 1)) ∧
  (∀ (f : Fn) (v : Word) (s : State), fbit s F.MB_STAT.FULL f.val = false →
    let len := bitsOf v.toNat 4 0
    ∃ t, exec (.mbGo f v) s = .next t ∧ fget t F.MB_CTRL.LEN f.val = len ∧
      (8 ≤ len → len ≤ 16 → fbit t F.MB_STAT.FULL f.val = true) ∧
      (len < 8 ∨ 16 < len → fbit t F.MB_STAT.FULL f.val = false ∧ fbit t F.MB_STAT.LEN_ERR f.val = true)) ∧
  (∀ (f : Fn) (v : Word) (s : State), ∃ t, exec (.mbOstatAck f v) s = .next t ∧ fbit t F.MB_OSTAT.FULL f.val = false ∧
    fget t F.MB_OSTAT.LEN f.val = fget s F.MB_OSTAT.LEN f.val) ∧
  (∀ (f : Fn) (r : Fin 4) (v : Word) (s : State),
    let x := bitsOf v.toNat 11 0
    (fbit s F.RING_CFG.KIND f.val r.val = false → x < ringSize s f.val r.val →
      (∃ t, exec (.ringSqDoorbell f r v) s = .next t ∧ fget t F.RING_SQ_DB.INDEX f.val r.val = x ∧ t.logBuf = s.logBuf ∧
        (parked s = true → t.plat.parkedExit = true)) ∧
      (∃ t, exec (.ringCqDoorbell f r v) s = .next t ∧ fget t F.RING_CQ_DB.INDEX f.val r.val = x ∧ t.logBuf = s.logBuf)) ∧
    (fbit s F.RING_CFG.KIND f.val r.val = true → x < ringSize s f.val r.val →
      stowedBy s (fget s F.RING_CFG.CTX f.val r.val) = none →
      ∃ u, exec (.ringSqDoorbell f r v) s = .next (takeLaunch f r u) ∧ fget u F.RING_SQ_DB.INDEX f.val r.val = x ∧
        ∀ k y, fbit s F.RING_CFG.EN f.val r.val = true → boundSlot s (fget s F.RING_CFG.CTX f.val r.val) = some k →
          ctxOf u k = some y → y.lastActive = s.time.now) ∧
    (fbit s F.RING_CFG.KIND f.val r.val = false → ringSize s f.val r.val ≤ x →
      (∃ t, exec (.ringSqDoorbell f r v) s = .next t ∧ fbit t F.FN_STAT.DB_ERR f.val = true ∧
        rget t .RING_SQ_DB f.val r.val = rget s .RING_SQ_DB f.val r.val) ∧
      (∃ t, exec (.ringCqDoorbell f r v) s = .next t ∧ fbit t F.FN_STAT.DB_ERR f.val = true ∧
        rget t .RING_CQ_DB f.val r.val = rget s .RING_CQ_DB f.val r.val))) ∧
  (∀ (f : Fn) (r : Fin 4) (v : Word) (s : State), fbit s F.RING_CFG.EN f.val r.val = false → 64 < logFree s →
    bitAt v.toNat 31 = true → bitAt v.toNat 30 = false →
    let size := bitsOf v.toNat 23 20
    (4 ≤ size → size ≤ 12 → ∃ t, exec (.ringEnable f r v) s = .next t ∧ fbit t F.RING_CFG.EN f.val r.val = true ∧
      fget t F.RING_CFG.SIZE_LOG2 f.val r.val = size ∧ fget t F.RING_STAT.PHASE f.val r.val = 1 ∧
      fget t F.RING_STAT.SQ_HEAD f.val r.val = 0 ∧ fget t F.RING_STAT.CQ_TAIL f.val r.val = 0) ∧
    (size < 4 ∨ 12 < size → ∃ t, exec (.ringEnable f r v) s = .next t ∧ fbit t F.RING_CFG.EN f.val r.val = false ∧
      fbit t F.FN_STAT.DB_ERR f.val = true))

/-- Commands taken, completed and answered (R401, R411 to R413, R418, R419, R425, R454): the mailbox or ring that the
service order names is taken and its command served; a command that is done is answered once there is room; one that runs
for 1 ms gets QUEUED; Parked ends. What the spec leaves open of this is the model's choice: log entries 53 and 57. -/
def Obligations.CommandService : Prop :=
  (∀ (f : Fn) (s : State),
    (mgmtUp s = true → mailReady s f.val = true → ∃ u,
      exec (.mailboxTake f) s = .next (serve (Taken.fresh (.mailbox f) (mailPacket s f.val)) u) ∧
      fbit u F.MB_STAT.FULL f.val = false ∧ mapGet 0 u.msix (8 * f.val) = mapGet 0 s.msix (8 * f.val) + 1 ∧
      u.mgmt = s.mgmt ∧ u.host = s.host) ∧
    (mailReady s f.val = false → exec (.mailboxTake f) s = .next s)) ∧
  (∀ (s : State), mgmtUp s = true →
    (∀ f : Fn, (0 :: (rotate 64 s.mgmt.mbTurn).map (· + 1)).find? (mailReady s) = some f.val → ∃ u,
      exec .commandTake s = .next (takeLaunches (serve (Taken.fresh (.mailbox f) (mailPacket s f.val)) u)) ∧
      fbit u F.MB_STAT.FULL f.val = false ∧ u.mgmt.taken = s.mgmt.taken) ∧
    ((∀ f, f < 65 → mailReady s f = false) → ∀ (f : Fn) (r : Fin 4),
      (rotate 65 s.mgmt.fnTurn).find? (fun f => (nextRing s f).isSome) = some f.val → nextRing s f.val = some r.val → ∃ u,
      exec .commandTake s = .next (takeLaunches (serve (Taken.fresh (.ring f r) (ringPacket s f.val r.val)) u)) ∧
      fget u F.RING_STAT.SQ_HEAD f.val r.val =
        (fget s F.RING_STAT.SQ_HEAD f.val r.val + 1) % ringSize s f.val r.val % 4096 ∧
      fbit u F.RING_STAT.STALLED f.val r.val = false ∧ u.mgmt.taken = s.mgmt.taken)) ∧
  (∀ (src : CmdSrc) (tag : Imm16) (s : State) (c : Taken), findTaken s src tag = some c → s.mgmt.stalled = [] →
    s.mgmt.unbinding = [] →
    (∀ st ys, c.final = some (st, ys) → c.waits = [] → c.mute = false → replyRoom s src = true → ∃ u,
      exec (.commandComplete src tag) s = .next (dropTaken src tag (writeReply src c.pk st true c.failedOver ys u)) ∧
      u.mgmt = s.mgmt ∧ u.host = s.host ∧ u.ctxs = s.ctxs) ∧
    (∀ st ys, c.final = some (st, ys) → c.waits = [] → c.mute = true →
      ∃ t, exec (.commandComplete src tag) s = .next t ∧ t.mgmt = (dropTaken src tag s).mgmt ∧ t.host = s.host) ∧
    (c.final.isSome = true → c.waits ≠ [] → ∃ t, exec (.commandComplete src tag) s = .next t ∧ t.mgmt = s.mgmt)) ∧
  (∀ (src : CmdSrc) (tag : Imm16) (s : State) (c : Taken), findTaken s src tag = some c → c.mute = false → c.queued = false →
    replyRoom s src = true → ∃ t, exec (.commandQueuedReply src tag) s = .next t ∧
      findTaken t src tag = some { c with queued := true } ∧ t.mgmt.taken.length = s.mgmt.taken.length ∧
      (∀ f, src = .mailbox f → fbit t F.MB_OSTAT.FULL f.val = true ∧
        rget t .MB_OUT f.val 0 = wd (stQueued + 2 ^ 16 * c.pk.tag.toNat))) ∧
  (∀ (s : State), s.plat.parkedExit = true → ∃ t, exec .parkedExitComplete s = .next t ∧ fget t F.PWR_STAT.STATE = 0 ∧
    t.plat.parkedExit = false ∧ ∀ d, d < 8 → fget s F.DIE_PWR.STATE d = 2 → fget t F.DIE_PWR.STATE d = 0)

/-- NOP, GET_INFO, READ_EVENTS, READ_LOG, REG_ACCESS, TELEMETRY (R407, R421, R432, R433): NOP changes nothing; the others
answer the identity registers, the events that the function may read, mirrored log entries, a register read or written, the
latest sample. What the spec leaves open of this is the model's choice: log entry 53. -/
def Obligations.CommandsInfo : Prop :=
  (∀ (src : CmdSrc) (pk : Packet) (s : State), pk.ctx = 0xFFFF →
    answers (.nopCmd src pk) src (asOp 0x0000 pk) stOk s (fun ys u => ys = [] ∧ u = s) ∧
    answers (.getInfo src pk) src (asOp 0x0001 pk) stOk s (fun ys u =>
      ys = [rget s .GBL_ID, rget s .GBL_FWVER, rget s .GBL_FWBUILD, rget s .GBL_EDITION, rget s .GBL_UNITS, wd (ownNode s),
        rget s .MGMT_STAT].zipWith (fun v m => wd (v.toNat &&& m))
          [readMask .GBL_ID, readMask .GBL_FWVER, readMask .GBL_FWBUILD, readMask .GBL_EDITION, readMask .GBL_UNITS, 2 ^ 32 - 1,
            readMask .MGMT_STAT] ∧ u = s) ∧
    answers (.telemetry src pk) src (asOp 0x0005 pk) stOk s (fun ys u =>
      ys = (List.range 9).map (fun i => wd (s.mgmt.telemetry.getD i 0)) ++ [wd s.mgmt.telemetryAge] ∧ u = s)) ∧
  (∀ (src : CmdSrc) (pk : Packet) (s : State), pk.ctx = 0xFFFF → par pk 0 < 8192 → 0 < par pk 1 →
    let es := ((eventsFrom s (par pk 0)).filter (recVisible s src)).take (par pk 1)
    (isMctp src = false → par pk 1 ≤ 8192 → answers (.readEvents src pk) src (asOp 0x0002 pk) stOk s (fun ys u =>
      ys = [wd es.length, wd (fget s F.EVT_RING.HEAD)] ∧
      u = hostWrite (par2 pk 2) ((es.map eventBytes).flatten) (fun _ => false) s)) ∧
    (isMctp src = true → par pk 1 = 1 → answers (.readEvents src pk) src (asOp 0x0002 pk) stOk s (fun ys u =>
      ys.take 2 = [wd es.length, wd (fget s F.EVT_RING.HEAD)] ∧ ys.length = 10 ∧ u = s ∧
      ∀ e ∈ es, (ys.drop 2).map (fun y => y.toNat) = (chunksOf 4 8 (eventBytes e)).map ofLE))) ∧
  (∀ (src : CmdSrc) (pk : Packet) (s : State), pk.ctx = 0xFFFF → par pk 0 < 2 ^ 20 → 0 < par pk 1 → par pk 1 ≤ 4096 →
    fbit s F.LOG_CFG.EN = true →
    let head := fget s F.LOG_HEAD.INDEX
    let n := min (par pk 1) ((head + 2 ^ 20 - par pk 0) % 2 ^ 20)
    let at_ := (List.range n).map (fun i => fget s F.LOG_CFG.BASE * 2 ^ 26 + 64 * ((par pk 0 + i) % 2 ^ 20))
    answers (.readLog src pk) src (asOp 0x0003 pk) (if at_.any (fun a => devPoison s a 64) then stPoisoned else stOk) s (fun ys u =>
      ys = [wd n, wd head] ∧
      u = hostWrite (par2 pk 2) ((at_.map (fun a => devBytes s a 64)).flatten) (fun _ => false) s)) ∧
  (∀ (src : CmdSrc) (pk : Packet) (s : State) (r : Reg) (i j : Nat), pk.ctx = 0xFFFF → regAt (par pk 0) = some (r, i, j) →
    (par pk 2 = 0 → (rights s (srcOrigin src) r i j).1 = true →
      answers (.regAccess src pk) src (asOp 0x0004 pk) stOk s (fun ys u => ys = [readWord s (srcOrigin src) r i j] ∧
        ∀ f ∈ fieldsOf r, f.acc = .rc → fget u ⟨r, f.hi, f.lo⟩ i j = 0)) ∧
    (par pk 2 = 1 → actingRegs.contains r = false → pageRegs.contains r = false → mayWrite (srcOrigin src) r i j s →
      loggedWrite r (pk.ps.getD 1 0) = true → answers (.regAccess src pk) src (asOp 0x0004 pk) stOk s (fun _ u =>
        rget u r i j = writtenVal r (rget s r i j) (pk.ps.getD 1 0) ∧ othersKept (par pk 0) s u ∧
        u.logBuf.length = s.logBuf.length + 2)))

/-- FN_QUOTA, LOCK_SET, DEBUG_CHALLENGE, DEBUG_UNLOCK, DEBUG_LOCK, TIME_SET, PORT_RETRAIN, PORT_UNLOCK, REALIGN,
RETIRE_UNIT, SET_POWER, FAILOVER (R256, R286, R387, R421, R422, R427, R428, R454, R455, R458). What the spec leaves open of
this is the model's choice: log entry 56. -/
def Obligations.CommandsSystem : Prop :=
  (∀ (src : CmdSrc) (pk : Packet) (s : State),
    let ext := extOf s (asOp 0x0100 pk)
    let gs := halves ((ext.drop 16).take (ext.length - 196))
    0 < par pk 0 → par pk 0 ≤ 64 → par pk 1 ≤ 64 → par pk 2 ≤ 1024 → 196 ≤ ext.length → ext.length % 2 = 0 →
    (∀ g ∈ gs, g < 1024) → answers (.fnQuota src pk) src (asOp 0x0100 pk) stOk s (fun _ u =>
      mapFind u.mgmt.quotas (par pk 0) = some { contexts := par pk 1, cctxs := par pk 2, groups := BitVec.ofNat 128 (getLE ext 0 16)
                                                granules := gs, caps := ext.drop (ext.length - 180) })) ∧
  (∀ (src : CmdSrc) (pk : Packet) (s : State), par pk 0 ≤ 1 → par pk 2 ≤ 15 →
    answers (.lockSet src pk) src (asOp 0x0700 pk) stOk s (fun _ u =>
      (fbit u F.LOCK_STAT.PLATFORM = (fbit s F.LOCK_STAT.PLATFORM || par pk 0 == 1)) ∧
      rget u .LOCK_PORT_LO = rget s .LOCK_PORT_LO ||| wd (par pk 1) ∧
      rget u .LOCK_PORT_HI = rget s .LOCK_PORT_HI ||| wd (par pk 2))) ∧
  (∀ (src : CmdSrc) (pk : Packet) (s : State),
    answers (.debugChallenge src pk) src (asOp 0x0701 pk) stOk s (fun ys u => ∃ n, u.mgmt.nonce = some n ∧ n.length = 32 ∧
      ys = (List.range 8).map (fun i => wd (getLE n (4 * i) 4)) ∧ u.free = s.free + 4)) ∧
  (∀ (src : CmdSrc) (pk : Packet) (s : State) (n : List Byte), s.mgmt.nonce = some n →
    let ext := extOf s (asOp 0x0702 pk)
    ext.length = 96 →
    (Config.debugSignatureOk n ext (rget s .GBL_ID) = true → answers (.debugUnlock src pk) src (asOp 0x0702 pk) stOk s
      (fun _ u => fbit u F.LOCK_STAT.DEBUG_OPEN = true ∧ u.mgmt.nonce = none)) ∧
    (Config.debugSignatureOk n ext (rget s .GBL_ID) = false → answers (.debugUnlock src pk) src (asOp 0x0702 pk) stBadParam s
      (fun _ u => fbit u F.LOCK_STAT.DEBUG_OPEN = fbit s F.LOCK_STAT.DEBUG_OPEN ∧ u.mgmt.nonce = none))) ∧
  (∀ (src : CmdSrc) (pk : Packet) (s : State), answers (.debugLock src pk) src (asOp 0x0703 pk) stOk s (fun _ u =>
    fbit u F.LOCK_STAT.DEBUG_OPEN = false ∧ ∀ p, p < 36 → fbit u F.FI_CTRL.ARM p = false)) ∧
  (∀ (src : CmdSrc) (pk : Packet) (s : State), (par2 pk 0 + 1) * mtSecond < 2 ^ 64 → s.time.everLocked = false →
    answers (.timeSet src pk) src (asOp 0x0502 pk) stOk s (fun _ u =>
      u.time.now = dw (par2 pk 0 * mtSecond + s.time.now.toNat % mtSecond))) ∧
  (∀ (src : CmdSrc) (pk : Packet) (s : State), par pk 0 < 36 → fbit s F.LNK_HP.PRESENT (par pk 0) = true →
    ¬ (portState s (par pk 0) = 6 ∧ fget s F.LNK_STAT.CAUSE (par pk 0) = 4) →
    answers (.portRetrain src pk) src (asOp 0x0503 pk) stOk s (fun _ u => portState u (par pk 0) = trainState s (par pk 0) ∧
      (portOf u (par pk 0)).attempts = 0)) ∧
  (∀ (src : CmdSrc) (pk : Packet) (s : State), par pk 0 < 36 → portState s (par pk 0) ∈ [0, 1, 5, 6] →
    answers (.portUnlock src pk) src (asOp 0x0504 pk) stOk s (fun _ u => portLocked u (par pk 0) = false ∧
      ∀ q, q < 36 → q ≠ par pk 0 → portLocked u q = portLocked s q)) ∧
  (∀ (src : CmdSrc) (pk : Packet) (s : State), (∀ d, d < 8 → fget s F.DIE_PWR.STATE d = 1) → alignable s = true →
    answers (.realign src pk) src (asOp 0x0304 pk) stOk s (fun _ u => ∀ d, d < 8 → fbit u F.RPR_CYC.ALIGNED d = true)) ∧
  (∀ (src : CmdSrc) (pk : Packet) (s : State),
    (par pk 0 = 0 → par pk 1 < 8 → par pk 2 < 272 →
      let c := 272 * par pk 1 + par pk 2
      cstat s F.CORE_STAT.STATE c ≠ 3 → (coreOf s c).retireDue = none → looseCore s c = true →
      answers (.retireUnit src pk) src (asOp 0x0704 pk) stOk s (fun _ u => cstat u F.CORE_STAT.STATE c = 3)) ∧
    (par pk 0 = 2 → par pk 1 < 36 → par pk 2 = par pk 1 → portState s (par pk 1) ≠ 6 →
      answers (.retireUnit src pk) src (asOp 0x0704 pk) stOk s (fun _ u => portState u (par pk 1) = 6))) ∧
  (∀ (src : CmdSrc) (pk : Packet) (s : State),
    (par pk 0 = 0 → parked s = false → answers (.setPower src pk) src (asOp 0x0705 pk) stOk s (fun _ u => u.plat = s.plat)) ∧
    (par pk 0 = 0 → parked s = true → runsOn (.setPower src pk) src (asOp 0x0705 pk) s (fun t => t.plat.parkedExit = true)) ∧
    (par pk 0 = 1 → powerBusy s = false → answers (.setPower src pk) src (asOp 0x0705 pk) stOk s (fun _ u =>
      fget u F.PWR_STAT.STATE = 1 ∧ ∀ d, d < 8 → fget s F.DIE_PWR.STATE d < 3 → fget u F.DIE_PWR.STATE d = 2)) ∧
    (par pk 0 = 2 → s.ctxs = [] → runsOn (.setPower src pk) src (asOp 0x0705 pk) s (fun t =>
      fget t F.PWR_STAT.STATE = 2 ∧ ∀ d, d < 8 → fget t F.DIE_PWR.STATE d = 3))) ∧
  (∀ (src : CmdSrc) (pk : Packet) (s : State), fbit s F.LOCK_STAT.DEBUG_OPEN = true → fbit s F.MGMT_STAT.ACTIVE_SET = false →
    fbit s F.MGMT_STAT.STANDBY_OK = true → runsOn (.failover src pk) src (asOp 0x0706 pk) s (fun t =>
      fbit t F.MGMT_STAT.ACTIVE_SET = true ∧ fbit t F.MGMT_STAT.STANDBY_OK = false ∧ t.mgmt.stalled = [] ∧
      ∀ c ∈ t.mgmt.taken, c.pk.opcode.toNat = opPost ∨ c.failedOver = true))

/-- BIND, UNBIND, MOVE_GROUP, HALT, RESUME, HOLD_REGISTER, REPLAY, CCTX_CREATE, CCTX_DESTROY, FS_RING, CHECKPOINT and
RESTORE (R27, R345, R355, R357, R392, R394, R399, R421, R422). What the spec leaves open of this is the model's choice: log
entries 54 and 55. -/
def Obligations.CommandsContext : Prop :=
  (∀ (src : CmdSrc) (pk : Packet) (s : State) (k : Nat),
    let p := asOp 0x0101 pk
    let z := naming p s
    let f := srcFn src
    let ext := extOf s p
    let gs := (halves (ext.take (ext.length - 180))).eraseDups
    let ws := askedWeights (ext.drop (ext.length - 180))
    let groups := (List.range 128).filter (fun g => bitAt (par pk (1 + g / 32)) (g % 32))
    fbit s F.GBL_EDITION.VALID = true → par pk 0 ≤ 1 → 180 ≤ ext.length → ext.length % 2 = 0 → (∀ g ∈ gs, g < 1024) →
    fbit s F.FN_STAT.FLR_BUSY f = false → (∀ g ∈ gs, filling s g = false) →
    (∀ g ∈ groups, groupOwner z g = none) → (∀ g ∈ gs, granuleFree s g = true) → withinQuota z f groups gs ws = true →
    (List.range 64).find? (fun k => ctxState s k == 0) = some k →
    let bound := fun (u : State) => ctxState u k = 1 ∧ ownerOf u k = f ∧ portable u k = (par pk 0 == 1) ∧
      ∃ y, ctxOf u k = some y ∧ y.groups = groups ∧ y.granules = sortKey id gs ∧ y.weights = ws ∧ y.image = none
    (gs = [] → answers (.bind src pk) src p stOk s (fun ys u => ys = [wd (handleOf u k), wd k] ∧ bound u)) ∧
    (gs ≠ [] → runsOn (.bind src pk) src p s (fun t => bound t ∧
      t.mgmt.taken.getLast? = some { Taken.fresh src p with final := some (stOk, [wd (handleOf t k), wd k]), waits := gs } ∧
      t.mgmt.zeroFills.map (·.granule) = s.mgmt.zeroFills.map (·.granule) ++ sortKey id gs))) ∧
  (∀ (src : CmdSrc) (pk : Packet) (s : State) (x : Ctx),
    let k := pkSlot pk
    ctxOf s k = some x →
    ((∀ u ∈ s.mgmt.unbinding, u.1 ≠ k) → runsOn (.unbind src pk) src (asOp 0x0102 pk) s (fun t =>
      if releaseReady s k = true then ctxOf t k = none else (k, some (src, pk.tag)) ∈ t.mgmt.unbinding)) ∧
    (ctxState s k = 1 → x.steps.find? (fun e => e.consumed) = none →
      answers (.halt src pk) src (asOp 0x0104 pk) stOk s (fun _ u => ctxState u k = 2)) ∧
    (ctxState s k = 2 → x.stopHalted = true → x.terminated = false → (∀ u ∈ s.mgmt.unbinding, u.1 ≠ k) →
      answers (.resume src pk) src (asOp 0x0303 pk) stOk s (fun _ u => ctxState u k = 1 ∧
        ctxBecomes k x (fun y => { y with stopHalted := false }) s u)) ∧
    (let ext := extOf s (asOp 0x0105 pk)
     let es := (chunksOf 16 ext.length ext).map (holdEntry s k)
     ext.length % 16 = 0 → ext.length ≤ 1024 → (∀ e ∈ es, e ≠ none) →
      answers (.holdRegister src pk) src (asOp 0x0105 pk) stOk s (fun _ u =>
        ctxBecomes k x (fun y => { y with holdNext := some (es.filterMap id) }) s u)) ∧
    (let t := dw (par2 pk 0)
     let set := fun (stop : Option Nat) (y : Ctx) =>
      { y with replaySet := some { step := t, level := par pk 2, stop := stop, src := src, tag := pk.tag } }
     par pk 2 ≤ 2 → (∀ e ∈ x.steps, e.begun = true → e.num.toNat < t.toNat) → (∀ c, x.committed = some c → c.toNat < t.toNat) →
      (∃ r, x.restored = some r ∧ r.toNat ≤ t.toNat) → (∀ r, x.replaySet = some r → r.stop = none) →
      (par pk 3 < 2 ^ 24 → answers (.replay src pk) src (asOp 0x0302 pk) stOk s (fun _ u => ctxBecomes k x (set none) s u)) ∧
      (2 ^ 24 ≤ par pk 3 → par pk 3 < 2 ^ 25 → runsOn (.replay src pk) src (asOp 0x0302 pk) s (fun u =>
        ctxBecomes k x (set (some (par pk 3 % 2 ^ 24))) s u))) ∧
    (16 ≤ par pk 2 → par pk 2 ≤ 65536 → answers (.fsRing src pk) src (asOp 0x0600 pk) stOk s (fun _ u =>
      ctxBecomes k x (fun y => { y with fsRing := some (par2 pk 0, 4096 * par pk 2), fsPos := 0 }) s u)) ∧
    (par pk 0 ≤ 1 → (par pk 0 = 1 → x.fsRing ≠ none) → x.ckptCmd = none →
      runsOn (.checkpoint src pk) src (asOp 0x0601 pk) s (fun u =>
        ctxBecomes k x (fun y => { y with ckptCmd := some (src, pk.tag, par pk 0 == 1) }) s u)) ∧
    (let ext := extOf s (asOp 0x0602 pk)
     let buddy := par pk 0 = 0 ∧ par pk 1 = ownNode s ∧ buddyValid s (par pk 2) = true ∧
      ¬ (fbit s F.STR_BUDDY_STAT.RECEIVING = true ∧ fget s F.STR_BUDDY_STAT.RX_SLOT = par pk 2)
     par pk 1 < 2 ^ 14 → par pk 2 ≤ 1 → ext.length % 32 = 0 → buddy ∨ (par pk 0 = 1 ∧ x.fsRing ≠ none) → x.steps = [] →
      x.committed = none → x.restoreCmd = none → ctxState s k ≠ 2 → (∀ u ∈ s.mgmt.unbinding, u.1 ≠ k) →
      slotUpdates s k false = false → slotSolves s k false = false → storesLeft s k = false →
      runsOn (.restore src pk) src (asOp 0x0602 pk) s (fun u => ctxBecomes k x (fun y => { y with restoreCmd := some {
        src := src, tag := pk.tag, map := chunksOf 32 ext.length ext, tallyAddr := par2 pk 3
        node := (if par pk 0 = 1 then none else some (par pk 1, par pk 2)), image := [], poison := [] } }) s u))) ∧
  (∀ (src : CmdSrc) (pk : Packet) (s : State) (k : Nat),
    let z := naming (asOp 0x0103 pk) s
    let g := par pk 0
    let d := if par pk 1 = 0xFFFF then none else boundSlot s (par pk 1)
    g < 128 → (par pk 1 ≠ 0xFFFF → mayName s src (par pk 1) = true) → groupOwner z g = some k →
    (srcFn src = 0 ∨ ownerOf s k = srcFn src) → d ≠ some k → (∀ m ∈ s.mgmt.moves, m.group ≠ g) →
    (∀ u ∈ s.mgmt.unbinding, u.1 ≠ k ∧ some u.1 ≠ d) → (∀ j, d = some j → ctxState s j ≠ 2) →
    (runningIn s g).length ≤ savesFree s →
    runsOn (.moveGroup src pk) src (asOp 0x0103 pk) s (fun t => ∃ m, t.mgmt.moves = s.mgmt.moves ++ [m] ∧ m.group = g ∧
      m.src = k ∧ m.dst = d ∧ m.request = s.time.now ∧ m.saves = runningIn s g ∧
      ∀ c ∈ groupCores s g, (coreOf t c).moving = true)) ∧
  (∀ (src : CmdSrc) (pk : Packet) (s : State) (ms : List Nat),
    let k := pkSlot pk
    let c := par pk 0
    let ext := extOf s (asOp 0x0500 pk)
    let mine := (s.cctxs.filter (fun (e : Nat × Cctx) => e.2.slot == k)).map (fun (e : Nat × Cctx) => e.2)
    c < 1024 → par pk 1 ≤ 3 → ext.length % 4 = 0 → memberList 0 (halves ext) = some ms → evenGroups ms = true →
    ownNode s ∈ ms → bitAt (par pk 1) 0 = portable s k → mapFind s.cctxs c = none →
    (srcFn src = 0 ∨ ∃ q, mapFind s.mgmt.quotas (srcFn src) = some q ∧
      (s.cctxs.filter (fun (e : Nat × Cctx) => ownerOf s e.2.slot == srcFn src)).length < q.cctxs) →
    (if bitAt (par pk 1) 1 then ∀ e ∈ mine, e.isStep = false ∧ ∀ m ∈ e.members, m ∈ ms
     else match mine.find? (fun e => e.isStep) with
      | some e => ∀ m ∈ ms, m ∈ e.members
      | none => ms.length ≤ 1) →
    answers (.cctxCreate src pk) src (asOp 0x0500 pk) stOk s (fun _ u =>
      mapFind u.cctxs c = some { slot := k, portable := portable s k, isStep := bitAt (par pk 1) 1, members := ms })) ∧
  (∀ (src : CmdSrc) (pk : Packet) (s : State) (x : Cctx), mapFind s.cctxs (par pk 0) = some x → x.slot = pkSlot pk →
    (x.isStep = true → ∀ e ∈ s.cctxs, e.1 ≠ par pk 0 → e.2.slot = x.slot → e.2.members.length ≤ 1) →
    (∀ k ∈ s.colls, k.cctx ≠ par pk 0) → answers (.cctxDestroy src pk) src (asOp 0x0501 pk) stOk s (fun _ u =>
      mapFind u.cctxs (par pk 0) = none ∧ ∀ c, c ≠ par pk 0 → mapFind u.cctxs c = mapFind s.cctxs c))

/-- MEM_MAP, MEM_READ, MEM_WRITE, LOAD_IMAGE and UCODE_LOAD (R27, R172 to R176, R183 to R188, R200, R371, R422). What the
spec leaves open of this is the model's choice: log entries 40, 55 and 73. -/
def Obligations.CommandsMemory : Prop :=
  (∀ (src : CmdSrc) (pk : Packet) (s : State),
    let g := par pk 0
    let old := rget s .MEM_GMAP g
    let new := if par pk 1 = 0 then wd (2 ^ 31 + par pk 2) else 0
    let v := par pk 2
    g < 1024 → srcFn src = 0 → (par pk 1 = 0 ∧ v &&& mapMask = v ∨ par pk 1 = 1 ∧ v = 0) → bitAt old.toNat 26 = false →
    (storeLocked s old new = true → answers (.memMap src pk) src (asOp 0x0200 pk) stLocked s (fun _ u =>
      rget u .MEM_GMAP g = old)) ∧
    (storeLocked s old new = false → filling s g = false → (par pk 1 = 0 → badEntry s g new = false) →
      answers (.memMap src pk) src (asOp 0x0200 pk) stOk s (fun _ u => rget u .MEM_GMAP g = new))) ∧
  (∀ (src : CmdSrc) (pk : Packet) (s : State) (x : Ctx),
    let g := par pk 0
    let k := pkSlot pk
    let old := rget s .MEM_GMAP g
    ctxOf s k = some x → pk.ctx ≠ 0xFFFF → g < 1024 → par pk 2 = 0 → storeLocked s old old = false → filling s g = false →
    (srcFn src = 0 ∨ ∃ q, mapFind s.mgmt.quotas (srcFn src) = some q ∧ g ∈ q.granules) →
    (par pk 1 = 2 → granuleFree s g = true → runsOn (.memMap src pk) src (asOp 0x0200 pk) s (fun t => ∃ y, ctxOf t k = some y ∧
      g ∈ y.granules ∧ t.mgmt.zeroFills = s.mgmt.zeroFills ++ [{ granule := g, entry := ownedEntry s g k }])) ∧
    (par pk 1 = 3 → g ∈ x.granules → runsOn (.memMap src pk) src (asOp 0x0200 pk) s (fun t => ∃ y, ctxOf t k = some y ∧
      g ∉ y.granules ∧ t.mgmt.zeroFills = s.mgmt.zeroFills ++ [{ granule := g, entry := freedEntry s g }]))) ∧
  (∀ (src : CmdSrc) (pk : Packet) (s : State),
    let a := par2 pk 0
    let n := par pk 2
    let h := par2 pk 3
    let k := pkSlot pk
    n % 64 = 0 → n ≤ 2 ^ 24 → accessCause s k .hostCmd a n = none →
    (let bad := ((linePieces a n).filter (fun q => devPoison s q.1 q.2)).length
     answers (.memRead src pk) src (asOp 0x0201 pk) (if bad = 0 then stOk else stPoisoned) s (fun ys u => ys = [wd bad] ∧
      u.host = (hostWrite h (devBytes s a n) (fun _ => false) s).host ∧ u.mem = s.mem ∧ u.memPoison = s.memPoison)) ∧
    (hitsHighHalf s [(a, a + n)] = false → fencesOf s k 0 true [(a, a + n)] = [] →
      let bad := fun (l : Nat) => hostPoisoned s (h + (max (64 * l) a - a)) (min (64 * l + 64) (a + n) - max (64 * l) a)
      answers (.memWrite src pk) src (asOp 0x0202 pk) stOk s (fun _ u =>
        u.mem = (devWriteP a (hostBytes s h n) bad s).mem ∧ u.memPoison = (devWriteP a (hostBytes s h n) bad s).memPoison ∧
        u.host = s.host))) ∧
  (∀ (src : CmdSrc) (pk : Packet) (s : State) (x : Ctx) (h : ImgHead),
    let k := pkSlot pk
    let a := par2 pk 0
    let part := fun (i : Nat) => devBytes s ((h.parts a).getD i (0, 0)).1 ((h.parts a).getD i (0, 0)).2
    let code := codeOfBytes (part 0)
    let ts := chunksOf 32 (32 * h.tensors) (part 2)
    let tags := ts.map (fun b => getLE b 0 3)
    let cores := sortKey id ((x.groups.map (groupCores s)).flatten)
    let n := min h.maxCores cores.length
    let lanes := bitAt h.flags 0 || (code.map bundleOf).any (fun b => b.vec.op == .rngl)
    ctxOf s k = some x → imgHead ((rget s .GBL_ID).toNat % 256) (devBytes s a 64) = some h →
    (∀ r ∈ (a, 64) :: h.parts a, accessCause s k .hostCmd r.1 r.2 = none ∧ devPoison s r.1 r.2 = false) → codeCheck code = 0 →
    (∀ b ∈ ts, tensorBad b = false) → tags.eraseDups.length = tags.length →
    (lanes = true → portable s k = false ∧ devicesIn s k ≤ 32) → h.minCores ≤ n →
    answers (.loadImage src pk) src (asOp 0x0300 pk) stOk s (fun ys u => ys = [wd n] ∧ ∃ y im, ctxOf u k = some y ∧
      y.image = some im ∧ im.code = code ∧ im.consts = chunksOf 64 (64 * h.consts) (part 1) ∧
      im.tensors = sortKey (fun e => e.1) (tags.zip ts) ∧ im.phys = cores.take n ∧ u.mem = s.mem)) ∧
  (∀ (src : CmdSrc) (pk : Packet) (s : State),
    let ext := extOf s (asOp 0x0305 pk)
    let ws := (chunksOf 4 ext.length ext).map (fun c => wd (ofLE c))
    par pk 0 < 8 → ext.length % 4 = 0 → 0 < ext.length → ext.length ≤ 256 → progCheck ws = 0 →
    (∀ u, mapFind s.ucode (par pk 0) = some u → u.slot = pkSlot pk) →
    (∀ e ∈ s.cellars, ∀ d ∈ e.2.descs, byteAt d.2.bytes 0 ≠ 0x10 + par pk 0) →
    answers (.ucodeLoad src pk) src (asOp 0x0305 pk) stOk s (fun _ u =>
      mapFind u.ucode (par pk 0) = some { slot := pkSlot pk, words := ws } ∧
      ∀ n, n ≠ par pk 0 → mapFind u.ucode n = mapFind s.ucode n))

/-- POST_STEP, UPD_REGISTER, UPD_DEREGISTER, UPD_FIRE, SOLV_REGISTER and SOLV_DEREGISTER (R155, R203 to R205, R234, R235,
R415, R422). What the spec leaves open of this is the model's choice: log entries 36, 38, 39 and 82. -/
def Obligations.CommandsWork : Prop :=
  (∀ (src : CmdSrc) (pk : Packet) (s : State) (x : Ctx),
    let k := pkSlot pk
    let t := dw (par2 pk 0)
    let a := par2 pk 2
    let n := par pk 4
    let ext := extOf s (asOp 0x0301 pk)
    let bundles := match x.image with | some im => im.code.length | none => 0
    let l := taskList s a n
    let p : Post := { step := t, tasks := l.map (fun d => (taskDescOf d.1, d.2)), src := src, tag := pk.tag, notify := bitAt pk.flags.toNat 2 }
    let posted := fun (y : Ctx) =>
      { y with posts := x.posts ++ [p], lastPosted := some t, steps := x.steps ++ [StepSt.posted t ext] }
    ctxOf s k = some x → 0 < n → n ≤ 65535 → stepPostable s k x t = true → stepSt? x t = none → ext.length = 256 →
    accessCause s k .hostCmd a (192 * n) = none →
    (∀ d ∈ l, taskDescOk bundles d.1 = true ∧ getLE d.1 16 2 < boundCount x) →
    (bitAt pk.flags.toNat 2 = false → answers (.postStep src pk) src (asOp 0x0301 pk) stQueued s (fun _ u =>
      ctxBecomes k x posted s u)) ∧
    (bitAt pk.flags.toNat 2 = true → runsOn (.postStep src pk) src (asOp 0x0301 pk) s (fun u => ctxBecomes k x posted s u))) ∧
  (∀ (src : CmdSrc) (pk : Packet) (s : State) (x : Ctx) (w : List Word) (n : Nat),
    let k := pkSlot pk
    let ext := extOf s (asOp 0x0400 pk)
    let d : UpdDesc := { slot := k, bytes := ext, armed := dw (getLE ext 20 8), program := w, fired := false, keptFire := false
                         removing := false, reruns := 0 }
    let home := fget s F.MEM_GMAP.UNIT ((updSlot ext 0).1 / 2 ^ 30)
    ctxOf s k = some x → namedProgram s k ext = some w → updHeadBad ext = false →
    (∀ i, i < byteAt ext 2 → updSlotBad ext i = false) → updProgBad ext w = false → stepReached x (d.armed.toNat + 1) = false →
    updFault s k home d = none → (List.range 256).find? (fun n => (mapFind (stackOf s home).descs n).isNone) = some n →
    alreadyFired s x d = false → answers (.updRegister src pk) src (asOp 0x0400 pk) stOk s (fun ys u =>
      ys = [wd home, wd n] ∧ mapFind (stackOf u home).descs n = some d ∧ (stackOf u home).fires = (stackOf s home).fires)) ∧
  (∀ (src : CmdSrc) (pk : Packet) (s : State) (d : UpdDesc),
    let m := par pk 0
    let n := par pk 1
    m < 16 → n < 256 → mapFind (stackOf s m).descs n = some d → d.slot = pkSlot pk →
    answers (.updDeregister src pk) src (asOp 0x0401 pk) stOk s (fun _ u =>
      mapFind (stackOf u m).descs n = if d.fired then some { d with removing := true } else none) ∧
    (byteAt d.bytes 3 = 2 → answers (.updFire src pk) src (asOp 0x0402 pk) stOk s (fun _ u =>
      (dw (par2 pk 2) = d.armed → d.fired = false → (stackOf u m).fires = (stackOf s m).fires ++ [n] ∧
        mapFind (stackOf u m).descs n = some { d with fired := true }) ∧
      (dw (par2 pk 2) = d.armed + 1 → bitAt (byteAt d.bytes 1) 0 = true →
        (stackOf u m).fires = (stackOf s m).fires ∧ mapFind (stackOf u m).descs n = some { d with keptFire := true })))) ∧
  (∀ (src : CmdSrc) (pk : Packet) (s : State) (x : Ctx) (n : Nat),
    let k := pkSlot pk
    let d := par pk 0
    let ext := extOf s (asOp 0x0403 pk)
    let v := solvOf ext
    ctxOf s k = some x → d < 8 → solvBad ext = false → (∀ l, x.lastPosted = some l → l.toNat < v.step) → solvFault s k v = none →
    (List.range 64).find? (fun n => (mapFind (solverOf s d).descs n).isNone) = some n →
    answers (.solvRegister src pk) src (asOp 0x0403 pk) stOk s (fun ys u => ys = [wd n] ∧
      mapFind (solverOf u d).descs n = some (solvDescOf k ext (solvOrder (solverOf s d)) ((x.solvSaved.find? (fun e => e.1 == v.curAddr)).map (·.2))))) ∧
  (∀ (src : CmdSrc) (pk : Packet) (s : State) (e : SolvDesc),
    let d := par pk 0
    let n := par pk 1
    d < 8 → mapFind (solverOf s d).descs n = some e → e.slot = pkSlot pk →
    answers (.solvDeregister src pk) src (asOp 0x0404 pk) stOk s (fun _ u =>
      mapFind (solverOf u d).descs n =
        if (solverOf s d).running.any (fun w => w.num == n) || (solverOf s d).doneFront.any (fun f => f.1 == n) ||
          (!(solvOf e.bytes).front && (ctxOf s e.slot).any (fun x => x.committed.any (fun c => decide (e.next.toNat ≤ c.toNat))))
        then some { e with removing := true } else none))

/-- The management sets, load shedding, the log mirror and the MCTP endpoint (R426, R427, R432, R434): the heartbeat counts;
the standby set takes over after a lost heartbeat and both lost are shown as DEAD; the shed level rises at 90 % and falls
after ten periods below 70 %; buffered entries go to the mirror; a request is served, or answered BUSY while one is open;
the endpoint tells and takes its ID. The falls of the shed level and the second request's reply are the model's reading.
What the spec leaves open of this is the model's choice: log entries 26 and 57. -/
def Obligations.Management : Prop :=
  (∀ (s : State), firmwareRuns s = true → ∃ t, exec .heartbeatTick s = .next t ∧ fget t F.MGMT_STAT.HB_AGE = 0 ∧
    fget t F.MGMT_HB.COUNT = (fget s F.MGMT_HB.COUNT + 1) % 2 ^ 32) ∧
  (∀ (s : State), firmwareRuns s = true → fbit s F.MGMT_STAT.ACTIVE_SET = false →
    (fbit s F.MGMT_STAT.STANDBY_OK = true → ∃ t, exec .mgmtWatchdogFailover s = .next t ∧
      fbit t F.MGMT_STAT.ACTIVE_SET = true ∧ fbit t F.MGMT_STAT.STANDBY_OK = false ∧ fbit t F.MGMT_STAT.DEAD = false) ∧
    (fbit s F.MGMT_STAT.STANDBY_OK = false → ∃ t, exec .mgmtWatchdogFailover s = .next t ∧ fbit t F.MGMT_STAT.DEAD = true ∧
      fbit t F.ATTIC_STAT.ALERT = true ∧ fget t F.ATTIC_STAT.CAUSE = 4)) ∧
  (∀ (s : State), firmwareRuns s = true → fbit s F.MGMT_STAT.ACTIVE_SET = true → ∃ t, exec .standbyDead s = .next t ∧
    fbit t F.MGMT_STAT.DEAD = true ∧ fbit t F.ATTIC_STAT.ALERT = true ∧ fget t F.ATTIC_STAT.CAUSE = 4 ∧
    ∀ c ∈ t.mgmt.taken, c.pk.opcode.toNat = opPost ∨ ∃ st ys, c.final = some (st, ys) ∧ st = stNotReady) ∧
  (∀ (b : BitVec 7) (s : State), firmwareRuns s = true → ∃ t, exec (.shedLevelEval b) s = .next t ∧
    fget t F.MGMT_LOAD.BUSY_PCT = min 100 b.toNat ∧
    (90 ≤ b.toNat → fget t F.MGMT_LOAD.SHED = min 3 (fget s F.MGMT_LOAD.SHED + 1)) ∧
    (70 ≤ b.toNat → b.toNat < 90 → fget t F.MGMT_LOAD.SHED = fget s F.MGMT_LOAD.SHED) ∧
    (b.toNat < 70 → s.mgmt.shedLow < 9 → fget t F.MGMT_LOAD.SHED = fget s F.MGMT_LOAD.SHED ∧ t.mgmt.shedLow = s.mgmt.shedLow + 1) ∧
    (b.toNat < 70 → 9 ≤ s.mgmt.shedLow → fget t F.MGMT_LOAD.SHED = fget s F.MGMT_LOAD.SHED - 1)) ∧
  (∀ (s : State), fbit s F.LOG_CFG.EN = true →
    s.logBuf.length ≤ (fget s F.LOG_TAIL.INDEX + 2 ^ 20 - fget s F.LOG_HEAD.INDEX + 2 ^ 20 - 1) % 2 ^ 20 →
    ∃ t, exec .logMirrorCopy s = .next t ∧ t.logBuf = [] ∧
      fget t F.LOG_HEAD.INDEX = (fget s F.LOG_HEAD.INDEX + s.logBuf.length) % 2 ^ 20) ∧
  (∀ (eid : Byte) (pk : Packet) (s : State), fbit s F.SB_STAT.SMB_OFF = false → fget s F.PWR_STAT.STATE ≠ 2 →
    (s.mgmt.mctpBusy = true → ∃ t, exec (.mctpRequest eid pk) s = .next t ∧ t.mgmt.mctpOut = s.mgmt.mctpOut ++
      [⟨eid, [0x7E#8, 0x0B#8, 0x5A#8] ++ replyBytes stBusy pk 4 0xFF []⟩] ∧ t.regs = s.regs) ∧
    (s.mgmt.mctpBusy = false → mgmtUp s = true → ∃ u,
      exec (.mctpRequest eid pk) s = .next (serve (Taken.fresh (.mctp eid) pk) u) ∧ u.mgmt.mctpBusy = true ∧ u.regs = s.regs ∧
      u.ctxs = s.ctxs)) ∧
  (∀ (eid : Byte) (d : List Byte) (s : State), fbit s F.SB_STAT.SMB_OFF = false →
    (∃ t, exec (.mctpControlMessage eid 0x02 []) s = .next t ∧ t.mgmt.mctpOut = s.mgmt.mctpOut ++
      [⟨eid, [0x00#8, 0x00#8, 0x02#8, 0x00#8, BitVec.ofNat 8 (fget s F.MGMT_STAT.MCTP_EID), 0x00#8, 0x00#8]⟩]) ∧
    (d.length = 2 → byteAt d 0 % 4 < 2 → 8 ≤ byteAt d 1 → byteAt d 1 < 0xFF → ∃ t,
      exec (.mctpControlMessage eid 0x01 d) s = .next t ∧ fget t F.MGMT_STAT.MCTP_EID = byteAt d 1 ∧ t.mgmt.busOwner = eid))

/-- The test port (R435): each instruction selects its data register, and REGACC reads and writes as the debug lock allows.
What the spec leaves open of this is the model's choice: log entry 60. -/
def Obligations.TestPort : Prop :=
  (∀ (s : State), ∃ t, exec .jtagIdcode s = .next t ∧ t.plat.tapIr = 0x01 ∧ t.plat.tdo = lsbBits 0x25358569 32 ∧
    t.plat.tapPins = none ∧ t.regs = s.regs) ∧
  (∀ (scan : List Bool) (s : State), ∃ t u, exec (.jtagSamplePreload scan) s = .next t ∧ t.plat.scan = scan ∧
    t.plat.tapPins = none ∧ exec (.jtagExtest scan) s = .next u ∧ u.plat.scan = scan ∧ u.plat.tapPins = some scan ∧
    t.regs = s.regs ∧ u.regs = s.regs) ∧
  (∀ (s : State), ∃ t u v w, exec .jtagClamp s = .next t ∧ t.plat.tapPins = some s.plat.scan ∧ t.plat.tdo = [false] ∧
    exec .jtagHighz s = .next u ∧ u.plat.tapPins = some [] ∧ u.plat.tdo = [false] ∧
    exec .jtagBypass s = .next v ∧ v.plat.tapIr = 0xFF ∧ v.plat.tdo = [false] ∧ v.plat.tapPins = none ∧
    exec .jtagTestLogicReset s = .next w ∧ w.plat.tapIr = 0x01 ∧ w.plat.tapPins = none) ∧
  (∀ (dr : BitVec 66) (s : State) (r : Reg) (i j : Nat), regAt (bitsOf dr.toNat 63 32) = some (r, i, j) →
    (bitAt dr.toNat 64 = false → (rights s .testPort r i j).1 = true → ∃ t, exec (.jtagRegacc dr) s = .next t ∧
      t.plat.tapIr = 0x20 ∧ t.plat.tapDr.toNat % 2 ^ 32 = (readWord s .testPort r i j).toNat ∧ t.plat.tapStatus = false) ∧
    (bitAt dr.toNat 64 = true → (rights s .testPort r i j).2 = true → pageRegs.contains r = false →
      loggedWrite r (wd (bitsOf dr.toNat 31 0)) = true → fbit s F.LOCK_STAT.DEBUG_OPEN = false → ∃ t, exec (.jtagRegacc dr) s = .next t ∧ t.plat.tapStatus = true ∧
        rget t r i j = rget s r i j) ∧
    (bitAt dr.toNat 64 = true → mayWrite .testPort r i j s → actingRegs.contains r = false → pageRegs.contains r = false →
      loggedWrite r (wd (bitsOf dr.toNat 31 0)) = true → ∃ t, exec (.jtagRegacc dr) s = .next t ∧ t.plat.tapStatus = false ∧
        rget t r i j = writtenVal r (rget s r i j) (wd (bitsOf dr.toNat 31 0)) ∧ othersKept (bitsOf dr.toNat 63 32) s t))

/-- Clock sources, domains and the attic (R439 to R442, R447 to R449, R456): windows count a source up to READY after 64 or
back to none, a window with no edge trips it; a relocked domain runs on its reference; a domain that holds for 5 ms resets
its die; the trim is kept; a failing attic copy is retired. What the spec leaves open of this is the model's choice: log
entry 58. -/
def Obligations.Clocks : Prop :=
  (∀ (x : ClkSrc) (n : Nat) (s : State),
    let i := srcNo x
    let m := monOf s i
    m.judge = judgeOf s i → s.plat.dispute = none →
    (srcReady s i = false → windowPasses s i m.judge n = true → ∃ t, exec (.monitorWindow x n) s = .next t ∧
      (monOf t i).passes = m.passes + 1 ∧ srcReady t i = (decide (64 ≤ m.passes + 1) && !(decide (i < 2) && m.judge == 3))) ∧
    (srcReady s i = false → windowPasses s i m.judge n = false → ∃ t, exec (.monitorWindow x n) s = .next t ∧
      (monOf t i).passes = 0 ∧ (monOf t i).first = none ∧ srcReady t i = false) ∧
    (srcReady s i = true → n = 0 → m.judge ≠ 3 → ∃ t, exec (.monitorWindow x n) s = .next t ∧ srcReady t i = false ∧
      fbit t (tripFld i) = true) ∧
    (srcReady s i = true → windowPasses s i m.judge n = false → m.judge = 3 → m.voided = false →
      ∃ t, exec (.monitorWindow x n) s = .next t ∧ fbit t F.CLK_SRC_STAT.MON_VOID = true ∧ (monOf t i).voided = true)) ∧
  (∀ (n : Fin 79) (s : State), holding s n.val = true → ∃ t, exec (.holdoverTimeout n) s = .next t ∧
    fbit t F.ATTIC_STAT.ALERT = true ∧ fget t F.ATTIC_STAT.CAUSE = 1 ∧ ∀ d, domDie n.val = some d → fget t F.DIE_PWR.STATE d = 3) ∧
  (∀ (n : Fin 79) (s : State) (x : Nat), mapFind s.plat.relock n.val = some x → srcReady s x = true →
    ∃ t, exec (.pllRelock n) s = .next t ∧ fget t F.CLK_DSTAT.CUR n.val = x ∧ fbit t F.CLK_DSTAT.LOCK n.val = true ∧
      fbit t F.CLK_DSTAT.HOLD n.val = false ∧ mapFind t.plat.relock n.val = none ∧
      (n.val < 8 → fget t F.CLK_DSTAT.CUR_RATIO n.val = effRatio s n.val)) ∧
  (∀ (ppm : Imm16) (s : State), srcReady s 0 = true ∨ srcReady s 1 = true → ∃ t, exec (.soscTrim ppm) s = .next t ∧
    fbit t F.CLK_SOSC.TRIMMED = true ∧ fget t F.CLK_SOSC.OFFSET_PPM = ppm.toNat ∧ ∀ x, x < 3 → (monOf t x).passes = 0) ∧
  (∀ (s : State), fbit s F.ATTIC_STAT.SINGLE = false → ∃ t, exec .atticMiscompare s = .next t ∧ t.plat.miscompare = true ∧
    t.regs = s.regs) ∧
  (∀ (b : Bool) (s : State), s.plat.miscompare = true → ∃ t, exec (.atticSelfCheckDone b) s = .next t ∧
    fbit t F.ATTIC_STAT.SINGLE = true ∧ t.plat.miscompare = false ∧
    (fget s F.ATTIC_STAT.COPY = b2n b → fget t F.ATTIC_STAT.COPY = 1 - b2n b ∧ srcReady t 2 = false) ∧
    (fget s F.ATTIC_STAT.COPY ≠ b2n b → fget t F.ATTIC_STAT.COPY = fget s F.ATTIC_STAT.COPY)) ∧
  (∀ (s : State), fget s F.BOOT_STAT.PHASE = 1 → srcReady s 2 = false → ∃ t, exec .soscReadyTimeout s = .next t ∧
    fbit t F.ATTIC_STAT.ALERT = true ∧ fget t F.ATTIC_STAT.CAUSE = 1)

/-- Temperature, supplies and idle dies (R448, R453, R454, R463): readings are shown and throttle a die by 8 steps of ratio;
a junction at 115 °C or a lost rail holds a die in reset with an alert; a die leaves reset once its reason is over; a quiet
die is idle. What the spec leaves open of this is the model's choice: log entry 58. -/
def Obligations.PowerAndHeat : Prop :=
  (∀ (tj vc : List Nat) (w : Nat) (s : State), ∃ t, exec (.throttleTick tj vc w) s = .next t ∧
    fget t F.PWR_STAT.POWER_W = min 0xFFF w ∧ (∀ d, d < 8 → fget t F.DIE_SENS.TJ d = min 0xFFF (tj.getD d 0) ∧
      fget t F.DIE_SENS.VCORE d = min 0xFFF (vc.getD d 0) ∧
      (breachOf tj vc w d ≠ 0 → fget t F.DIE_PWR.RATIO_CAP d = max 48 (fget s F.DIE_PWR.RATIO_CAP d - 8) ∧
        fget t F.DIE_PWR.T_CAUSE d = breachOf tj vc w d) ∧
      (breachOf tj vc w d = 0 → mapFind s.plat.throttleStart d = none →
        fget t F.DIE_PWR.RATIO_CAP d = fget s F.DIE_PWR.RATIO_CAP d))) ∧
  (∀ (d : Die) (tj : BitVec 12) (s : State),
    (tj.toNat < 1840 → exec (.dieOvertemp d tj) s = .next s) ∧
    (1840 ≤ tj.toNat → atticOnly s = false → ∃ t, exec (.dieOvertemp d tj) s = .next t ∧ fget t F.DIE_PWR.STATE d.val = 3 ∧
      fbit t F.ATTIC_STAT.ALERT = true ∧ fget t F.ATTIC_STAT.CAUSE = 2)) ∧
  (∀ (d : Die) (s : State), fget s F.DIE_PWR.STATE d.val = 3 → 5 ≤ fget s F.BOOT_STAT.PHASE → dieMayLeave s d.val = true →
    ∃ t, exec (.dieResetRelease d) s = .next t ∧ fget t F.DIE_PWR.STATE d.val = 0 ∧ mapFind t.time.copies d.val = none ∧
      ∀ n, n < 272 → (coreOf t (272 * d.val + n)).clearDue = true) ∧
  (∀ (r : Rail) (s : State),
    (r ∈ s.plat.rails → atticOnly s = false → ∃ t, exec (.supplyLost r) s = .next t ∧ r ∉ t.plat.rails ∧
      (∀ d, r = .core d ∨ r = .uncore d → fget t F.DIE_PWR.STATE d.val = 3 ∧ fbit t F.ATTIC_STAT.ALERT = true ∧
        fget t F.ATTIC_STAT.CAUSE = 3)) ∧
    ∃ t, exec (.railPresent r) s = .next t ∧ r ∈ t.plat.rails ∧ t.regs = s.regs) ∧
  (∀ (d : Die) (s : State), fget s F.DIE_PWR.STATE d.val = 0 → dieQuiet s d.val = true → dieReady s d.val = false →
    ∃ t, exec (.dieIdleEntry d) s = .next t ∧ fget t F.DIE_PWR.STATE d.val = 1)

/-- Start-up, resets and the sideband pins (R4, R456 to R459, R462, R466, R467, R470): cold start leaves every register and
all state as the tables reset them, but for the straps, and keeps only what lies outside the device; a phase whose condition
holds gives way to the next with the phase's effects, and else nothing changes; PERST# starts again from phase 4, or from
phase 2 out of Attic-only; authentication writes the identity once, or shows its failure; a stuck ALERT_N is ignored until
it is high, a tray's alert counted, the third failed bus clear turns SMBus off. What the spec leaves open of this is the
model's choice: log entries 25, 27 and 59. -/
def Obligations.StartUp : Prop :=
  (∀ (x : BitVec 2) (s : State), ∃ t, exec (.coldStart x) s = .next t ∧ fget t F.SB_STAT.SMB_ADDR = x.toNat ∧
    (∀ r i j, r ≠ .SB_STAT → rget t r i j = rget State.reset r i j) ∧
    { t with regs := [] } = { State.reset with
      regs := [], pending := s.pending, free := s.free, busData := s.busData, host := s.host, hostPoison := s.hostPoison
      msix := s.msix, wear := s.wear, wearFullSent := s.wearFullSent }) ∧
  (∀ (b : BootInfo) (s : State), fget s F.PWR_STAT.STATE ≠ 2 →
    let n := fget s F.BOOT_STAT.PHASE
    let met := match n with
      | 0 => true
      | 1 => srcReady s 2
      | 2 => allRails.all (fun r => s.plat.rails.contains r)
      | 3 => (srcReady s 0 || srcReady s 1) && fbit s F.CLK_SOSC.TRIMMED
      | 4 => !s.plat.perst && (srcReady s 0 || srcReady s 1)
      | 5 => fbit s F.GBL_EDITION.VALID
      | 6 => true
      | 7 => alignable s
      | 8 => true
      | 9 => (List.range 36).all (fun p => portState s p != 2 || (portOf s p).attempts != 0)
      | _ => false
    let ref := if srcReady s 0 then 0 else 1
    (met = false → exec (.startupPhaseComplete b) s = .next s) ∧
    (met = true → (n < 4 ∨ n = 5 ∨ n = 9) → exec (.startupPhaseComplete b) s = .next (fset F.BOOT_STAT.PHASE 0 0 (n + 1) s)) ∧
    (met = true → ∃ t, exec (.startupPhaseComplete b) s = .next t ∧ fget t F.BOOT_STAT.PHASE = n + 1 ∧
      (n = 4 → t.time.copies = [] ∧
        (∀ m, m < 79 → fbit t F.CLK_DSTAT.LOCK m = true ∧ fget t F.CLK_DSTAT.CUR m = ref ∧ fget t F.CLK_DOM.SEL m = ref ∧
          fget t F.CLK_DOM.FB m = if 40 ≤ m ∧ m ≤ 76 then 1 - ref else 2) ∧
        (∀ d, d < 8 → dieMayLeave s d = true → fget t F.DIE_PWR.STATE d = 0)) ∧
      (n = 6 → fget t F.GBL_UNITS.STACK_OK = 65535 - b.stacksLost.toNat ∧ t.banks = 264 - fget t F.DUM_DEV.BANKS_DISABLED ∧
        (∀ m, m < 16 → (stackOf t m).engines = 68 - fget t F.DUM_STACK.ENG_DISABLED m) ∧
        (∀ d c, d < 8 → c < 256 → cstat t F.CORE_STAT.STATE (272 * d + c) = if mapDisables t (272 * d + c) then 3 else 1) ∧
        (∀ d c, d < 8 → 256 ≤ c → c < 272 → mapDisables t (272 * d + c) = true → cstat t F.CORE_STAT.STATE (272 * d + c) = 3)) ∧
      (n = 7 → t.tokHeld = [] ∧ (∀ d, d < 8 → fbit t F.RPR_CYC.ALIGNED d = true ∧ fget t F.RPR_CYC.BREAKS d = 0) ∧
        (∀ x, x < 20 → mapFind t.xfifos x = some (0, 8)) ∧ (∀ e ∈ t.ctxs, e.2.tokens = [])) ∧
      (n = 8 → fget t F.LOCK_STAT.PLATFORM = 1 ∧
        ∀ p, p < 36 → portState t p = if fbit s F.LNK_HP.PRESENT p then trainState s p else 1))) ∧
  (∀ (s : State), (fget s F.PWR_STAT.STATE ≠ 2 → ∃ t, exec .perstRelease s = .next t ∧ t.plat.perst = false ∧ t.regs = s.regs) ∧
    (fget s F.PWR_STAT.STATE = 2 → ∃ t, exec .perstRelease s = .next t ∧ t.plat.perst = false ∧ restarted 2 s t ∧
      t.time.everLocked = false)) ∧
  (∀ (s : State),
    (s.plat.perst = false → fget s F.PWR_STAT.STATE ≠ 2 → 4 ≤ fget s F.BOOT_STAT.PHASE →
      ∃ t, exec .perstAssert s = .next t ∧ t.plat.perst = true ∧ restarted 4 s t) ∧
    (s.plat.perst = true ∨ fget s F.PWR_STAT.STATE = 2 ∨ fget s F.BOOT_STAT.PHASE < 4 →
      exec .perstAssert s = .next { s with plat := { s.plat with perst := true } })) ∧
  (∀ (a : AuthResult) (s : State), fget s F.BOOT_STAT.PHASE = 5 → s.plat.auth = none →
    (a.primaryOk = true ∨ a.secondaryOk = true → ∃ t, exec (.firmwareAuthDone a) s = .next t ∧
      fbit t F.GBL_EDITION.VALID = true ∧ rget t .GBL_FWVER = a.version ∧ rget t .GBL_FWBUILD = a.build ∧
      fbit t F.BOOT_STAT.IMAGE = !a.primaryOk ∧ fbit t F.MGMT_STAT.STANDBY_OK = a.standbyOk) ∧
    (a.primaryOk = false → a.secondaryOk = false → ∃ t, exec (.firmwareAuthDone a) s = .next t ∧
      fbit t F.BOOT_STAT.FAIL = true ∧ fbit t F.ATTIC_STAT.ALERT = true ∧ fget t F.ATTIC_STAT.CAUSE = 5 ∧
      ∀ r ∈ [Reg.GBL_FWVER, .GBL_FWBUILD, .GBL_EDITION], rget t r = rget s r)) ∧
  (∀ (a : AuthResult) (s : State), (fget s F.BOOT_STAT.PHASE ≠ 5 ∨ s.plat.auth ≠ none) → exec (.firmwareAuthDone a) s = .next s) ∧
  (∀ (s : State),
    (driverOn s = true ∨ fbit s F.SB_STAT.ALERT_IGNORED = true →
      exec .alertStuckDetect s = .next s ∧ exec .trayAlert s = .next s) ∧
    (fbit s F.SB_STAT.SMB_OFF = true → ∀ freed, exec (.smbBusClear freed) s = .next s) ∧
    (driverOn s = false → fbit s F.SB_STAT.ALERT_IGNORED = false →
      (∃ t, exec .alertStuckDetect s = .next t ∧ fbit t F.SB_STAT.ALERT_STUCK = true ∧ fbit t F.SB_STAT.ALERT_IGNORED = true) ∧
      (∃ t, exec .trayAlert s = .next t ∧ counted F.SB_STAT.FOREIGN 0 0 1 s t)) ∧
    (∃ t, exec .alertReleaseHigh s = .next t ∧ fbit t F.SB_STAT.ALERT_IGNORED = false ∧
      fget t F.SB_STAT.ALERT_STUCK = fget s F.SB_STAT.ALERT_STUCK) ∧
    (fbit s F.SB_STAT.SMB_OFF = false →
      (∃ t, exec (.smbBusClear true) s = .next t ∧ fget t F.SB_STAT.SMB_TRIES = 0 ∧ fbit t F.SB_STAT.SMB_OFF = false) ∧
      (∃ t, exec (.smbBusClear false) s = .next t ∧ fget t F.SB_STAT.SMB_TRIES = min 3 (fget s F.SB_STAT.SMB_TRIES + 1) ∧
        fbit t F.SB_STAT.SMB_OFF = decide (3 ≤ fget s F.SB_STAT.SMB_TRIES + 1))))

/-! ## The whole machine -/

/-- On an empty queue one unit of machine time passes and nothing but time moves (log entry 2; R248, R254): the clock counts one,
corrected by at most one, exactly one where no correction is pending; while the device is neither in Attic-only nor in
holdover, and TIME_10M is not lost, every register and the management stay. -/
def Obligations.IdleStep : Prop :=
  ∀ s : State, s.pending = [] → ∃ t, step s = .next t ∧ t.pending = [] ∧
    (s.time.slew = 0 → t.time.now = s.time.now + 1) ∧
    (t.time.now = s.time.now ∨ t.time.now = s.time.now + 1 ∨ t.time.now = s.time.now + 2) ∧
    (s.time.tickPhase + 1 ≠ 10000 → t.time.now = s.time.now + 1 ∧ t.time.slew = s.time.slew) ∧
    t.mem = s.mem ∧ t.memPoison = s.memPoison ∧ t.host = s.host ∧ t.cores = s.cores ∧ t.ctxs = s.ctxs ∧
    t.ports = s.ports ∧ t.free = s.free ∧
    (fget s F.PWR_STAT.STATE ≠ 2 → fget s F.MT_STAT.STATE ≠ 3 → s.time.tenLost = false → t.regs = s.regs ∧ t.mgmt = s.mgmt)

/-- Right after reset: no command waits, memory lists nothing, no core runs, no context is bound, and registers read the
reset values of their tables. What the spec leaves open of this is the model's choice: log entries 9 and 10. -/
def Obligations.ResetFacts : Prop :=
  State.reset.pending = [] ∧ memoryOk State.reset = true ∧ State.reset.cores = [] ∧ State.reset.ctxs = [] ∧
  (rget State.reset .GBL_ID = 0x0B5A5821 ∧ rget State.reset .GBL_EDITION = 0 ∧ rget State.reset .MGMT_STAT = 0 ∧
    rget State.reset .MT_ERR = 0xFFFFFFFF) ∧
  (∀ p < 36, fget State.reset F.LNK_STAT.STATE p = 0) ∧
  (∀ f < 65, fget State.reset F.MB_OSTAT.FULL f = 0 ∧ ∀ r < 4, fget State.reset F.RING_CFG.EN f r = 0 ∧
    fget State.reset F.RING_CFG.CTX f r = 0xFFFF ∧ fget State.reset F.RING_STAT.PHASE f r = 1) ∧
  (∀ m < 16, fget State.reset F.CEL_SPARES.ROWS_LEFT_MIN m = 1024 ∧ fget State.reset F.CEL_SCRUB.HOURS m = 8)

/-- Whatever steps, device memory and host memory stay in canonical form. What the spec leaves open of this is the model's
choice: log entry 8. -/
def Obligations.MemoryKept : Prop :=
  ∀ (s t : State), memoryOk s = true → step s = .next t → memoryOk t = true

/-- Every well-formed command goes on, and a slot form that the spec reserves has no meaning (R70, R131, R171, R175, R217):
in every state, by the same name. What the spec leaves open of this is the model's choice: log entries 11 and 29. -/
def Obligations.CommandsGoOn : Prop :=
  (∀ (i : Instr) (s : State), i.wellFormed = true → ∃ t, exec i s = .next t) ∧
  (∀ (i : Instr) (s : State), reservable i = true → i.wellFormed = false → exec i s = .refused .reservedForm) ∧
  (∀ (i : Instr) (s : State), reservable i = false → ∃ t, exec i s = .next t)

/-- Device memory: a command that does not store, and carries no store or log entry of another with it, leaves every byte and
every poison bit; so does a frame at a port without a receive pool in device memory (R190, R292). -/
def Obligations.DeviceMemoryFrame : Prop :=
  (∀ (i : Instr) (s t : State), mayStore i = false → exec i s = .next t → t.mem = s.mem ∧ t.memPoison = s.memPoison) ∧
  (∀ (p : PortId) (w : List Byte) (s t : State), lrOn (portOf s p.val) = false → exec (.frameReceive p w) s = .next t →
    t.mem = s.mem ∧ t.memPoison = s.memPoison)

/-- Host memory, cores, contexts and registers: the commands that leave them. -/
def Obligations.OtherStateFrame : Prop :=
  ∀ (i : Instr) (s t : State), exec i s = .next t →
    (keepsHost i = true → t.host = s.host ∧ t.hostPoison = s.hostPoison) ∧
    (keepsCores i = true → t.cores = s.cores) ∧
    (keepsCtxs i = true → t.ctxs = s.ctxs) ∧
    (keepsRegs i = true → t.regs = s.regs)

/-- Stores (R183, R184, R190): a store to a device address leaves every byte of every stack but the bytes at which the addresses
of its range lie; within one line of a stack in service, where no copy-on-write holds it back, those bytes read what was
stored and the line's poison bit is set by R190. A store by DMA gives host memory its bytes and no other. -/
def Obligations.StoredBytes : Prop :=
  (∀ (a : Nat) (bs : List Byte) (poison : Nat → Bool) (s : State) (key : Nat),
    (∀ k < bs.length, memKey (locate s (a + k)).1 (locate s (a + k)).2 ≠ key) →
    mapGet 0 (devWriteP a bs poison s).mem key = mapGet 0 s.mem key) ∧
  (∀ (a : Nat) (bs : List Byte) (poison : Nat → Bool) (s : State), bs ≠ [] → a % 64 + bs.length ≤ 64 →
    let m := (locate s a).1
    let o := (locate s a).2
    stackOk s m = true → cowBlock s m o bs = none → (stackOf s m).waitCow.all (fun w => w.1 / 64 != o / 64) = true →
    (∀ k < bs.length, mapGet 0 (devWriteP a bs poison s).mem (memKey m (o + k)) = bs.getD k 0) ∧
    mapGet false (devWriteP a bs poison s).memPoison (lineKey m (o / 64)) =
      (poison (a / 64) || (mapGet false s.memPoison (lineKey m (o / 64)) && decide (bs.length < 64)))) ∧
  (∀ (a : Nat) (bs : List Byte) (poison : Nat → Bool) (s : State) (x : Nat),
    mapGet 0 (hostWrite a bs poison s).host x = if a ≤ x ∧ x < a + bs.length then bs.getD (x - a) 0 else mapGet 0 s.host x)

/-- A packet's 64 bytes say all of it: what is read from a packet's bytes is the packet, and what is written of 64 bytes read is
those bytes (R416). -/
def Obligations.PacketRoundTrip : Prop :=
  (∀ pk : Packet, pk.ps.length = 11 → (packetBytes pk).length = 64 ∧ parsePacket (packetBytes pk) = pk) ∧
  (∀ bs : List Byte, bs.length = 64 → packetBytes (parsePacket bs) = bs)

/-- mix64 is a bijection, and what it computes on numbers below 2^64 (R120). -/
def Obligations.Mix64 : Prop :=
  (∀ x y : DWord, mix64 x = mix64 y → x = y) ∧ (∀ y : DWord, ∃ x, mix64 x = y) ∧
  ∀ x : DWord,
    let a := x.toNat ^^^ (x.toNat / 2 ^ 32)
    let b := a * 0xC3A59D1B7E462F8D % 2 ^ 64
    let c := b ^^^ (b / 2 ^ 29)
    let d := c * 0x8B71E6C25D09A4F3 % 2 ^ 64
    (mix64 x).toNat = d ^^^ (d / 2 ^ 32)

/-- The six outputs of R214, and the product steps of its vector 3. -/
def Obligations.DrawVectors : Prop :=
  gen 0 0 0 0 = 0 ∧
  gen 0 0 0 1 = 0xF6F992EDF0EDDC4F ∧
  gen 0 0 0 2 = 0x9117E504F825A733 ∧
  gen 0x0123400000000000 0x001234 0 1 = 0xF6F992EDF0EDDC4F ∧
  gen 0x000000123456789A 0 0x123456789A 2 = 0x9117E504F825A733 ∧
  gen 0xABCDEF0123456789 0xABCDEF 0x0123456789 2 = 0x9117E504F825A733 ∧
  (let p : DWord := 2 * 0xC3A59D1B7E462F8D
   p = 0x874B3A36FC8C5F1A ∧ p ^^^ (p >>> 29) = 0x874B3A32C6D58EAD ∧
    (p ^^^ (p >>> 29)) * 0x8B71E6C25D09A4F3 = 0x9117E50469324237)

/-- Pairs of a value and an index combine in any order and any tree (R118). -/
def Obligations.PairRule : Prop :=
  (∀ (mini : Bool) (x y : Word × Nat), x.2 ≠ y.2 → maxPair mini x y = maxPair mini y x) ∧
  (∀ (mini : Bool) (x y z : Word × Nat), x.2 ≠ y.2 → y.2 ≠ z.2 → x.2 ≠ z.2 →
    maxPair mini (maxPair mini x y) z = maxPair mini x (maxPair mini y z)) ∧
  (∀ (mini : Bool) (x y : Word × Nat), maxPair mini x y = x ∨ maxPair mini x y = y) ∧
  (∀ w : Word, pairBits w = w ∨ (decode32 w = .nan ∧ pairBits w = 0x7FC00000))

/-- A reply in a mailbox (R418): how many words it has, what they hold, and zeros beyond. -/
def Obligations.MailboxReply : Prop :=
  ∀ (f : Fin 65) (pk : Packet) (st : Nat) (final fo : Bool) (ys : List Word) (s : State), ys.length ≤ 13 →
    let t := writeReply (.mailbox f) pk st final fo ys s
    let len := if ∀ y ∈ ys.drop 5, y = 0 then 8 else 16
    fget t F.MB_OSTAT.LEN f.val = len ∧ fget t F.MB_OSTAT.FULL f.val = 1 ∧
    (∀ i < len, rget t .MB_OUT f.val i = wd (getLE (replyBytes st pk (2 * b2n fo + 4 * b2n final) 0xFF ys) (4 * i) 4)) ∧
    (∀ i, len ≤ i → i < 16 → rget t .MB_OUT f.val i = 0)

/-- A reply in a completion ring (R413, R414, R417): it is the entry at the tail, with the ring's phase in bit 0 of byte 8,
the tail moves on, the phase inverts where the tail wraps, and no other byte of host memory changes. What the spec leaves
open of this is the model's choice: log entry 53. -/
def Obligations.CompletionRing : Prop :=
  ∀ (f : Fin 65) (r : Fin 4) (pk : Packet) (st : Nat) (final fo : Bool) (ys : List Word) (s : State),
    fget s F.RING_CFG.SIZE_LOG2 f.val r.val ≤ 12 → fget s F.RING_STAT.CQ_TAIL f.val r.val < ringSize s f.val r.val →
    let t := writeReply (.ring f r) pk st final fo ys s
    let tail := fget s F.RING_STAT.CQ_TAIL f.val r.val
    let ph := fget s F.RING_STAT.PHASE f.val r.val
    let a := (rget64 s .RING_CQ_LO .RING_CQ_HI f.val r.val).toNat + 64 * tail
    (fget t F.RING_STAT.CQ_TAIL f.val r.val = if tail + 1 = ringSize s f.val r.val then 0 else tail + 1) ∧
    (fget t F.RING_STAT.PHASE f.val r.val = if tail + 1 = ringSize s f.val r.val then 1 - ph else ph) ∧
    hostBytes t a 64 = replyBytes st pk (2 * b2n fo + 4 * b2n final + ph) r.val ys ∧
    byteAt (hostBytes t a 64) 8 % 2 = ph ∧
    (∀ x, x < a ∨ a + 64 ≤ x → mapGet 0 t.host x = mapGet 0 s.host x)
end

