-- ==== Sys2Proof/Laws/Map.lean ====
section
/-! SUPPORT. Laws of sparse maps: what is read after a write, and that every operation keeps the canonical form. -/

namespace Sys2Proof.Machine

variable {α : Type}

@[simp] theorem mapGet_nil (d : α) (n : Nat) : mapGet d [] n = d := rfl
@[simp] theorem mapFind_nil (n : Nat) : mapFind ([] : SMap α) n = none := rfl
@[simp] theorem mapPut_nil (n : Nat) (v : α) : mapPut [] n v = [(n, v)] := rfl
@[simp] theorem mapDel_nil (n : Nat) : mapDel ([] : SMap α) n = [] := rfl

/-! ## Finding -/

/-- An entry put is found. -/
@[simp] theorem mapFind_mapPut_self (n : Nat) (v : α) : ∀ m : SMap α, mapFind (mapPut m n v) n = some v
  | [] => by simp [mapFind]
  | (k, w) :: t => by
    unfold mapPut
    split
    · simp [mapFind]
    · split
      · simp [mapFind]
      · next h => simp [mapFind, h, mapFind_mapPut_self n v t]

/-- Putting an entry leaves every other key. -/
theorem mapFind_mapPut_ne {n k : Nat} (h : k ≠ n) (v : α) : ∀ m : SMap α, mapFind (mapPut m n v) k = mapFind m k
  | [] => by simp [mapFind, h]
  | (j, w) :: t => by
    unfold mapPut
    split
    · simp [mapFind, h]
    · split
      · next e => subst e; simp [mapFind, h]
      · simp [mapFind, mapFind_mapPut_ne h v t]

/-- A deleted key is gone. -/
@[simp] theorem mapFind_mapDel_self (n : Nat) : ∀ m : SMap α, mapFind (mapDel m n) n = none
  | [] => rfl
  | (k, w) :: t => by
    have ih := mapFind_mapDel_self n t
    unfold mapDel at ih ⊢
    by_cases h : k = n
    · subst h; simpa using ih
    · have h' : n ≠ k := fun e => h e.symm
      simp [h, mapFind, h', ih]

/-- Deleting an entry leaves every other key. -/
theorem mapFind_mapDel_ne {n k : Nat} (h : k ≠ n) : ∀ m : SMap α, mapFind (mapDel m n) k = mapFind m k
  | [] => rfl
  | (j, w) :: t => by
    have ih := mapFind_mapDel_ne h t
    unfold mapDel at ih ⊢
    by_cases e : j = n
    · subst e; simp [mapFind, h, ih]
    · simp [e, mapFind, ih]

/-- A value read is the listed one, or the default. -/
theorem mapGet_eq_find (d : α) (n : Nat) : ∀ m : SMap α, mapGet d m n = (mapFind m n).getD d
  | [] => rfl
  | (k, v) :: t => by
    simp only [mapGet, mapFind]
    split
    · rfl
    · exact mapGet_eq_find d n t

/-- What is read after a put at the same key. -/
@[simp] theorem mapGet_mapPut_self (d : α) (n : Nat) (v : α) (m : SMap α) : mapGet d (mapPut m n v) n = v := by
  simp [mapGet_eq_find]

/-- A put leaves what other keys read. -/
theorem mapGet_mapPut_ne (d : α) {n k : Nat} (h : k ≠ n) (v : α) (m : SMap α) : mapGet d (mapPut m n v) k = mapGet d m k := by
  simp [mapGet_eq_find, mapFind_mapPut_ne h]

/-- What is read after a write at the same key is the value written. -/
@[simp] theorem mapGet_mapSet_self [DecidableEq α] (d : α) (n : Nat) (v : α) (m : SMap α) : mapGet d (mapSet d m n v) n = v := by
  unfold mapSet
  split
  · next e => simp [mapGet_eq_find, e]
  · simp

/-- A write leaves what other keys read. -/
theorem mapGet_mapSet_ne [DecidableEq α] (d : α) {n k : Nat} (h : k ≠ n) (v : α) (m : SMap α) :
    mapGet d (mapSet d m n v) k = mapGet d m k := by
  unfold mapSet
  split
  · simp [mapGet_eq_find, mapFind_mapDel_ne h]
  · exact mapGet_mapPut_ne d h v m

/-! ## The canonical form -/

theorem mapRisesFrom_mono {a b : Nat} (h : a ≤ b) : ∀ {m : SMap α}, mapRisesFrom b m = true → mapRisesFrom a m = true
  | [], _ => rfl
  | (k, _) :: t, hm => by
    simp only [mapRisesFrom, Bool.and_eq_true, decide_eq_true_eq] at hm ⊢
    exact ⟨Nat.lt_of_le_of_lt h hm.1, hm.2⟩

theorem mapRises_of_from {a : Nat} : ∀ {m : SMap α}, mapRisesFrom a m = true → mapRises m = true
  | [], _ => rfl
  | (k, _) :: t, hm => by
    simp only [mapRisesFrom, Bool.and_eq_true] at hm
    exact hm.2

theorem mapRisesFrom_mapPut {a : Nat} (n : Nat) (v : α) (h : a < n) :
    ∀ {m : SMap α}, mapRisesFrom a m = true → mapRisesFrom a (mapPut m n v) = true
  | [], _ => by simp [mapRisesFrom, h]
  | (k, w) :: t, hm => by
    simp only [mapRisesFrom, Bool.and_eq_true, decide_eq_true_eq] at hm
    unfold mapPut
    split
    · next e => simp [mapRisesFrom, h, e, hm.2]
    · split
      · next e => subst e; simp [mapRisesFrom, h, hm.2]
      · next e e' =>
        have hk : k < n := by omega
        simp [mapRisesFrom, hm.1, mapRisesFrom_mapPut n v hk hm.2]

/-- Putting an entry keeps the keys rising. -/
theorem mapRises_mapPut (n : Nat) (v : α) : ∀ {m : SMap α}, mapRises m = true → mapRises (mapPut m n v) = true
  | [], _ => rfl
  | (k, w) :: t, hm => by
    simp only [mapRises] at hm
    unfold mapPut
    split
    · next e => simp [mapRises, mapRisesFrom, e, hm]
    · split
      · next e => subst e; simp [mapRises, hm]
      · next e e' =>
        have hk : k < n := by omega
        simp [mapRises, mapRisesFrom_mapPut n v hk hm]

theorem mapRisesFrom_filter (p : Nat × α → Bool) {a : Nat} : ∀ {m : SMap α}, mapRisesFrom a m = true →
    mapRisesFrom a (m.filter p) = true
  | [], _ => rfl
  | (k, w) :: t, hm => by
    simp only [mapRisesFrom, Bool.and_eq_true, decide_eq_true_eq] at hm
    by_cases hp : p (k, w) = true
    · simp [List.filter, hp, mapRisesFrom, hm.1, mapRisesFrom_filter p hm.2]
    · simp [List.filter, hp, mapRisesFrom_filter p (mapRisesFrom_mono (Nat.le_of_lt hm.1) hm.2)]

/-- Entries filtered from a map leave its keys rising. -/
theorem mapRises_filter (p : Nat × α → Bool) : ∀ {m : SMap α}, mapRises m = true → mapRises (m.filter p) = true
  | [], _ => rfl
  | (k, w) :: t, hm => by
    by_cases hp : p (k, w) = true
    · simp only [List.filter, hp, mapRises]
      exact mapRisesFrom_filter p hm
    · simp only [List.filter, hp]
      exact mapRises_filter p (mapRises_of_from hm)

/-- Deleting an entry keeps the keys rising. -/
theorem mapRises_mapDel (n : Nat) {m : SMap α} (h : mapRises m = true) : mapRises (mapDel m n) = true := mapRises_filter _ h

theorem mapPut_all (p : Nat × α → Bool) (n : Nat) (v : α) (hv : p (n, v) = true) : ∀ {m : SMap α},
    m.all p = true → (mapPut m n v).all p = true
  | [], _ => by simp [hv]
  | (k, w) :: t, hm => by
    simp only [List.all_cons, Bool.and_eq_true] at hm
    unfold mapPut
    split
    · simp only [List.all_cons, Bool.and_eq_true]; exact ⟨hv, hm⟩
    · split
      · simp only [List.all_cons, Bool.and_eq_true]; exact ⟨hv, hm.2⟩
      · simp only [List.all_cons, Bool.and_eq_true]; exact ⟨hm.1, mapPut_all p n v hv hm.2⟩

variable [DecidableEq α]

/-- Entries filtered from a map in canonical form leave a map in canonical form. -/
theorem mapWf_filter (d : α) (p : Nat × α → Bool) {m : SMap α} (h : mapWf d m = true) : mapWf d (m.filter p) = true := by
  simp only [mapWf, Bool.and_eq_true] at h ⊢
  refine ⟨mapRises_filter p h.1, ?_⟩
  rw [List.all_eq_true] at h ⊢
  intro x hx
  exact h.2 x (List.mem_filter.mp hx).1

/-- A write keeps the canonical form. -/
theorem mapWf_mapSet (d : α) (n : Nat) (v : α) {m : SMap α} (h : mapWf d m = true) : mapWf d (mapSet d m n v) = true := by
  unfold mapSet
  split
  · exact mapWf_filter d _ h
  · next e =>
    simp only [mapWf, Bool.and_eq_true] at h ⊢
    exact ⟨mapRises_mapPut n v h.1, mapPut_all _ n v (by simp [e]) h.2⟩

/-- A memory write keeps the memory's canonical form. -/
theorem memory_wf_mapSet (n : Nat) (v : Byte) {m : SMap Byte} (h : Memory.wf m = true) : Memory.wf (mapSet 0 m n v) = true :=
  mapWf_mapSet 0 n v h

/-- Clearing a range keeps the memory's canonical form. -/
theorem memory_wf_mapClear (lo hi : Nat) {m : SMap Byte} (h : Memory.wf m = true) : Memory.wf (mapClear m lo hi) = true :=
  mapWf_filter 0 _ h

end Sys2Proof.Machine
end

