-- ==== Sys2Proof/Laws/State.lean ====
section
/-! SUPPORT. What each update of the state leaves: one lemma for each update and field, so that no proof unfolds a record
update; and what a register, a field, a core or a context reads after one. -/

namespace Sys2Proof.Machine

@[simp] theorem rset_pending (r : Reg) (i j : Nat) (v : Word) (s : State) : (rset r i j v s).pending = s.pending := rfl
@[simp] theorem rset_once (r : Reg) (i j : Nat) (v : Word) (s : State) : (rset r i j v s).once = s.once := rfl
@[simp] theorem rset_free (r : Reg) (i j : Nat) (v : Word) (s : State) : (rset r i j v s).free = s.free := rfl
@[simp] theorem rset_busData (r : Reg) (i j : Nat) (v : Word) (s : State) : (rset r i j v s).busData = s.busData := rfl
@[simp] theorem rset_aer (r : Reg) (i j : Nat) (v : Word) (s : State) : (rset r i j v s).aer = s.aer := rfl
@[simp] theorem rset_msix (r : Reg) (i j : Nat) (v : Word) (s : State) : (rset r i j v s).msix = s.msix := rfl
@[simp] theorem rset_seqs (r : Reg) (i j : Nat) (v : Word) (s : State) : (rset r i j v s).seqs = s.seqs := rfl
@[simp] theorem rset_host (r : Reg) (i j : Nat) (v : Word) (s : State) : (rset r i j v s).host = s.host := rfl
@[simp] theorem rset_hostPoison (r : Reg) (i j : Nat) (v : Word) (s : State) : (rset r i j v s).hostPoison = s.hostPoison := rfl
@[simp] theorem rset_mem (r : Reg) (i j : Nat) (v : Word) (s : State) : (rset r i j v s).mem = s.mem := rfl
@[simp] theorem rset_memPoison (r : Reg) (i j : Nat) (v : Word) (s : State) : (rset r i j v s).memPoison = s.memPoison := rfl
@[simp] theorem rset_events (r : Reg) (i j : Nat) (v : Word) (s : State) : (rset r i j v s).events = s.events := rfl
@[simp] theorem rset_logBuf (r : Reg) (i j : Nat) (v : Word) (s : State) : (rset r i j v s).logBuf = s.logBuf := rfl
@[simp] theorem rset_wear (r : Reg) (i j : Nat) (v : Word) (s : State) : (rset r i j v s).wear = s.wear := rfl
@[simp] theorem rset_wearFullSent (r : Reg) (i j : Nat) (v : Word) (s : State) : (rset r i j v s).wearFullSent = s.wearFullSent := rfl
@[simp] theorem rset_cores (r : Reg) (i j : Nat) (v : Word) (s : State) : (rset r i j v s).cores = s.cores := rfl
@[simp] theorem rset_tokHeld (r : Reg) (i j : Nat) (v : Word) (s : State) : (rset r i j v s).tokHeld = s.tokHeld := rfl
@[simp] theorem rset_xfifos (r : Reg) (i j : Nat) (v : Word) (s : State) : (rset r i j v s).xfifos = s.xfifos := rfl
@[simp] theorem rset_seats (r : Reg) (i j : Nat) (v : Word) (s : State) : (rset r i j v s).seats = s.seats := rfl
@[simp] theorem rset_ctxs (r : Reg) (i j : Nat) (v : Word) (s : State) : (rset r i j v s).ctxs = s.ctxs := rfl
@[simp] theorem rset_stowed (r : Reg) (i j : Nat) (v : Word) (s : State) : (rset r i j v s).stowed = s.stowed := rfl
@[simp] theorem rset_saves (r : Reg) (i j : Nat) (v : Word) (s : State) : (rset r i j v s).saves = s.saves := rfl
@[simp] theorem rset_cellars (r : Reg) (i j : Nat) (v : Word) (s : State) : (rset r i j v s).cellars = s.cellars := rfl
@[simp] theorem rset_held (r : Reg) (i j : Nat) (v : Word) (s : State) : (rset r i j v s).held = s.held := rfl
@[simp] theorem rset_ucode (r : Reg) (i j : Nat) (v : Word) (s : State) : (rset r i j v s).ucode = s.ucode := rfl
@[simp] theorem rset_solvers (r : Reg) (i j : Nat) (v : Word) (s : State) : (rset r i j v s).solvers = s.solvers := rfl
@[simp] theorem rset_ports (r : Reg) (i j : Nat) (v : Word) (s : State) : (rset r i j v s).ports = s.ports := rfl
@[simp] theorem rset_flowsTx (r : Reg) (i j : Nat) (v : Word) (s : State) : (rset r i j v s).flowsTx = s.flowsTx := rfl
@[simp] theorem rset_flowsRx (r : Reg) (i j : Nat) (v : Word) (s : State) : (rset r i j v s).flowsRx = s.flowsRx := rfl
@[simp] theorem rset_flowWait (r : Reg) (i j : Nat) (v : Word) (s : State) : (rset r i j v s).flowWait = s.flowWait := rfl
@[simp] theorem rset_deliver (r : Reg) (i j : Nat) (v : Word) (s : State) : (rset r i j v s).deliver = s.deliver := rfl
@[simp] theorem rset_msgOut (r : Reg) (i j : Nat) (v : Word) (s : State) : (rset r i j v s).msgOut = s.msgOut := rfl
@[simp] theorem rset_msgIn (r : Reg) (i j : Nat) (v : Word) (s : State) : (rset r i j v s).msgIn = s.msgIn := rfl
@[simp] theorem rset_msgNext (r : Reg) (i j : Nat) (v : Word) (s : State) : (rset r i j v s).msgNext = s.msgNext := rfl
@[simp] theorem rset_cctxs (r : Reg) (i j : Nat) (v : Word) (s : State) : (rset r i j v s).cctxs = s.cctxs := rfl
@[simp] theorem rset_colls (r : Reg) (i j : Nat) (v : Word) (s : State) : (rset r i j v s).colls = s.colls := rfl
@[simp] theorem rset_collsDone (r : Reg) (i j : Nat) (v : Word) (s : State) : (rset r i j v s).collsDone = s.collsDone := rfl
@[simp] theorem rset_slowRun (r : Reg) (i j : Nat) (v : Word) (s : State) : (rset r i j v s).slowRun = s.slowRun := rfl
@[simp] theorem rset_slowIn (r : Reg) (i j : Nat) (v : Word) (s : State) : (rset r i j v s).slowIn = s.slowIn := rfl
@[simp] theorem rset_banks (r : Reg) (i j : Nat) (v : Word) (s : State) : (rset r i j v s).banks = s.banks := rfl
@[simp] theorem rset_bankDue (r : Reg) (i j : Nat) (v : Word) (s : State) : (rset r i j v s).bankDue = s.bankDue := rfl
@[simp] theorem rset_buddyGot (r : Reg) (i j : Nat) (v : Word) (s : State) : (rset r i j v s).buddyGot = s.buddyGot := rfl
@[simp] theorem rset_mgmt (r : Reg) (i j : Nat) (v : Word) (s : State) : (rset r i j v s).mgmt = s.mgmt := rfl
@[simp] theorem rset_time (r : Reg) (i j : Nat) (v : Word) (s : State) : (rset r i j v s).time = s.time := rfl
@[simp] theorem rset_plat (r : Reg) (i j : Nat) (v : Word) (s : State) : (rset r i j v s).plat = s.plat := rfl

@[simp] theorem fset_pending (f : Fld) (i j v : Nat) (s : State) : (fset f i j v s).pending = s.pending := rfl
@[simp] theorem fset_once (f : Fld) (i j v : Nat) (s : State) : (fset f i j v s).once = s.once := rfl
@[simp] theorem fset_free (f : Fld) (i j v : Nat) (s : State) : (fset f i j v s).free = s.free := rfl
@[simp] theorem fset_busData (f : Fld) (i j v : Nat) (s : State) : (fset f i j v s).busData = s.busData := rfl
@[simp] theorem fset_aer (f : Fld) (i j v : Nat) (s : State) : (fset f i j v s).aer = s.aer := rfl
@[simp] theorem fset_msix (f : Fld) (i j v : Nat) (s : State) : (fset f i j v s).msix = s.msix := rfl
@[simp] theorem fset_seqs (f : Fld) (i j v : Nat) (s : State) : (fset f i j v s).seqs = s.seqs := rfl
@[simp] theorem fset_host (f : Fld) (i j v : Nat) (s : State) : (fset f i j v s).host = s.host := rfl
@[simp] theorem fset_hostPoison (f : Fld) (i j v : Nat) (s : State) : (fset f i j v s).hostPoison = s.hostPoison := rfl
@[simp] theorem fset_mem (f : Fld) (i j v : Nat) (s : State) : (fset f i j v s).mem = s.mem := rfl
@[simp] theorem fset_memPoison (f : Fld) (i j v : Nat) (s : State) : (fset f i j v s).memPoison = s.memPoison := rfl
@[simp] theorem fset_events (f : Fld) (i j v : Nat) (s : State) : (fset f i j v s).events = s.events := rfl
@[simp] theorem fset_logBuf (f : Fld) (i j v : Nat) (s : State) : (fset f i j v s).logBuf = s.logBuf := rfl
@[simp] theorem fset_wear (f : Fld) (i j v : Nat) (s : State) : (fset f i j v s).wear = s.wear := rfl
@[simp] theorem fset_wearFullSent (f : Fld) (i j v : Nat) (s : State) : (fset f i j v s).wearFullSent = s.wearFullSent := rfl
@[simp] theorem fset_cores (f : Fld) (i j v : Nat) (s : State) : (fset f i j v s).cores = s.cores := rfl
@[simp] theorem fset_tokHeld (f : Fld) (i j v : Nat) (s : State) : (fset f i j v s).tokHeld = s.tokHeld := rfl
@[simp] theorem fset_xfifos (f : Fld) (i j v : Nat) (s : State) : (fset f i j v s).xfifos = s.xfifos := rfl
@[simp] theorem fset_seats (f : Fld) (i j v : Nat) (s : State) : (fset f i j v s).seats = s.seats := rfl
@[simp] theorem fset_ctxs (f : Fld) (i j v : Nat) (s : State) : (fset f i j v s).ctxs = s.ctxs := rfl
@[simp] theorem fset_stowed (f : Fld) (i j v : Nat) (s : State) : (fset f i j v s).stowed = s.stowed := rfl
@[simp] theorem fset_saves (f : Fld) (i j v : Nat) (s : State) : (fset f i j v s).saves = s.saves := rfl
@[simp] theorem fset_cellars (f : Fld) (i j v : Nat) (s : State) : (fset f i j v s).cellars = s.cellars := rfl
@[simp] theorem fset_held (f : Fld) (i j v : Nat) (s : State) : (fset f i j v s).held = s.held := rfl
@[simp] theorem fset_ucode (f : Fld) (i j v : Nat) (s : State) : (fset f i j v s).ucode = s.ucode := rfl
@[simp] theorem fset_solvers (f : Fld) (i j v : Nat) (s : State) : (fset f i j v s).solvers = s.solvers := rfl
@[simp] theorem fset_ports (f : Fld) (i j v : Nat) (s : State) : (fset f i j v s).ports = s.ports := rfl
@[simp] theorem fset_flowsTx (f : Fld) (i j v : Nat) (s : State) : (fset f i j v s).flowsTx = s.flowsTx := rfl
@[simp] theorem fset_flowsRx (f : Fld) (i j v : Nat) (s : State) : (fset f i j v s).flowsRx = s.flowsRx := rfl
@[simp] theorem fset_flowWait (f : Fld) (i j v : Nat) (s : State) : (fset f i j v s).flowWait = s.flowWait := rfl
@[simp] theorem fset_deliver (f : Fld) (i j v : Nat) (s : State) : (fset f i j v s).deliver = s.deliver := rfl
@[simp] theorem fset_msgOut (f : Fld) (i j v : Nat) (s : State) : (fset f i j v s).msgOut = s.msgOut := rfl
@[simp] theorem fset_msgIn (f : Fld) (i j v : Nat) (s : State) : (fset f i j v s).msgIn = s.msgIn := rfl
@[simp] theorem fset_msgNext (f : Fld) (i j v : Nat) (s : State) : (fset f i j v s).msgNext = s.msgNext := rfl
@[simp] theorem fset_cctxs (f : Fld) (i j v : Nat) (s : State) : (fset f i j v s).cctxs = s.cctxs := rfl
@[simp] theorem fset_colls (f : Fld) (i j v : Nat) (s : State) : (fset f i j v s).colls = s.colls := rfl
@[simp] theorem fset_collsDone (f : Fld) (i j v : Nat) (s : State) : (fset f i j v s).collsDone = s.collsDone := rfl
@[simp] theorem fset_slowRun (f : Fld) (i j v : Nat) (s : State) : (fset f i j v s).slowRun = s.slowRun := rfl
@[simp] theorem fset_slowIn (f : Fld) (i j v : Nat) (s : State) : (fset f i j v s).slowIn = s.slowIn := rfl
@[simp] theorem fset_banks (f : Fld) (i j v : Nat) (s : State) : (fset f i j v s).banks = s.banks := rfl
@[simp] theorem fset_bankDue (f : Fld) (i j v : Nat) (s : State) : (fset f i j v s).bankDue = s.bankDue := rfl
@[simp] theorem fset_buddyGot (f : Fld) (i j v : Nat) (s : State) : (fset f i j v s).buddyGot = s.buddyGot := rfl
@[simp] theorem fset_mgmt (f : Fld) (i j v : Nat) (s : State) : (fset f i j v s).mgmt = s.mgmt := rfl
@[simp] theorem fset_time (f : Fld) (i j v : Nat) (s : State) : (fset f i j v s).time = s.time := rfl
@[simp] theorem fset_plat (f : Fld) (i j v : Nat) (s : State) : (fset f i j v s).plat = s.plat := rfl

@[simp] theorem fbump_pending (f : Fld) (i j : Nat) (s : State) : (fbump f i j s).pending = s.pending := rfl
@[simp] theorem fbump_once (f : Fld) (i j : Nat) (s : State) : (fbump f i j s).once = s.once := rfl
@[simp] theorem fbump_free (f : Fld) (i j : Nat) (s : State) : (fbump f i j s).free = s.free := rfl
@[simp] theorem fbump_busData (f : Fld) (i j : Nat) (s : State) : (fbump f i j s).busData = s.busData := rfl
@[simp] theorem fbump_aer (f : Fld) (i j : Nat) (s : State) : (fbump f i j s).aer = s.aer := rfl
@[simp] theorem fbump_msix (f : Fld) (i j : Nat) (s : State) : (fbump f i j s).msix = s.msix := rfl
@[simp] theorem fbump_seqs (f : Fld) (i j : Nat) (s : State) : (fbump f i j s).seqs = s.seqs := rfl
@[simp] theorem fbump_host (f : Fld) (i j : Nat) (s : State) : (fbump f i j s).host = s.host := rfl
@[simp] theorem fbump_hostPoison (f : Fld) (i j : Nat) (s : State) : (fbump f i j s).hostPoison = s.hostPoison := rfl
@[simp] theorem fbump_mem (f : Fld) (i j : Nat) (s : State) : (fbump f i j s).mem = s.mem := rfl
@[simp] theorem fbump_memPoison (f : Fld) (i j : Nat) (s : State) : (fbump f i j s).memPoison = s.memPoison := rfl
@[simp] theorem fbump_events (f : Fld) (i j : Nat) (s : State) : (fbump f i j s).events = s.events := rfl
@[simp] theorem fbump_logBuf (f : Fld) (i j : Nat) (s : State) : (fbump f i j s).logBuf = s.logBuf := rfl
@[simp] theorem fbump_wear (f : Fld) (i j : Nat) (s : State) : (fbump f i j s).wear = s.wear := rfl
@[simp] theorem fbump_wearFullSent (f : Fld) (i j : Nat) (s : State) : (fbump f i j s).wearFullSent = s.wearFullSent := rfl
@[simp] theorem fbump_cores (f : Fld) (i j : Nat) (s : State) : (fbump f i j s).cores = s.cores := rfl
@[simp] theorem fbump_tokHeld (f : Fld) (i j : Nat) (s : State) : (fbump f i j s).tokHeld = s.tokHeld := rfl
@[simp] theorem fbump_xfifos (f : Fld) (i j : Nat) (s : State) : (fbump f i j s).xfifos = s.xfifos := rfl
@[simp] theorem fbump_seats (f : Fld) (i j : Nat) (s : State) : (fbump f i j s).seats = s.seats := rfl
@[simp] theorem fbump_ctxs (f : Fld) (i j : Nat) (s : State) : (fbump f i j s).ctxs = s.ctxs := rfl
@[simp] theorem fbump_stowed (f : Fld) (i j : Nat) (s : State) : (fbump f i j s).stowed = s.stowed := rfl
@[simp] theorem fbump_saves (f : Fld) (i j : Nat) (s : State) : (fbump f i j s).saves = s.saves := rfl
@[simp] theorem fbump_cellars (f : Fld) (i j : Nat) (s : State) : (fbump f i j s).cellars = s.cellars := rfl
@[simp] theorem fbump_held (f : Fld) (i j : Nat) (s : State) : (fbump f i j s).held = s.held := rfl
@[simp] theorem fbump_ucode (f : Fld) (i j : Nat) (s : State) : (fbump f i j s).ucode = s.ucode := rfl
@[simp] theorem fbump_solvers (f : Fld) (i j : Nat) (s : State) : (fbump f i j s).solvers = s.solvers := rfl
@[simp] theorem fbump_ports (f : Fld) (i j : Nat) (s : State) : (fbump f i j s).ports = s.ports := rfl
@[simp] theorem fbump_flowsTx (f : Fld) (i j : Nat) (s : State) : (fbump f i j s).flowsTx = s.flowsTx := rfl
@[simp] theorem fbump_flowsRx (f : Fld) (i j : Nat) (s : State) : (fbump f i j s).flowsRx = s.flowsRx := rfl
@[simp] theorem fbump_flowWait (f : Fld) (i j : Nat) (s : State) : (fbump f i j s).flowWait = s.flowWait := rfl
@[simp] theorem fbump_deliver (f : Fld) (i j : Nat) (s : State) : (fbump f i j s).deliver = s.deliver := rfl
@[simp] theorem fbump_msgOut (f : Fld) (i j : Nat) (s : State) : (fbump f i j s).msgOut = s.msgOut := rfl
@[simp] theorem fbump_msgIn (f : Fld) (i j : Nat) (s : State) : (fbump f i j s).msgIn = s.msgIn := rfl
@[simp] theorem fbump_msgNext (f : Fld) (i j : Nat) (s : State) : (fbump f i j s).msgNext = s.msgNext := rfl
@[simp] theorem fbump_cctxs (f : Fld) (i j : Nat) (s : State) : (fbump f i j s).cctxs = s.cctxs := rfl
@[simp] theorem fbump_colls (f : Fld) (i j : Nat) (s : State) : (fbump f i j s).colls = s.colls := rfl
@[simp] theorem fbump_collsDone (f : Fld) (i j : Nat) (s : State) : (fbump f i j s).collsDone = s.collsDone := rfl
@[simp] theorem fbump_slowRun (f : Fld) (i j : Nat) (s : State) : (fbump f i j s).slowRun = s.slowRun := rfl
@[simp] theorem fbump_slowIn (f : Fld) (i j : Nat) (s : State) : (fbump f i j s).slowIn = s.slowIn := rfl
@[simp] theorem fbump_banks (f : Fld) (i j : Nat) (s : State) : (fbump f i j s).banks = s.banks := rfl
@[simp] theorem fbump_bankDue (f : Fld) (i j : Nat) (s : State) : (fbump f i j s).bankDue = s.bankDue := rfl
@[simp] theorem fbump_buddyGot (f : Fld) (i j : Nat) (s : State) : (fbump f i j s).buddyGot = s.buddyGot := rfl
@[simp] theorem fbump_mgmt (f : Fld) (i j : Nat) (s : State) : (fbump f i j s).mgmt = s.mgmt := rfl
@[simp] theorem fbump_time (f : Fld) (i j : Nat) (s : State) : (fbump f i j s).time = s.time := rfl
@[simp] theorem fbump_plat (f : Fld) (i j : Nat) (s : State) : (fbump f i j s).plat = s.plat := rfl

@[simp] theorem fbumpBy_pending (f : Fld) (i j n : Nat) (s : State) : (fbumpBy f i j n s).pending = s.pending := rfl
@[simp] theorem fbumpBy_once (f : Fld) (i j n : Nat) (s : State) : (fbumpBy f i j n s).once = s.once := rfl
@[simp] theorem fbumpBy_free (f : Fld) (i j n : Nat) (s : State) : (fbumpBy f i j n s).free = s.free := rfl
@[simp] theorem fbumpBy_busData (f : Fld) (i j n : Nat) (s : State) : (fbumpBy f i j n s).busData = s.busData := rfl
@[simp] theorem fbumpBy_aer (f : Fld) (i j n : Nat) (s : State) : (fbumpBy f i j n s).aer = s.aer := rfl
@[simp] theorem fbumpBy_msix (f : Fld) (i j n : Nat) (s : State) : (fbumpBy f i j n s).msix = s.msix := rfl
@[simp] theorem fbumpBy_seqs (f : Fld) (i j n : Nat) (s : State) : (fbumpBy f i j n s).seqs = s.seqs := rfl
@[simp] theorem fbumpBy_host (f : Fld) (i j n : Nat) (s : State) : (fbumpBy f i j n s).host = s.host := rfl
@[simp] theorem fbumpBy_hostPoison (f : Fld) (i j n : Nat) (s : State) : (fbumpBy f i j n s).hostPoison = s.hostPoison := rfl
@[simp] theorem fbumpBy_mem (f : Fld) (i j n : Nat) (s : State) : (fbumpBy f i j n s).mem = s.mem := rfl
@[simp] theorem fbumpBy_memPoison (f : Fld) (i j n : Nat) (s : State) : (fbumpBy f i j n s).memPoison = s.memPoison := rfl
@[simp] theorem fbumpBy_events (f : Fld) (i j n : Nat) (s : State) : (fbumpBy f i j n s).events = s.events := rfl
@[simp] theorem fbumpBy_logBuf (f : Fld) (i j n : Nat) (s : State) : (fbumpBy f i j n s).logBuf = s.logBuf := rfl
@[simp] theorem fbumpBy_wear (f : Fld) (i j n : Nat) (s : State) : (fbumpBy f i j n s).wear = s.wear := rfl
@[simp] theorem fbumpBy_wearFullSent (f : Fld) (i j n : Nat) (s : State) : (fbumpBy f i j n s).wearFullSent = s.wearFullSent := rfl
@[simp] theorem fbumpBy_cores (f : Fld) (i j n : Nat) (s : State) : (fbumpBy f i j n s).cores = s.cores := rfl
@[simp] theorem fbumpBy_tokHeld (f : Fld) (i j n : Nat) (s : State) : (fbumpBy f i j n s).tokHeld = s.tokHeld := rfl
@[simp] theorem fbumpBy_xfifos (f : Fld) (i j n : Nat) (s : State) : (fbumpBy f i j n s).xfifos = s.xfifos := rfl
@[simp] theorem fbumpBy_seats (f : Fld) (i j n : Nat) (s : State) : (fbumpBy f i j n s).seats = s.seats := rfl
@[simp] theorem fbumpBy_ctxs (f : Fld) (i j n : Nat) (s : State) : (fbumpBy f i j n s).ctxs = s.ctxs := rfl
@[simp] theorem fbumpBy_stowed (f : Fld) (i j n : Nat) (s : State) : (fbumpBy f i j n s).stowed = s.stowed := rfl
@[simp] theorem fbumpBy_saves (f : Fld) (i j n : Nat) (s : State) : (fbumpBy f i j n s).saves = s.saves := rfl
@[simp] theorem fbumpBy_cellars (f : Fld) (i j n : Nat) (s : State) : (fbumpBy f i j n s).cellars = s.cellars := rfl
@[simp] theorem fbumpBy_held (f : Fld) (i j n : Nat) (s : State) : (fbumpBy f i j n s).held = s.held := rfl
@[simp] theorem fbumpBy_ucode (f : Fld) (i j n : Nat) (s : State) : (fbumpBy f i j n s).ucode = s.ucode := rfl
@[simp] theorem fbumpBy_solvers (f : Fld) (i j n : Nat) (s : State) : (fbumpBy f i j n s).solvers = s.solvers := rfl
@[simp] theorem fbumpBy_ports (f : Fld) (i j n : Nat) (s : State) : (fbumpBy f i j n s).ports = s.ports := rfl
@[simp] theorem fbumpBy_flowsTx (f : Fld) (i j n : Nat) (s : State) : (fbumpBy f i j n s).flowsTx = s.flowsTx := rfl
@[simp] theorem fbumpBy_flowsRx (f : Fld) (i j n : Nat) (s : State) : (fbumpBy f i j n s).flowsRx = s.flowsRx := rfl
@[simp] theorem fbumpBy_flowWait (f : Fld) (i j n : Nat) (s : State) : (fbumpBy f i j n s).flowWait = s.flowWait := rfl
@[simp] theorem fbumpBy_deliver (f : Fld) (i j n : Nat) (s : State) : (fbumpBy f i j n s).deliver = s.deliver := rfl
@[simp] theorem fbumpBy_msgOut (f : Fld) (i j n : Nat) (s : State) : (fbumpBy f i j n s).msgOut = s.msgOut := rfl
@[simp] theorem fbumpBy_msgIn (f : Fld) (i j n : Nat) (s : State) : (fbumpBy f i j n s).msgIn = s.msgIn := rfl
@[simp] theorem fbumpBy_msgNext (f : Fld) (i j n : Nat) (s : State) : (fbumpBy f i j n s).msgNext = s.msgNext := rfl
@[simp] theorem fbumpBy_cctxs (f : Fld) (i j n : Nat) (s : State) : (fbumpBy f i j n s).cctxs = s.cctxs := rfl
@[simp] theorem fbumpBy_colls (f : Fld) (i j n : Nat) (s : State) : (fbumpBy f i j n s).colls = s.colls := rfl
@[simp] theorem fbumpBy_collsDone (f : Fld) (i j n : Nat) (s : State) : (fbumpBy f i j n s).collsDone = s.collsDone := rfl
@[simp] theorem fbumpBy_slowRun (f : Fld) (i j n : Nat) (s : State) : (fbumpBy f i j n s).slowRun = s.slowRun := rfl
@[simp] theorem fbumpBy_slowIn (f : Fld) (i j n : Nat) (s : State) : (fbumpBy f i j n s).slowIn = s.slowIn := rfl
@[simp] theorem fbumpBy_banks (f : Fld) (i j n : Nat) (s : State) : (fbumpBy f i j n s).banks = s.banks := rfl
@[simp] theorem fbumpBy_bankDue (f : Fld) (i j n : Nat) (s : State) : (fbumpBy f i j n s).bankDue = s.bankDue := rfl
@[simp] theorem fbumpBy_buddyGot (f : Fld) (i j n : Nat) (s : State) : (fbumpBy f i j n s).buddyGot = s.buddyGot := rfl
@[simp] theorem fbumpBy_mgmt (f : Fld) (i j n : Nat) (s : State) : (fbumpBy f i j n s).mgmt = s.mgmt := rfl
@[simp] theorem fbumpBy_time (f : Fld) (i j n : Nat) (s : State) : (fbumpBy f i j n s).time = s.time := rfl
@[simp] theorem fbumpBy_plat (f : Fld) (i j n : Nat) (s : State) : (fbumpBy f i j n s).plat = s.plat := rfl

@[simp] theorem setCore_pending (c : Nat) (k : Core) (s : State) : (setCore c k s).pending = s.pending := rfl
@[simp] theorem setCore_regs (c : Nat) (k : Core) (s : State) : (setCore c k s).regs = s.regs := rfl
@[simp] theorem setCore_once (c : Nat) (k : Core) (s : State) : (setCore c k s).once = s.once := rfl
@[simp] theorem setCore_free (c : Nat) (k : Core) (s : State) : (setCore c k s).free = s.free := rfl
@[simp] theorem setCore_busData (c : Nat) (k : Core) (s : State) : (setCore c k s).busData = s.busData := rfl
@[simp] theorem setCore_aer (c : Nat) (k : Core) (s : State) : (setCore c k s).aer = s.aer := rfl
@[simp] theorem setCore_msix (c : Nat) (k : Core) (s : State) : (setCore c k s).msix = s.msix := rfl
@[simp] theorem setCore_seqs (c : Nat) (k : Core) (s : State) : (setCore c k s).seqs = s.seqs := rfl
@[simp] theorem setCore_host (c : Nat) (k : Core) (s : State) : (setCore c k s).host = s.host := rfl
@[simp] theorem setCore_hostPoison (c : Nat) (k : Core) (s : State) : (setCore c k s).hostPoison = s.hostPoison := rfl
@[simp] theorem setCore_mem (c : Nat) (k : Core) (s : State) : (setCore c k s).mem = s.mem := rfl
@[simp] theorem setCore_memPoison (c : Nat) (k : Core) (s : State) : (setCore c k s).memPoison = s.memPoison := rfl
@[simp] theorem setCore_events (c : Nat) (k : Core) (s : State) : (setCore c k s).events = s.events := rfl
@[simp] theorem setCore_logBuf (c : Nat) (k : Core) (s : State) : (setCore c k s).logBuf = s.logBuf := rfl
@[simp] theorem setCore_wear (c : Nat) (k : Core) (s : State) : (setCore c k s).wear = s.wear := rfl
@[simp] theorem setCore_wearFullSent (c : Nat) (k : Core) (s : State) : (setCore c k s).wearFullSent = s.wearFullSent := rfl
@[simp] theorem setCore_tokHeld (c : Nat) (k : Core) (s : State) : (setCore c k s).tokHeld = s.tokHeld := rfl
@[simp] theorem setCore_xfifos (c : Nat) (k : Core) (s : State) : (setCore c k s).xfifos = s.xfifos := rfl
@[simp] theorem setCore_seats (c : Nat) (k : Core) (s : State) : (setCore c k s).seats = s.seats := rfl
@[simp] theorem setCore_ctxs (c : Nat) (k : Core) (s : State) : (setCore c k s).ctxs = s.ctxs := rfl
@[simp] theorem setCore_stowed (c : Nat) (k : Core) (s : State) : (setCore c k s).stowed = s.stowed := rfl
@[simp] theorem setCore_saves (c : Nat) (k : Core) (s : State) : (setCore c k s).saves = s.saves := rfl
@[simp] theorem setCore_cellars (c : Nat) (k : Core) (s : State) : (setCore c k s).cellars = s.cellars := rfl
@[simp] theorem setCore_held (c : Nat) (k : Core) (s : State) : (setCore c k s).held = s.held := rfl
@[simp] theorem setCore_ucode (c : Nat) (k : Core) (s : State) : (setCore c k s).ucode = s.ucode := rfl
@[simp] theorem setCore_solvers (c : Nat) (k : Core) (s : State) : (setCore c k s).solvers = s.solvers := rfl
@[simp] theorem setCore_ports (c : Nat) (k : Core) (s : State) : (setCore c k s).ports = s.ports := rfl
@[simp] theorem setCore_flowsTx (c : Nat) (k : Core) (s : State) : (setCore c k s).flowsTx = s.flowsTx := rfl
@[simp] theorem setCore_flowsRx (c : Nat) (k : Core) (s : State) : (setCore c k s).flowsRx = s.flowsRx := rfl
@[simp] theorem setCore_flowWait (c : Nat) (k : Core) (s : State) : (setCore c k s).flowWait = s.flowWait := rfl
@[simp] theorem setCore_deliver (c : Nat) (k : Core) (s : State) : (setCore c k s).deliver = s.deliver := rfl
@[simp] theorem setCore_msgOut (c : Nat) (k : Core) (s : State) : (setCore c k s).msgOut = s.msgOut := rfl
@[simp] theorem setCore_msgIn (c : Nat) (k : Core) (s : State) : (setCore c k s).msgIn = s.msgIn := rfl
@[simp] theorem setCore_msgNext (c : Nat) (k : Core) (s : State) : (setCore c k s).msgNext = s.msgNext := rfl
@[simp] theorem setCore_cctxs (c : Nat) (k : Core) (s : State) : (setCore c k s).cctxs = s.cctxs := rfl
@[simp] theorem setCore_colls (c : Nat) (k : Core) (s : State) : (setCore c k s).colls = s.colls := rfl
@[simp] theorem setCore_collsDone (c : Nat) (k : Core) (s : State) : (setCore c k s).collsDone = s.collsDone := rfl
@[simp] theorem setCore_slowRun (c : Nat) (k : Core) (s : State) : (setCore c k s).slowRun = s.slowRun := rfl
@[simp] theorem setCore_slowIn (c : Nat) (k : Core) (s : State) : (setCore c k s).slowIn = s.slowIn := rfl
@[simp] theorem setCore_banks (c : Nat) (k : Core) (s : State) : (setCore c k s).banks = s.banks := rfl
@[simp] theorem setCore_bankDue (c : Nat) (k : Core) (s : State) : (setCore c k s).bankDue = s.bankDue := rfl
@[simp] theorem setCore_buddyGot (c : Nat) (k : Core) (s : State) : (setCore c k s).buddyGot = s.buddyGot := rfl
@[simp] theorem setCore_mgmt (c : Nat) (k : Core) (s : State) : (setCore c k s).mgmt = s.mgmt := rfl
@[simp] theorem setCore_time (c : Nat) (k : Core) (s : State) : (setCore c k s).time = s.time := rfl
@[simp] theorem setCore_plat (c : Nat) (k : Core) (s : State) : (setCore c k s).plat = s.plat := rfl

@[simp] theorem modCore_pending (c : Nat) (f : Core → Core) (s : State) : (modCore c f s).pending = s.pending := rfl
@[simp] theorem modCore_regs (c : Nat) (f : Core → Core) (s : State) : (modCore c f s).regs = s.regs := rfl
@[simp] theorem modCore_once (c : Nat) (f : Core → Core) (s : State) : (modCore c f s).once = s.once := rfl
@[simp] theorem modCore_free (c : Nat) (f : Core → Core) (s : State) : (modCore c f s).free = s.free := rfl
@[simp] theorem modCore_busData (c : Nat) (f : Core → Core) (s : State) : (modCore c f s).busData = s.busData := rfl
@[simp] theorem modCore_aer (c : Nat) (f : Core → Core) (s : State) : (modCore c f s).aer = s.aer := rfl
@[simp] theorem modCore_msix (c : Nat) (f : Core → Core) (s : State) : (modCore c f s).msix = s.msix := rfl
@[simp] theorem modCore_seqs (c : Nat) (f : Core → Core) (s : State) : (modCore c f s).seqs = s.seqs := rfl
@[simp] theorem modCore_host (c : Nat) (f : Core → Core) (s : State) : (modCore c f s).host = s.host := rfl
@[simp] theorem modCore_hostPoison (c : Nat) (f : Core → Core) (s : State) : (modCore c f s).hostPoison = s.hostPoison := rfl
@[simp] theorem modCore_mem (c : Nat) (f : Core → Core) (s : State) : (modCore c f s).mem = s.mem := rfl
@[simp] theorem modCore_memPoison (c : Nat) (f : Core → Core) (s : State) : (modCore c f s).memPoison = s.memPoison := rfl
@[simp] theorem modCore_events (c : Nat) (f : Core → Core) (s : State) : (modCore c f s).events = s.events := rfl
@[simp] theorem modCore_logBuf (c : Nat) (f : Core → Core) (s : State) : (modCore c f s).logBuf = s.logBuf := rfl
@[simp] theorem modCore_wear (c : Nat) (f : Core → Core) (s : State) : (modCore c f s).wear = s.wear := rfl
@[simp] theorem modCore_wearFullSent (c : Nat) (f : Core → Core) (s : State) : (modCore c f s).wearFullSent = s.wearFullSent := rfl
@[simp] theorem modCore_tokHeld (c : Nat) (f : Core → Core) (s : State) : (modCore c f s).tokHeld = s.tokHeld := rfl
@[simp] theorem modCore_xfifos (c : Nat) (f : Core → Core) (s : State) : (modCore c f s).xfifos = s.xfifos := rfl
@[simp] theorem modCore_seats (c : Nat) (f : Core → Core) (s : State) : (modCore c f s).seats = s.seats := rfl
@[simp] theorem modCore_ctxs (c : Nat) (f : Core → Core) (s : State) : (modCore c f s).ctxs = s.ctxs := rfl
@[simp] theorem modCore_stowed (c : Nat) (f : Core → Core) (s : State) : (modCore c f s).stowed = s.stowed := rfl
@[simp] theorem modCore_saves (c : Nat) (f : Core → Core) (s : State) : (modCore c f s).saves = s.saves := rfl
@[simp] theorem modCore_cellars (c : Nat) (f : Core → Core) (s : State) : (modCore c f s).cellars = s.cellars := rfl
@[simp] theorem modCore_held (c : Nat) (f : Core → Core) (s : State) : (modCore c f s).held = s.held := rfl
@[simp] theorem modCore_ucode (c : Nat) (f : Core → Core) (s : State) : (modCore c f s).ucode = s.ucode := rfl
@[simp] theorem modCore_solvers (c : Nat) (f : Core → Core) (s : State) : (modCore c f s).solvers = s.solvers := rfl
@[simp] theorem modCore_ports (c : Nat) (f : Core → Core) (s : State) : (modCore c f s).ports = s.ports := rfl
@[simp] theorem modCore_flowsTx (c : Nat) (f : Core → Core) (s : State) : (modCore c f s).flowsTx = s.flowsTx := rfl
@[simp] theorem modCore_flowsRx (c : Nat) (f : Core → Core) (s : State) : (modCore c f s).flowsRx = s.flowsRx := rfl
@[simp] theorem modCore_flowWait (c : Nat) (f : Core → Core) (s : State) : (modCore c f s).flowWait = s.flowWait := rfl
@[simp] theorem modCore_deliver (c : Nat) (f : Core → Core) (s : State) : (modCore c f s).deliver = s.deliver := rfl
@[simp] theorem modCore_msgOut (c : Nat) (f : Core → Core) (s : State) : (modCore c f s).msgOut = s.msgOut := rfl
@[simp] theorem modCore_msgIn (c : Nat) (f : Core → Core) (s : State) : (modCore c f s).msgIn = s.msgIn := rfl
@[simp] theorem modCore_msgNext (c : Nat) (f : Core → Core) (s : State) : (modCore c f s).msgNext = s.msgNext := rfl
@[simp] theorem modCore_cctxs (c : Nat) (f : Core → Core) (s : State) : (modCore c f s).cctxs = s.cctxs := rfl
@[simp] theorem modCore_colls (c : Nat) (f : Core → Core) (s : State) : (modCore c f s).colls = s.colls := rfl
@[simp] theorem modCore_collsDone (c : Nat) (f : Core → Core) (s : State) : (modCore c f s).collsDone = s.collsDone := rfl
@[simp] theorem modCore_slowRun (c : Nat) (f : Core → Core) (s : State) : (modCore c f s).slowRun = s.slowRun := rfl
@[simp] theorem modCore_slowIn (c : Nat) (f : Core → Core) (s : State) : (modCore c f s).slowIn = s.slowIn := rfl
@[simp] theorem modCore_banks (c : Nat) (f : Core → Core) (s : State) : (modCore c f s).banks = s.banks := rfl
@[simp] theorem modCore_bankDue (c : Nat) (f : Core → Core) (s : State) : (modCore c f s).bankDue = s.bankDue := rfl
@[simp] theorem modCore_buddyGot (c : Nat) (f : Core → Core) (s : State) : (modCore c f s).buddyGot = s.buddyGot := rfl
@[simp] theorem modCore_mgmt (c : Nat) (f : Core → Core) (s : State) : (modCore c f s).mgmt = s.mgmt := rfl
@[simp] theorem modCore_time (c : Nat) (f : Core → Core) (s : State) : (modCore c f s).time = s.time := rfl
@[simp] theorem modCore_plat (c : Nat) (f : Core → Core) (s : State) : (modCore c f s).plat = s.plat := rfl

@[simp] theorem setCtx_pending (k : Nat) (x : Ctx) (s : State) : (setCtx k x s).pending = s.pending := rfl
@[simp] theorem setCtx_regs (k : Nat) (x : Ctx) (s : State) : (setCtx k x s).regs = s.regs := rfl
@[simp] theorem setCtx_once (k : Nat) (x : Ctx) (s : State) : (setCtx k x s).once = s.once := rfl
@[simp] theorem setCtx_free (k : Nat) (x : Ctx) (s : State) : (setCtx k x s).free = s.free := rfl
@[simp] theorem setCtx_busData (k : Nat) (x : Ctx) (s : State) : (setCtx k x s).busData = s.busData := rfl
@[simp] theorem setCtx_aer (k : Nat) (x : Ctx) (s : State) : (setCtx k x s).aer = s.aer := rfl
@[simp] theorem setCtx_msix (k : Nat) (x : Ctx) (s : State) : (setCtx k x s).msix = s.msix := rfl
@[simp] theorem setCtx_seqs (k : Nat) (x : Ctx) (s : State) : (setCtx k x s).seqs = s.seqs := rfl
@[simp] theorem setCtx_host (k : Nat) (x : Ctx) (s : State) : (setCtx k x s).host = s.host := rfl
@[simp] theorem setCtx_hostPoison (k : Nat) (x : Ctx) (s : State) : (setCtx k x s).hostPoison = s.hostPoison := rfl
@[simp] theorem setCtx_mem (k : Nat) (x : Ctx) (s : State) : (setCtx k x s).mem = s.mem := rfl
@[simp] theorem setCtx_memPoison (k : Nat) (x : Ctx) (s : State) : (setCtx k x s).memPoison = s.memPoison := rfl
@[simp] theorem setCtx_events (k : Nat) (x : Ctx) (s : State) : (setCtx k x s).events = s.events := rfl
@[simp] theorem setCtx_logBuf (k : Nat) (x : Ctx) (s : State) : (setCtx k x s).logBuf = s.logBuf := rfl
@[simp] theorem setCtx_wear (k : Nat) (x : Ctx) (s : State) : (setCtx k x s).wear = s.wear := rfl
@[simp] theorem setCtx_wearFullSent (k : Nat) (x : Ctx) (s : State) : (setCtx k x s).wearFullSent = s.wearFullSent := rfl
@[simp] theorem setCtx_cores (k : Nat) (x : Ctx) (s : State) : (setCtx k x s).cores = s.cores := rfl
@[simp] theorem setCtx_tokHeld (k : Nat) (x : Ctx) (s : State) : (setCtx k x s).tokHeld = s.tokHeld := rfl
@[simp] theorem setCtx_xfifos (k : Nat) (x : Ctx) (s : State) : (setCtx k x s).xfifos = s.xfifos := rfl
@[simp] theorem setCtx_seats (k : Nat) (x : Ctx) (s : State) : (setCtx k x s).seats = s.seats := rfl
@[simp] theorem setCtx_stowed (k : Nat) (x : Ctx) (s : State) : (setCtx k x s).stowed = s.stowed := rfl
@[simp] theorem setCtx_saves (k : Nat) (x : Ctx) (s : State) : (setCtx k x s).saves = s.saves := rfl
@[simp] theorem setCtx_cellars (k : Nat) (x : Ctx) (s : State) : (setCtx k x s).cellars = s.cellars := rfl
@[simp] theorem setCtx_held (k : Nat) (x : Ctx) (s : State) : (setCtx k x s).held = s.held := rfl
@[simp] theorem setCtx_ucode (k : Nat) (x : Ctx) (s : State) : (setCtx k x s).ucode = s.ucode := rfl
@[simp] theorem setCtx_solvers (k : Nat) (x : Ctx) (s : State) : (setCtx k x s).solvers = s.solvers := rfl
@[simp] theorem setCtx_ports (k : Nat) (x : Ctx) (s : State) : (setCtx k x s).ports = s.ports := rfl
@[simp] theorem setCtx_flowsTx (k : Nat) (x : Ctx) (s : State) : (setCtx k x s).flowsTx = s.flowsTx := rfl
@[simp] theorem setCtx_flowsRx (k : Nat) (x : Ctx) (s : State) : (setCtx k x s).flowsRx = s.flowsRx := rfl
@[simp] theorem setCtx_flowWait (k : Nat) (x : Ctx) (s : State) : (setCtx k x s).flowWait = s.flowWait := rfl
@[simp] theorem setCtx_deliver (k : Nat) (x : Ctx) (s : State) : (setCtx k x s).deliver = s.deliver := rfl
@[simp] theorem setCtx_msgOut (k : Nat) (x : Ctx) (s : State) : (setCtx k x s).msgOut = s.msgOut := rfl
@[simp] theorem setCtx_msgIn (k : Nat) (x : Ctx) (s : State) : (setCtx k x s).msgIn = s.msgIn := rfl
@[simp] theorem setCtx_msgNext (k : Nat) (x : Ctx) (s : State) : (setCtx k x s).msgNext = s.msgNext := rfl
@[simp] theorem setCtx_cctxs (k : Nat) (x : Ctx) (s : State) : (setCtx k x s).cctxs = s.cctxs := rfl
@[simp] theorem setCtx_colls (k : Nat) (x : Ctx) (s : State) : (setCtx k x s).colls = s.colls := rfl
@[simp] theorem setCtx_collsDone (k : Nat) (x : Ctx) (s : State) : (setCtx k x s).collsDone = s.collsDone := rfl
@[simp] theorem setCtx_slowRun (k : Nat) (x : Ctx) (s : State) : (setCtx k x s).slowRun = s.slowRun := rfl
@[simp] theorem setCtx_slowIn (k : Nat) (x : Ctx) (s : State) : (setCtx k x s).slowIn = s.slowIn := rfl
@[simp] theorem setCtx_banks (k : Nat) (x : Ctx) (s : State) : (setCtx k x s).banks = s.banks := rfl
@[simp] theorem setCtx_bankDue (k : Nat) (x : Ctx) (s : State) : (setCtx k x s).bankDue = s.bankDue := rfl
@[simp] theorem setCtx_buddyGot (k : Nat) (x : Ctx) (s : State) : (setCtx k x s).buddyGot = s.buddyGot := rfl
@[simp] theorem setCtx_mgmt (k : Nat) (x : Ctx) (s : State) : (setCtx k x s).mgmt = s.mgmt := rfl
@[simp] theorem setCtx_time (k : Nat) (x : Ctx) (s : State) : (setCtx k x s).time = s.time := rfl
@[simp] theorem setCtx_plat (k : Nat) (x : Ctx) (s : State) : (setCtx k x s).plat = s.plat := rfl

@[simp] theorem modStack_pending (m : Nat) (f : Stack → Stack) (s : State) : (modStack m f s).pending = s.pending := rfl
@[simp] theorem modStack_regs (m : Nat) (f : Stack → Stack) (s : State) : (modStack m f s).regs = s.regs := rfl
@[simp] theorem modStack_once (m : Nat) (f : Stack → Stack) (s : State) : (modStack m f s).once = s.once := rfl
@[simp] theorem modStack_free (m : Nat) (f : Stack → Stack) (s : State) : (modStack m f s).free = s.free := rfl
@[simp] theorem modStack_busData (m : Nat) (f : Stack → Stack) (s : State) : (modStack m f s).busData = s.busData := rfl
@[simp] theorem modStack_aer (m : Nat) (f : Stack → Stack) (s : State) : (modStack m f s).aer = s.aer := rfl
@[simp] theorem modStack_msix (m : Nat) (f : Stack → Stack) (s : State) : (modStack m f s).msix = s.msix := rfl
@[simp] theorem modStack_seqs (m : Nat) (f : Stack → Stack) (s : State) : (modStack m f s).seqs = s.seqs := rfl
@[simp] theorem modStack_host (m : Nat) (f : Stack → Stack) (s : State) : (modStack m f s).host = s.host := rfl
@[simp] theorem modStack_hostPoison (m : Nat) (f : Stack → Stack) (s : State) : (modStack m f s).hostPoison = s.hostPoison := rfl
@[simp] theorem modStack_mem (m : Nat) (f : Stack → Stack) (s : State) : (modStack m f s).mem = s.mem := rfl
@[simp] theorem modStack_memPoison (m : Nat) (f : Stack → Stack) (s : State) : (modStack m f s).memPoison = s.memPoison := rfl
@[simp] theorem modStack_events (m : Nat) (f : Stack → Stack) (s : State) : (modStack m f s).events = s.events := rfl
@[simp] theorem modStack_logBuf (m : Nat) (f : Stack → Stack) (s : State) : (modStack m f s).logBuf = s.logBuf := rfl
@[simp] theorem modStack_wear (m : Nat) (f : Stack → Stack) (s : State) : (modStack m f s).wear = s.wear := rfl
@[simp] theorem modStack_wearFullSent (m : Nat) (f : Stack → Stack) (s : State) : (modStack m f s).wearFullSent = s.wearFullSent := rfl
@[simp] theorem modStack_cores (m : Nat) (f : Stack → Stack) (s : State) : (modStack m f s).cores = s.cores := rfl
@[simp] theorem modStack_tokHeld (m : Nat) (f : Stack → Stack) (s : State) : (modStack m f s).tokHeld = s.tokHeld := rfl
@[simp] theorem modStack_xfifos (m : Nat) (f : Stack → Stack) (s : State) : (modStack m f s).xfifos = s.xfifos := rfl
@[simp] theorem modStack_seats (m : Nat) (f : Stack → Stack) (s : State) : (modStack m f s).seats = s.seats := rfl
@[simp] theorem modStack_ctxs (m : Nat) (f : Stack → Stack) (s : State) : (modStack m f s).ctxs = s.ctxs := rfl
@[simp] theorem modStack_stowed (m : Nat) (f : Stack → Stack) (s : State) : (modStack m f s).stowed = s.stowed := rfl
@[simp] theorem modStack_saves (m : Nat) (f : Stack → Stack) (s : State) : (modStack m f s).saves = s.saves := rfl
@[simp] theorem modStack_held (m : Nat) (f : Stack → Stack) (s : State) : (modStack m f s).held = s.held := rfl
@[simp] theorem modStack_ucode (m : Nat) (f : Stack → Stack) (s : State) : (modStack m f s).ucode = s.ucode := rfl
@[simp] theorem modStack_solvers (m : Nat) (f : Stack → Stack) (s : State) : (modStack m f s).solvers = s.solvers := rfl
@[simp] theorem modStack_ports (m : Nat) (f : Stack → Stack) (s : State) : (modStack m f s).ports = s.ports := rfl
@[simp] theorem modStack_flowsTx (m : Nat) (f : Stack → Stack) (s : State) : (modStack m f s).flowsTx = s.flowsTx := rfl
@[simp] theorem modStack_flowsRx (m : Nat) (f : Stack → Stack) (s : State) : (modStack m f s).flowsRx = s.flowsRx := rfl
@[simp] theorem modStack_flowWait (m : Nat) (f : Stack → Stack) (s : State) : (modStack m f s).flowWait = s.flowWait := rfl
@[simp] theorem modStack_deliver (m : Nat) (f : Stack → Stack) (s : State) : (modStack m f s).deliver = s.deliver := rfl
@[simp] theorem modStack_msgOut (m : Nat) (f : Stack → Stack) (s : State) : (modStack m f s).msgOut = s.msgOut := rfl
@[simp] theorem modStack_msgIn (m : Nat) (f : Stack → Stack) (s : State) : (modStack m f s).msgIn = s.msgIn := rfl
@[simp] theorem modStack_msgNext (m : Nat) (f : Stack → Stack) (s : State) : (modStack m f s).msgNext = s.msgNext := rfl
@[simp] theorem modStack_cctxs (m : Nat) (f : Stack → Stack) (s : State) : (modStack m f s).cctxs = s.cctxs := rfl
@[simp] theorem modStack_colls (m : Nat) (f : Stack → Stack) (s : State) : (modStack m f s).colls = s.colls := rfl
@[simp] theorem modStack_collsDone (m : Nat) (f : Stack → Stack) (s : State) : (modStack m f s).collsDone = s.collsDone := rfl
@[simp] theorem modStack_slowRun (m : Nat) (f : Stack → Stack) (s : State) : (modStack m f s).slowRun = s.slowRun := rfl
@[simp] theorem modStack_slowIn (m : Nat) (f : Stack → Stack) (s : State) : (modStack m f s).slowIn = s.slowIn := rfl
@[simp] theorem modStack_banks (m : Nat) (f : Stack → Stack) (s : State) : (modStack m f s).banks = s.banks := rfl
@[simp] theorem modStack_bankDue (m : Nat) (f : Stack → Stack) (s : State) : (modStack m f s).bankDue = s.bankDue := rfl
@[simp] theorem modStack_buddyGot (m : Nat) (f : Stack → Stack) (s : State) : (modStack m f s).buddyGot = s.buddyGot := rfl
@[simp] theorem modStack_mgmt (m : Nat) (f : Stack → Stack) (s : State) : (modStack m f s).mgmt = s.mgmt := rfl
@[simp] theorem modStack_time (m : Nat) (f : Stack → Stack) (s : State) : (modStack m f s).time = s.time := rfl
@[simp] theorem modStack_plat (m : Nat) (f : Stack → Stack) (s : State) : (modStack m f s).plat = s.plat := rfl

@[simp] theorem modPort_pending (p : Nat) (f : Port → Port) (s : State) : (modPort p f s).pending = s.pending := rfl
@[simp] theorem modPort_regs (p : Nat) (f : Port → Port) (s : State) : (modPort p f s).regs = s.regs := rfl
@[simp] theorem modPort_once (p : Nat) (f : Port → Port) (s : State) : (modPort p f s).once = s.once := rfl
@[simp] theorem modPort_free (p : Nat) (f : Port → Port) (s : State) : (modPort p f s).free = s.free := rfl
@[simp] theorem modPort_busData (p : Nat) (f : Port → Port) (s : State) : (modPort p f s).busData = s.busData := rfl
@[simp] theorem modPort_aer (p : Nat) (f : Port → Port) (s : State) : (modPort p f s).aer = s.aer := rfl
@[simp] theorem modPort_msix (p : Nat) (f : Port → Port) (s : State) : (modPort p f s).msix = s.msix := rfl
@[simp] theorem modPort_seqs (p : Nat) (f : Port → Port) (s : State) : (modPort p f s).seqs = s.seqs := rfl
@[simp] theorem modPort_host (p : Nat) (f : Port → Port) (s : State) : (modPort p f s).host = s.host := rfl
@[simp] theorem modPort_hostPoison (p : Nat) (f : Port → Port) (s : State) : (modPort p f s).hostPoison = s.hostPoison := rfl
@[simp] theorem modPort_mem (p : Nat) (f : Port → Port) (s : State) : (modPort p f s).mem = s.mem := rfl
@[simp] theorem modPort_memPoison (p : Nat) (f : Port → Port) (s : State) : (modPort p f s).memPoison = s.memPoison := rfl
@[simp] theorem modPort_events (p : Nat) (f : Port → Port) (s : State) : (modPort p f s).events = s.events := rfl
@[simp] theorem modPort_logBuf (p : Nat) (f : Port → Port) (s : State) : (modPort p f s).logBuf = s.logBuf := rfl
@[simp] theorem modPort_wear (p : Nat) (f : Port → Port) (s : State) : (modPort p f s).wear = s.wear := rfl
@[simp] theorem modPort_wearFullSent (p : Nat) (f : Port → Port) (s : State) : (modPort p f s).wearFullSent = s.wearFullSent := rfl
@[simp] theorem modPort_cores (p : Nat) (f : Port → Port) (s : State) : (modPort p f s).cores = s.cores := rfl
@[simp] theorem modPort_tokHeld (p : Nat) (f : Port → Port) (s : State) : (modPort p f s).tokHeld = s.tokHeld := rfl
@[simp] theorem modPort_xfifos (p : Nat) (f : Port → Port) (s : State) : (modPort p f s).xfifos = s.xfifos := rfl
@[simp] theorem modPort_seats (p : Nat) (f : Port → Port) (s : State) : (modPort p f s).seats = s.seats := rfl
@[simp] theorem modPort_ctxs (p : Nat) (f : Port → Port) (s : State) : (modPort p f s).ctxs = s.ctxs := rfl
@[simp] theorem modPort_stowed (p : Nat) (f : Port → Port) (s : State) : (modPort p f s).stowed = s.stowed := rfl
@[simp] theorem modPort_saves (p : Nat) (f : Port → Port) (s : State) : (modPort p f s).saves = s.saves := rfl
@[simp] theorem modPort_cellars (p : Nat) (f : Port → Port) (s : State) : (modPort p f s).cellars = s.cellars := rfl
@[simp] theorem modPort_held (p : Nat) (f : Port → Port) (s : State) : (modPort p f s).held = s.held := rfl
@[simp] theorem modPort_ucode (p : Nat) (f : Port → Port) (s : State) : (modPort p f s).ucode = s.ucode := rfl
@[simp] theorem modPort_solvers (p : Nat) (f : Port → Port) (s : State) : (modPort p f s).solvers = s.solvers := rfl
@[simp] theorem modPort_flowsTx (p : Nat) (f : Port → Port) (s : State) : (modPort p f s).flowsTx = s.flowsTx := rfl
@[simp] theorem modPort_flowsRx (p : Nat) (f : Port → Port) (s : State) : (modPort p f s).flowsRx = s.flowsRx := rfl
@[simp] theorem modPort_flowWait (p : Nat) (f : Port → Port) (s : State) : (modPort p f s).flowWait = s.flowWait := rfl
@[simp] theorem modPort_deliver (p : Nat) (f : Port → Port) (s : State) : (modPort p f s).deliver = s.deliver := rfl
@[simp] theorem modPort_msgOut (p : Nat) (f : Port → Port) (s : State) : (modPort p f s).msgOut = s.msgOut := rfl
@[simp] theorem modPort_msgIn (p : Nat) (f : Port → Port) (s : State) : (modPort p f s).msgIn = s.msgIn := rfl
@[simp] theorem modPort_msgNext (p : Nat) (f : Port → Port) (s : State) : (modPort p f s).msgNext = s.msgNext := rfl
@[simp] theorem modPort_cctxs (p : Nat) (f : Port → Port) (s : State) : (modPort p f s).cctxs = s.cctxs := rfl
@[simp] theorem modPort_colls (p : Nat) (f : Port → Port) (s : State) : (modPort p f s).colls = s.colls := rfl
@[simp] theorem modPort_collsDone (p : Nat) (f : Port → Port) (s : State) : (modPort p f s).collsDone = s.collsDone := rfl
@[simp] theorem modPort_slowRun (p : Nat) (f : Port → Port) (s : State) : (modPort p f s).slowRun = s.slowRun := rfl
@[simp] theorem modPort_slowIn (p : Nat) (f : Port → Port) (s : State) : (modPort p f s).slowIn = s.slowIn := rfl
@[simp] theorem modPort_banks (p : Nat) (f : Port → Port) (s : State) : (modPort p f s).banks = s.banks := rfl
@[simp] theorem modPort_bankDue (p : Nat) (f : Port → Port) (s : State) : (modPort p f s).bankDue = s.bankDue := rfl
@[simp] theorem modPort_buddyGot (p : Nat) (f : Port → Port) (s : State) : (modPort p f s).buddyGot = s.buddyGot := rfl
@[simp] theorem modPort_mgmt (p : Nat) (f : Port → Port) (s : State) : (modPort p f s).mgmt = s.mgmt := rfl
@[simp] theorem modPort_time (p : Nat) (f : Port → Port) (s : State) : (modPort p f s).time = s.time := rfl
@[simp] theorem modPort_plat (p : Nat) (f : Port → Port) (s : State) : (modPort p f s).plat = s.plat := rfl

@[simp] theorem modSolver_pending (d : Nat) (f : Solver → Solver) (s : State) : (modSolver d f s).pending = s.pending := rfl
@[simp] theorem modSolver_regs (d : Nat) (f : Solver → Solver) (s : State) : (modSolver d f s).regs = s.regs := rfl
@[simp] theorem modSolver_once (d : Nat) (f : Solver → Solver) (s : State) : (modSolver d f s).once = s.once := rfl
@[simp] theorem modSolver_free (d : Nat) (f : Solver → Solver) (s : State) : (modSolver d f s).free = s.free := rfl
@[simp] theorem modSolver_busData (d : Nat) (f : Solver → Solver) (s : State) : (modSolver d f s).busData = s.busData := rfl
@[simp] theorem modSolver_aer (d : Nat) (f : Solver → Solver) (s : State) : (modSolver d f s).aer = s.aer := rfl
@[simp] theorem modSolver_msix (d : Nat) (f : Solver → Solver) (s : State) : (modSolver d f s).msix = s.msix := rfl
@[simp] theorem modSolver_seqs (d : Nat) (f : Solver → Solver) (s : State) : (modSolver d f s).seqs = s.seqs := rfl
@[simp] theorem modSolver_host (d : Nat) (f : Solver → Solver) (s : State) : (modSolver d f s).host = s.host := rfl
@[simp] theorem modSolver_hostPoison (d : Nat) (f : Solver → Solver) (s : State) : (modSolver d f s).hostPoison = s.hostPoison := rfl
@[simp] theorem modSolver_mem (d : Nat) (f : Solver → Solver) (s : State) : (modSolver d f s).mem = s.mem := rfl
@[simp] theorem modSolver_memPoison (d : Nat) (f : Solver → Solver) (s : State) : (modSolver d f s).memPoison = s.memPoison := rfl
@[simp] theorem modSolver_events (d : Nat) (f : Solver → Solver) (s : State) : (modSolver d f s).events = s.events := rfl
@[simp] theorem modSolver_logBuf (d : Nat) (f : Solver → Solver) (s : State) : (modSolver d f s).logBuf = s.logBuf := rfl
@[simp] theorem modSolver_wear (d : Nat) (f : Solver → Solver) (s : State) : (modSolver d f s).wear = s.wear := rfl
@[simp] theorem modSolver_wearFullSent (d : Nat) (f : Solver → Solver) (s : State) : (modSolver d f s).wearFullSent = s.wearFullSent := rfl
@[simp] theorem modSolver_cores (d : Nat) (f : Solver → Solver) (s : State) : (modSolver d f s).cores = s.cores := rfl
@[simp] theorem modSolver_tokHeld (d : Nat) (f : Solver → Solver) (s : State) : (modSolver d f s).tokHeld = s.tokHeld := rfl
@[simp] theorem modSolver_xfifos (d : Nat) (f : Solver → Solver) (s : State) : (modSolver d f s).xfifos = s.xfifos := rfl
@[simp] theorem modSolver_seats (d : Nat) (f : Solver → Solver) (s : State) : (modSolver d f s).seats = s.seats := rfl
@[simp] theorem modSolver_ctxs (d : Nat) (f : Solver → Solver) (s : State) : (modSolver d f s).ctxs = s.ctxs := rfl
@[simp] theorem modSolver_stowed (d : Nat) (f : Solver → Solver) (s : State) : (modSolver d f s).stowed = s.stowed := rfl
@[simp] theorem modSolver_saves (d : Nat) (f : Solver → Solver) (s : State) : (modSolver d f s).saves = s.saves := rfl
@[simp] theorem modSolver_cellars (d : Nat) (f : Solver → Solver) (s : State) : (modSolver d f s).cellars = s.cellars := rfl
@[simp] theorem modSolver_held (d : Nat) (f : Solver → Solver) (s : State) : (modSolver d f s).held = s.held := rfl
@[simp] theorem modSolver_ucode (d : Nat) (f : Solver → Solver) (s : State) : (modSolver d f s).ucode = s.ucode := rfl
@[simp] theorem modSolver_ports (d : Nat) (f : Solver → Solver) (s : State) : (modSolver d f s).ports = s.ports := rfl
@[simp] theorem modSolver_flowsTx (d : Nat) (f : Solver → Solver) (s : State) : (modSolver d f s).flowsTx = s.flowsTx := rfl
@[simp] theorem modSolver_flowsRx (d : Nat) (f : Solver → Solver) (s : State) : (modSolver d f s).flowsRx = s.flowsRx := rfl
@[simp] theorem modSolver_flowWait (d : Nat) (f : Solver → Solver) (s : State) : (modSolver d f s).flowWait = s.flowWait := rfl
@[simp] theorem modSolver_deliver (d : Nat) (f : Solver → Solver) (s : State) : (modSolver d f s).deliver = s.deliver := rfl
@[simp] theorem modSolver_msgOut (d : Nat) (f : Solver → Solver) (s : State) : (modSolver d f s).msgOut = s.msgOut := rfl
@[simp] theorem modSolver_msgIn (d : Nat) (f : Solver → Solver) (s : State) : (modSolver d f s).msgIn = s.msgIn := rfl
@[simp] theorem modSolver_msgNext (d : Nat) (f : Solver → Solver) (s : State) : (modSolver d f s).msgNext = s.msgNext := rfl
@[simp] theorem modSolver_cctxs (d : Nat) (f : Solver → Solver) (s : State) : (modSolver d f s).cctxs = s.cctxs := rfl
@[simp] theorem modSolver_colls (d : Nat) (f : Solver → Solver) (s : State) : (modSolver d f s).colls = s.colls := rfl
@[simp] theorem modSolver_collsDone (d : Nat) (f : Solver → Solver) (s : State) : (modSolver d f s).collsDone = s.collsDone := rfl
@[simp] theorem modSolver_slowRun (d : Nat) (f : Solver → Solver) (s : State) : (modSolver d f s).slowRun = s.slowRun := rfl
@[simp] theorem modSolver_slowIn (d : Nat) (f : Solver → Solver) (s : State) : (modSolver d f s).slowIn = s.slowIn := rfl
@[simp] theorem modSolver_banks (d : Nat) (f : Solver → Solver) (s : State) : (modSolver d f s).banks = s.banks := rfl
@[simp] theorem modSolver_bankDue (d : Nat) (f : Solver → Solver) (s : State) : (modSolver d f s).bankDue = s.bankDue := rfl
@[simp] theorem modSolver_buddyGot (d : Nat) (f : Solver → Solver) (s : State) : (modSolver d f s).buddyGot = s.buddyGot := rfl
@[simp] theorem modSolver_mgmt (d : Nat) (f : Solver → Solver) (s : State) : (modSolver d f s).mgmt = s.mgmt := rfl
@[simp] theorem modSolver_time (d : Nat) (f : Solver → Solver) (s : State) : (modSolver d f s).time = s.time := rfl
@[simp] theorem modSolver_plat (d : Nat) (f : Solver → Solver) (s : State) : (modSolver d f s).plat = s.plat := rfl

@[simp] theorem modMgmt_pending (f : Mgmt → Mgmt) (s : State) : (modMgmt f s).pending = s.pending := rfl
@[simp] theorem modMgmt_regs (f : Mgmt → Mgmt) (s : State) : (modMgmt f s).regs = s.regs := rfl
@[simp] theorem modMgmt_once (f : Mgmt → Mgmt) (s : State) : (modMgmt f s).once = s.once := rfl
@[simp] theorem modMgmt_free (f : Mgmt → Mgmt) (s : State) : (modMgmt f s).free = s.free := rfl
@[simp] theorem modMgmt_busData (f : Mgmt → Mgmt) (s : State) : (modMgmt f s).busData = s.busData := rfl
@[simp] theorem modMgmt_aer (f : Mgmt → Mgmt) (s : State) : (modMgmt f s).aer = s.aer := rfl
@[simp] theorem modMgmt_msix (f : Mgmt → Mgmt) (s : State) : (modMgmt f s).msix = s.msix := rfl
@[simp] theorem modMgmt_seqs (f : Mgmt → Mgmt) (s : State) : (modMgmt f s).seqs = s.seqs := rfl
@[simp] theorem modMgmt_host (f : Mgmt → Mgmt) (s : State) : (modMgmt f s).host = s.host := rfl
@[simp] theorem modMgmt_hostPoison (f : Mgmt → Mgmt) (s : State) : (modMgmt f s).hostPoison = s.hostPoison := rfl
@[simp] theorem modMgmt_mem (f : Mgmt → Mgmt) (s : State) : (modMgmt f s).mem = s.mem := rfl
@[simp] theorem modMgmt_memPoison (f : Mgmt → Mgmt) (s : State) : (modMgmt f s).memPoison = s.memPoison := rfl
@[simp] theorem modMgmt_events (f : Mgmt → Mgmt) (s : State) : (modMgmt f s).events = s.events := rfl
@[simp] theorem modMgmt_logBuf (f : Mgmt → Mgmt) (s : State) : (modMgmt f s).logBuf = s.logBuf := rfl
@[simp] theorem modMgmt_wear (f : Mgmt → Mgmt) (s : State) : (modMgmt f s).wear = s.wear := rfl
@[simp] theorem modMgmt_wearFullSent (f : Mgmt → Mgmt) (s : State) : (modMgmt f s).wearFullSent = s.wearFullSent := rfl
@[simp] theorem modMgmt_cores (f : Mgmt → Mgmt) (s : State) : (modMgmt f s).cores = s.cores := rfl
@[simp] theorem modMgmt_tokHeld (f : Mgmt → Mgmt) (s : State) : (modMgmt f s).tokHeld = s.tokHeld := rfl
@[simp] theorem modMgmt_xfifos (f : Mgmt → Mgmt) (s : State) : (modMgmt f s).xfifos = s.xfifos := rfl
@[simp] theorem modMgmt_seats (f : Mgmt → Mgmt) (s : State) : (modMgmt f s).seats = s.seats := rfl
@[simp] theorem modMgmt_ctxs (f : Mgmt → Mgmt) (s : State) : (modMgmt f s).ctxs = s.ctxs := rfl
@[simp] theorem modMgmt_stowed (f : Mgmt → Mgmt) (s : State) : (modMgmt f s).stowed = s.stowed := rfl
@[simp] theorem modMgmt_saves (f : Mgmt → Mgmt) (s : State) : (modMgmt f s).saves = s.saves := rfl
@[simp] theorem modMgmt_cellars (f : Mgmt → Mgmt) (s : State) : (modMgmt f s).cellars = s.cellars := rfl
@[simp] theorem modMgmt_held (f : Mgmt → Mgmt) (s : State) : (modMgmt f s).held = s.held := rfl
@[simp] theorem modMgmt_ucode (f : Mgmt → Mgmt) (s : State) : (modMgmt f s).ucode = s.ucode := rfl
@[simp] theorem modMgmt_solvers (f : Mgmt → Mgmt) (s : State) : (modMgmt f s).solvers = s.solvers := rfl
@[simp] theorem modMgmt_ports (f : Mgmt → Mgmt) (s : State) : (modMgmt f s).ports = s.ports := rfl
@[simp] theorem modMgmt_flowsTx (f : Mgmt → Mgmt) (s : State) : (modMgmt f s).flowsTx = s.flowsTx := rfl
@[simp] theorem modMgmt_flowsRx (f : Mgmt → Mgmt) (s : State) : (modMgmt f s).flowsRx = s.flowsRx := rfl
@[simp] theorem modMgmt_flowWait (f : Mgmt → Mgmt) (s : State) : (modMgmt f s).flowWait = s.flowWait := rfl
@[simp] theorem modMgmt_deliver (f : Mgmt → Mgmt) (s : State) : (modMgmt f s).deliver = s.deliver := rfl
@[simp] theorem modMgmt_msgOut (f : Mgmt → Mgmt) (s : State) : (modMgmt f s).msgOut = s.msgOut := rfl
@[simp] theorem modMgmt_msgIn (f : Mgmt → Mgmt) (s : State) : (modMgmt f s).msgIn = s.msgIn := rfl
@[simp] theorem modMgmt_msgNext (f : Mgmt → Mgmt) (s : State) : (modMgmt f s).msgNext = s.msgNext := rfl
@[simp] theorem modMgmt_cctxs (f : Mgmt → Mgmt) (s : State) : (modMgmt f s).cctxs = s.cctxs := rfl
@[simp] theorem modMgmt_colls (f : Mgmt → Mgmt) (s : State) : (modMgmt f s).colls = s.colls := rfl
@[simp] theorem modMgmt_collsDone (f : Mgmt → Mgmt) (s : State) : (modMgmt f s).collsDone = s.collsDone := rfl
@[simp] theorem modMgmt_slowRun (f : Mgmt → Mgmt) (s : State) : (modMgmt f s).slowRun = s.slowRun := rfl
@[simp] theorem modMgmt_slowIn (f : Mgmt → Mgmt) (s : State) : (modMgmt f s).slowIn = s.slowIn := rfl
@[simp] theorem modMgmt_banks (f : Mgmt → Mgmt) (s : State) : (modMgmt f s).banks = s.banks := rfl
@[simp] theorem modMgmt_bankDue (f : Mgmt → Mgmt) (s : State) : (modMgmt f s).bankDue = s.bankDue := rfl
@[simp] theorem modMgmt_buddyGot (f : Mgmt → Mgmt) (s : State) : (modMgmt f s).buddyGot = s.buddyGot := rfl
@[simp] theorem modMgmt_time (f : Mgmt → Mgmt) (s : State) : (modMgmt f s).time = s.time := rfl
@[simp] theorem modMgmt_plat (f : Mgmt → Mgmt) (s : State) : (modMgmt f s).plat = s.plat := rfl

@[simp] theorem modTime_pending (f : TimeUnit → TimeUnit) (s : State) : (modTime f s).pending = s.pending := rfl
@[simp] theorem modTime_regs (f : TimeUnit → TimeUnit) (s : State) : (modTime f s).regs = s.regs := rfl
@[simp] theorem modTime_once (f : TimeUnit → TimeUnit) (s : State) : (modTime f s).once = s.once := rfl
@[simp] theorem modTime_free (f : TimeUnit → TimeUnit) (s : State) : (modTime f s).free = s.free := rfl
@[simp] theorem modTime_busData (f : TimeUnit → TimeUnit) (s : State) : (modTime f s).busData = s.busData := rfl
@[simp] theorem modTime_aer (f : TimeUnit → TimeUnit) (s : State) : (modTime f s).aer = s.aer := rfl
@[simp] theorem modTime_msix (f : TimeUnit → TimeUnit) (s : State) : (modTime f s).msix = s.msix := rfl
@[simp] theorem modTime_seqs (f : TimeUnit → TimeUnit) (s : State) : (modTime f s).seqs = s.seqs := rfl
@[simp] theorem modTime_host (f : TimeUnit → TimeUnit) (s : State) : (modTime f s).host = s.host := rfl
@[simp] theorem modTime_hostPoison (f : TimeUnit → TimeUnit) (s : State) : (modTime f s).hostPoison = s.hostPoison := rfl
@[simp] theorem modTime_mem (f : TimeUnit → TimeUnit) (s : State) : (modTime f s).mem = s.mem := rfl
@[simp] theorem modTime_memPoison (f : TimeUnit → TimeUnit) (s : State) : (modTime f s).memPoison = s.memPoison := rfl
@[simp] theorem modTime_events (f : TimeUnit → TimeUnit) (s : State) : (modTime f s).events = s.events := rfl
@[simp] theorem modTime_logBuf (f : TimeUnit → TimeUnit) (s : State) : (modTime f s).logBuf = s.logBuf := rfl
@[simp] theorem modTime_wear (f : TimeUnit → TimeUnit) (s : State) : (modTime f s).wear = s.wear := rfl
@[simp] theorem modTime_wearFullSent (f : TimeUnit → TimeUnit) (s : State) : (modTime f s).wearFullSent = s.wearFullSent := rfl
@[simp] theorem modTime_cores (f : TimeUnit → TimeUnit) (s : State) : (modTime f s).cores = s.cores := rfl
@[simp] theorem modTime_tokHeld (f : TimeUnit → TimeUnit) (s : State) : (modTime f s).tokHeld = s.tokHeld := rfl
@[simp] theorem modTime_xfifos (f : TimeUnit → TimeUnit) (s : State) : (modTime f s).xfifos = s.xfifos := rfl
@[simp] theorem modTime_seats (f : TimeUnit → TimeUnit) (s : State) : (modTime f s).seats = s.seats := rfl
@[simp] theorem modTime_ctxs (f : TimeUnit → TimeUnit) (s : State) : (modTime f s).ctxs = s.ctxs := rfl
@[simp] theorem modTime_stowed (f : TimeUnit → TimeUnit) (s : State) : (modTime f s).stowed = s.stowed := rfl
@[simp] theorem modTime_saves (f : TimeUnit → TimeUnit) (s : State) : (modTime f s).saves = s.saves := rfl
@[simp] theorem modTime_cellars (f : TimeUnit → TimeUnit) (s : State) : (modTime f s).cellars = s.cellars := rfl
@[simp] theorem modTime_held (f : TimeUnit → TimeUnit) (s : State) : (modTime f s).held = s.held := rfl
@[simp] theorem modTime_ucode (f : TimeUnit → TimeUnit) (s : State) : (modTime f s).ucode = s.ucode := rfl
@[simp] theorem modTime_solvers (f : TimeUnit → TimeUnit) (s : State) : (modTime f s).solvers = s.solvers := rfl
@[simp] theorem modTime_ports (f : TimeUnit → TimeUnit) (s : State) : (modTime f s).ports = s.ports := rfl
@[simp] theorem modTime_flowsTx (f : TimeUnit → TimeUnit) (s : State) : (modTime f s).flowsTx = s.flowsTx := rfl
@[simp] theorem modTime_flowsRx (f : TimeUnit → TimeUnit) (s : State) : (modTime f s).flowsRx = s.flowsRx := rfl
@[simp] theorem modTime_flowWait (f : TimeUnit → TimeUnit) (s : State) : (modTime f s).flowWait = s.flowWait := rfl
@[simp] theorem modTime_deliver (f : TimeUnit → TimeUnit) (s : State) : (modTime f s).deliver = s.deliver := rfl
@[simp] theorem modTime_msgOut (f : TimeUnit → TimeUnit) (s : State) : (modTime f s).msgOut = s.msgOut := rfl
@[simp] theorem modTime_msgIn (f : TimeUnit → TimeUnit) (s : State) : (modTime f s).msgIn = s.msgIn := rfl
@[simp] theorem modTime_msgNext (f : TimeUnit → TimeUnit) (s : State) : (modTime f s).msgNext = s.msgNext := rfl
@[simp] theorem modTime_cctxs (f : TimeUnit → TimeUnit) (s : State) : (modTime f s).cctxs = s.cctxs := rfl
@[simp] theorem modTime_colls (f : TimeUnit → TimeUnit) (s : State) : (modTime f s).colls = s.colls := rfl
@[simp] theorem modTime_collsDone (f : TimeUnit → TimeUnit) (s : State) : (modTime f s).collsDone = s.collsDone := rfl
@[simp] theorem modTime_slowRun (f : TimeUnit → TimeUnit) (s : State) : (modTime f s).slowRun = s.slowRun := rfl
@[simp] theorem modTime_slowIn (f : TimeUnit → TimeUnit) (s : State) : (modTime f s).slowIn = s.slowIn := rfl
@[simp] theorem modTime_banks (f : TimeUnit → TimeUnit) (s : State) : (modTime f s).banks = s.banks := rfl
@[simp] theorem modTime_bankDue (f : TimeUnit → TimeUnit) (s : State) : (modTime f s).bankDue = s.bankDue := rfl
@[simp] theorem modTime_buddyGot (f : TimeUnit → TimeUnit) (s : State) : (modTime f s).buddyGot = s.buddyGot := rfl
@[simp] theorem modTime_mgmt (f : TimeUnit → TimeUnit) (s : State) : (modTime f s).mgmt = s.mgmt := rfl
@[simp] theorem modTime_plat (f : TimeUnit → TimeUnit) (s : State) : (modTime f s).plat = s.plat := rfl

@[simp] theorem modPlat_pending (f : Plat → Plat) (s : State) : (modPlat f s).pending = s.pending := rfl
@[simp] theorem modPlat_regs (f : Plat → Plat) (s : State) : (modPlat f s).regs = s.regs := rfl
@[simp] theorem modPlat_once (f : Plat → Plat) (s : State) : (modPlat f s).once = s.once := rfl
@[simp] theorem modPlat_free (f : Plat → Plat) (s : State) : (modPlat f s).free = s.free := rfl
@[simp] theorem modPlat_busData (f : Plat → Plat) (s : State) : (modPlat f s).busData = s.busData := rfl
@[simp] theorem modPlat_aer (f : Plat → Plat) (s : State) : (modPlat f s).aer = s.aer := rfl
@[simp] theorem modPlat_msix (f : Plat → Plat) (s : State) : (modPlat f s).msix = s.msix := rfl
@[simp] theorem modPlat_seqs (f : Plat → Plat) (s : State) : (modPlat f s).seqs = s.seqs := rfl
@[simp] theorem modPlat_host (f : Plat → Plat) (s : State) : (modPlat f s).host = s.host := rfl
@[simp] theorem modPlat_hostPoison (f : Plat → Plat) (s : State) : (modPlat f s).hostPoison = s.hostPoison := rfl
@[simp] theorem modPlat_mem (f : Plat → Plat) (s : State) : (modPlat f s).mem = s.mem := rfl
@[simp] theorem modPlat_memPoison (f : Plat → Plat) (s : State) : (modPlat f s).memPoison = s.memPoison := rfl
@[simp] theorem modPlat_events (f : Plat → Plat) (s : State) : (modPlat f s).events = s.events := rfl
@[simp] theorem modPlat_logBuf (f : Plat → Plat) (s : State) : (modPlat f s).logBuf = s.logBuf := rfl
@[simp] theorem modPlat_wear (f : Plat → Plat) (s : State) : (modPlat f s).wear = s.wear := rfl
@[simp] theorem modPlat_wearFullSent (f : Plat → Plat) (s : State) : (modPlat f s).wearFullSent = s.wearFullSent := rfl
@[simp] theorem modPlat_cores (f : Plat → Plat) (s : State) : (modPlat f s).cores = s.cores := rfl
@[simp] theorem modPlat_tokHeld (f : Plat → Plat) (s : State) : (modPlat f s).tokHeld = s.tokHeld := rfl
@[simp] theorem modPlat_xfifos (f : Plat → Plat) (s : State) : (modPlat f s).xfifos = s.xfifos := rfl
@[simp] theorem modPlat_seats (f : Plat → Plat) (s : State) : (modPlat f s).seats = s.seats := rfl
@[simp] theorem modPlat_ctxs (f : Plat → Plat) (s : State) : (modPlat f s).ctxs = s.ctxs := rfl
@[simp] theorem modPlat_stowed (f : Plat → Plat) (s : State) : (modPlat f s).stowed = s.stowed := rfl
@[simp] theorem modPlat_saves (f : Plat → Plat) (s : State) : (modPlat f s).saves = s.saves := rfl
@[simp] theorem modPlat_cellars (f : Plat → Plat) (s : State) : (modPlat f s).cellars = s.cellars := rfl
@[simp] theorem modPlat_held (f : Plat → Plat) (s : State) : (modPlat f s).held = s.held := rfl
@[simp] theorem modPlat_ucode (f : Plat → Plat) (s : State) : (modPlat f s).ucode = s.ucode := rfl
@[simp] theorem modPlat_solvers (f : Plat → Plat) (s : State) : (modPlat f s).solvers = s.solvers := rfl
@[simp] theorem modPlat_ports (f : Plat → Plat) (s : State) : (modPlat f s).ports = s.ports := rfl
@[simp] theorem modPlat_flowsTx (f : Plat → Plat) (s : State) : (modPlat f s).flowsTx = s.flowsTx := rfl
@[simp] theorem modPlat_flowsRx (f : Plat → Plat) (s : State) : (modPlat f s).flowsRx = s.flowsRx := rfl
@[simp] theorem modPlat_flowWait (f : Plat → Plat) (s : State) : (modPlat f s).flowWait = s.flowWait := rfl
@[simp] theorem modPlat_deliver (f : Plat → Plat) (s : State) : (modPlat f s).deliver = s.deliver := rfl
@[simp] theorem modPlat_msgOut (f : Plat → Plat) (s : State) : (modPlat f s).msgOut = s.msgOut := rfl
@[simp] theorem modPlat_msgIn (f : Plat → Plat) (s : State) : (modPlat f s).msgIn = s.msgIn := rfl
@[simp] theorem modPlat_msgNext (f : Plat → Plat) (s : State) : (modPlat f s).msgNext = s.msgNext := rfl
@[simp] theorem modPlat_cctxs (f : Plat → Plat) (s : State) : (modPlat f s).cctxs = s.cctxs := rfl
@[simp] theorem modPlat_colls (f : Plat → Plat) (s : State) : (modPlat f s).colls = s.colls := rfl
@[simp] theorem modPlat_collsDone (f : Plat → Plat) (s : State) : (modPlat f s).collsDone = s.collsDone := rfl
@[simp] theorem modPlat_slowRun (f : Plat → Plat) (s : State) : (modPlat f s).slowRun = s.slowRun := rfl
@[simp] theorem modPlat_slowIn (f : Plat → Plat) (s : State) : (modPlat f s).slowIn = s.slowIn := rfl
@[simp] theorem modPlat_banks (f : Plat → Plat) (s : State) : (modPlat f s).banks = s.banks := rfl
@[simp] theorem modPlat_bankDue (f : Plat → Plat) (s : State) : (modPlat f s).bankDue = s.bankDue := rfl
@[simp] theorem modPlat_buddyGot (f : Plat → Plat) (s : State) : (modPlat f s).buddyGot = s.buddyGot := rfl
@[simp] theorem modPlat_mgmt (f : Plat → Plat) (s : State) : (modPlat f s).mgmt = s.mgmt := rfl
@[simp] theorem modPlat_time (f : Plat → Plat) (s : State) : (modPlat f s).time = s.time := rfl

@[simp] theorem raiseMsix_pending (f v : Nat) (s : State) : (raiseMsix f v s).pending = s.pending := rfl
@[simp] theorem raiseMsix_regs (f v : Nat) (s : State) : (raiseMsix f v s).regs = s.regs := rfl
@[simp] theorem raiseMsix_once (f v : Nat) (s : State) : (raiseMsix f v s).once = s.once := rfl
@[simp] theorem raiseMsix_free (f v : Nat) (s : State) : (raiseMsix f v s).free = s.free := rfl
@[simp] theorem raiseMsix_busData (f v : Nat) (s : State) : (raiseMsix f v s).busData = s.busData := rfl
@[simp] theorem raiseMsix_aer (f v : Nat) (s : State) : (raiseMsix f v s).aer = s.aer := rfl
@[simp] theorem raiseMsix_seqs (f v : Nat) (s : State) : (raiseMsix f v s).seqs = s.seqs := rfl
@[simp] theorem raiseMsix_host (f v : Nat) (s : State) : (raiseMsix f v s).host = s.host := rfl
@[simp] theorem raiseMsix_hostPoison (f v : Nat) (s : State) : (raiseMsix f v s).hostPoison = s.hostPoison := rfl
@[simp] theorem raiseMsix_mem (f v : Nat) (s : State) : (raiseMsix f v s).mem = s.mem := rfl
@[simp] theorem raiseMsix_memPoison (f v : Nat) (s : State) : (raiseMsix f v s).memPoison = s.memPoison := rfl
@[simp] theorem raiseMsix_events (f v : Nat) (s : State) : (raiseMsix f v s).events = s.events := rfl
@[simp] theorem raiseMsix_logBuf (f v : Nat) (s : State) : (raiseMsix f v s).logBuf = s.logBuf := rfl
@[simp] theorem raiseMsix_wear (f v : Nat) (s : State) : (raiseMsix f v s).wear = s.wear := rfl
@[simp] theorem raiseMsix_wearFullSent (f v : Nat) (s : State) : (raiseMsix f v s).wearFullSent = s.wearFullSent := rfl
@[simp] theorem raiseMsix_cores (f v : Nat) (s : State) : (raiseMsix f v s).cores = s.cores := rfl
@[simp] theorem raiseMsix_tokHeld (f v : Nat) (s : State) : (raiseMsix f v s).tokHeld = s.tokHeld := rfl
@[simp] theorem raiseMsix_xfifos (f v : Nat) (s : State) : (raiseMsix f v s).xfifos = s.xfifos := rfl
@[simp] theorem raiseMsix_seats (f v : Nat) (s : State) : (raiseMsix f v s).seats = s.seats := rfl
@[simp] theorem raiseMsix_ctxs (f v : Nat) (s : State) : (raiseMsix f v s).ctxs = s.ctxs := rfl
@[simp] theorem raiseMsix_stowed (f v : Nat) (s : State) : (raiseMsix f v s).stowed = s.stowed := rfl
@[simp] theorem raiseMsix_saves (f v : Nat) (s : State) : (raiseMsix f v s).saves = s.saves := rfl
@[simp] theorem raiseMsix_cellars (f v : Nat) (s : State) : (raiseMsix f v s).cellars = s.cellars := rfl
@[simp] theorem raiseMsix_held (f v : Nat) (s : State) : (raiseMsix f v s).held = s.held := rfl
@[simp] theorem raiseMsix_ucode (f v : Nat) (s : State) : (raiseMsix f v s).ucode = s.ucode := rfl
@[simp] theorem raiseMsix_solvers (f v : Nat) (s : State) : (raiseMsix f v s).solvers = s.solvers := rfl
@[simp] theorem raiseMsix_ports (f v : Nat) (s : State) : (raiseMsix f v s).ports = s.ports := rfl
@[simp] theorem raiseMsix_flowsTx (f v : Nat) (s : State) : (raiseMsix f v s).flowsTx = s.flowsTx := rfl
@[simp] theorem raiseMsix_flowsRx (f v : Nat) (s : State) : (raiseMsix f v s).flowsRx = s.flowsRx := rfl
@[simp] theorem raiseMsix_flowWait (f v : Nat) (s : State) : (raiseMsix f v s).flowWait = s.flowWait := rfl
@[simp] theorem raiseMsix_deliver (f v : Nat) (s : State) : (raiseMsix f v s).deliver = s.deliver := rfl
@[simp] theorem raiseMsix_msgOut (f v : Nat) (s : State) : (raiseMsix f v s).msgOut = s.msgOut := rfl
@[simp] theorem raiseMsix_msgIn (f v : Nat) (s : State) : (raiseMsix f v s).msgIn = s.msgIn := rfl
@[simp] theorem raiseMsix_msgNext (f v : Nat) (s : State) : (raiseMsix f v s).msgNext = s.msgNext := rfl
@[simp] theorem raiseMsix_cctxs (f v : Nat) (s : State) : (raiseMsix f v s).cctxs = s.cctxs := rfl
@[simp] theorem raiseMsix_colls (f v : Nat) (s : State) : (raiseMsix f v s).colls = s.colls := rfl
@[simp] theorem raiseMsix_collsDone (f v : Nat) (s : State) : (raiseMsix f v s).collsDone = s.collsDone := rfl
@[simp] theorem raiseMsix_slowRun (f v : Nat) (s : State) : (raiseMsix f v s).slowRun = s.slowRun := rfl
@[simp] theorem raiseMsix_slowIn (f v : Nat) (s : State) : (raiseMsix f v s).slowIn = s.slowIn := rfl
@[simp] theorem raiseMsix_banks (f v : Nat) (s : State) : (raiseMsix f v s).banks = s.banks := rfl
@[simp] theorem raiseMsix_bankDue (f v : Nat) (s : State) : (raiseMsix f v s).bankDue = s.bankDue := rfl
@[simp] theorem raiseMsix_buddyGot (f v : Nat) (s : State) : (raiseMsix f v s).buddyGot = s.buddyGot := rfl
@[simp] theorem raiseMsix_mgmt (f v : Nat) (s : State) : (raiseMsix f v s).mgmt = s.mgmt := rfl
@[simp] theorem raiseMsix_time (f v : Nat) (s : State) : (raiseMsix f v s).time = s.time := rfl
@[simp] theorem raiseMsix_plat (f v : Nat) (s : State) : (raiseMsix f v s).plat = s.plat := rfl

@[simp] theorem drawFree_pending (s : State) : (drawFree s).2.pending = s.pending := rfl
@[simp] theorem drawFree_regs (s : State) : (drawFree s).2.regs = s.regs := rfl
@[simp] theorem drawFree_once (s : State) : (drawFree s).2.once = s.once := rfl
@[simp] theorem drawFree_busData (s : State) : (drawFree s).2.busData = s.busData := rfl
@[simp] theorem drawFree_aer (s : State) : (drawFree s).2.aer = s.aer := rfl
@[simp] theorem drawFree_msix (s : State) : (drawFree s).2.msix = s.msix := rfl
@[simp] theorem drawFree_seqs (s : State) : (drawFree s).2.seqs = s.seqs := rfl
@[simp] theorem drawFree_host (s : State) : (drawFree s).2.host = s.host := rfl
@[simp] theorem drawFree_hostPoison (s : State) : (drawFree s).2.hostPoison = s.hostPoison := rfl
@[simp] theorem drawFree_mem (s : State) : (drawFree s).2.mem = s.mem := rfl
@[simp] theorem drawFree_memPoison (s : State) : (drawFree s).2.memPoison = s.memPoison := rfl
@[simp] theorem drawFree_events (s : State) : (drawFree s).2.events = s.events := rfl
@[simp] theorem drawFree_logBuf (s : State) : (drawFree s).2.logBuf = s.logBuf := rfl
@[simp] theorem drawFree_wear (s : State) : (drawFree s).2.wear = s.wear := rfl
@[simp] theorem drawFree_wearFullSent (s : State) : (drawFree s).2.wearFullSent = s.wearFullSent := rfl
@[simp] theorem drawFree_cores (s : State) : (drawFree s).2.cores = s.cores := rfl
@[simp] theorem drawFree_tokHeld (s : State) : (drawFree s).2.tokHeld = s.tokHeld := rfl
@[simp] theorem drawFree_xfifos (s : State) : (drawFree s).2.xfifos = s.xfifos := rfl
@[simp] theorem drawFree_seats (s : State) : (drawFree s).2.seats = s.seats := rfl
@[simp] theorem drawFree_ctxs (s : State) : (drawFree s).2.ctxs = s.ctxs := rfl
@[simp] theorem drawFree_stowed (s : State) : (drawFree s).2.stowed = s.stowed := rfl
@[simp] theorem drawFree_saves (s : State) : (drawFree s).2.saves = s.saves := rfl
@[simp] theorem drawFree_cellars (s : State) : (drawFree s).2.cellars = s.cellars := rfl
@[simp] theorem drawFree_held (s : State) : (drawFree s).2.held = s.held := rfl
@[simp] theorem drawFree_ucode (s : State) : (drawFree s).2.ucode = s.ucode := rfl
@[simp] theorem drawFree_solvers (s : State) : (drawFree s).2.solvers = s.solvers := rfl
@[simp] theorem drawFree_ports (s : State) : (drawFree s).2.ports = s.ports := rfl
@[simp] theorem drawFree_flowsTx (s : State) : (drawFree s).2.flowsTx = s.flowsTx := rfl
@[simp] theorem drawFree_flowsRx (s : State) : (drawFree s).2.flowsRx = s.flowsRx := rfl
@[simp] theorem drawFree_flowWait (s : State) : (drawFree s).2.flowWait = s.flowWait := rfl
@[simp] theorem drawFree_deliver (s : State) : (drawFree s).2.deliver = s.deliver := rfl
@[simp] theorem drawFree_msgOut (s : State) : (drawFree s).2.msgOut = s.msgOut := rfl
@[simp] theorem drawFree_msgIn (s : State) : (drawFree s).2.msgIn = s.msgIn := rfl
@[simp] theorem drawFree_msgNext (s : State) : (drawFree s).2.msgNext = s.msgNext := rfl
@[simp] theorem drawFree_cctxs (s : State) : (drawFree s).2.cctxs = s.cctxs := rfl
@[simp] theorem drawFree_colls (s : State) : (drawFree s).2.colls = s.colls := rfl
@[simp] theorem drawFree_collsDone (s : State) : (drawFree s).2.collsDone = s.collsDone := rfl
@[simp] theorem drawFree_slowRun (s : State) : (drawFree s).2.slowRun = s.slowRun := rfl
@[simp] theorem drawFree_slowIn (s : State) : (drawFree s).2.slowIn = s.slowIn := rfl
@[simp] theorem drawFree_banks (s : State) : (drawFree s).2.banks = s.banks := rfl
@[simp] theorem drawFree_bankDue (s : State) : (drawFree s).2.bankDue = s.bankDue := rfl
@[simp] theorem drawFree_buddyGot (s : State) : (drawFree s).2.buddyGot = s.buddyGot := rfl
@[simp] theorem drawFree_mgmt (s : State) : (drawFree s).2.mgmt = s.mgmt := rfl
@[simp] theorem drawFree_time (s : State) : (drawFree s).2.time = s.time := rfl
@[simp] theorem drawFree_plat (s : State) : (drawFree s).2.plat = s.plat := rfl
@[simp] theorem drawFree_free (s : State) : (drawFree s).2.free = s.free + 1 := rfl

@[simp] theorem modCtx_pending (k : Nat) (f : Ctx → Ctx) (s : State) : (modCtx k f s).pending = s.pending := by
  unfold modCtx; split <;> rfl
@[simp] theorem modCtx_regs (k : Nat) (f : Ctx → Ctx) (s : State) : (modCtx k f s).regs = s.regs := by
  unfold modCtx; split <;> rfl
@[simp] theorem modCtx_once (k : Nat) (f : Ctx → Ctx) (s : State) : (modCtx k f s).once = s.once := by
  unfold modCtx; split <;> rfl
@[simp] theorem modCtx_free (k : Nat) (f : Ctx → Ctx) (s : State) : (modCtx k f s).free = s.free := by
  unfold modCtx; split <;> rfl
@[simp] theorem modCtx_busData (k : Nat) (f : Ctx → Ctx) (s : State) : (modCtx k f s).busData = s.busData := by
  unfold modCtx; split <;> rfl
@[simp] theorem modCtx_aer (k : Nat) (f : Ctx → Ctx) (s : State) : (modCtx k f s).aer = s.aer := by
  unfold modCtx; split <;> rfl
@[simp] theorem modCtx_msix (k : Nat) (f : Ctx → Ctx) (s : State) : (modCtx k f s).msix = s.msix := by
  unfold modCtx; split <;> rfl
@[simp] theorem modCtx_seqs (k : Nat) (f : Ctx → Ctx) (s : State) : (modCtx k f s).seqs = s.seqs := by
  unfold modCtx; split <;> rfl
@[simp] theorem modCtx_host (k : Nat) (f : Ctx → Ctx) (s : State) : (modCtx k f s).host = s.host := by
  unfold modCtx; split <;> rfl
@[simp] theorem modCtx_hostPoison (k : Nat) (f : Ctx → Ctx) (s : State) : (modCtx k f s).hostPoison = s.hostPoison := by
  unfold modCtx; split <;> rfl
@[simp] theorem modCtx_mem (k : Nat) (f : Ctx → Ctx) (s : State) : (modCtx k f s).mem = s.mem := by
  unfold modCtx; split <;> rfl
@[simp] theorem modCtx_memPoison (k : Nat) (f : Ctx → Ctx) (s : State) : (modCtx k f s).memPoison = s.memPoison := by
  unfold modCtx; split <;> rfl
@[simp] theorem modCtx_events (k : Nat) (f : Ctx → Ctx) (s : State) : (modCtx k f s).events = s.events := by
  unfold modCtx; split <;> rfl
@[simp] theorem modCtx_logBuf (k : Nat) (f : Ctx → Ctx) (s : State) : (modCtx k f s).logBuf = s.logBuf := by
  unfold modCtx; split <;> rfl
@[simp] theorem modCtx_wear (k : Nat) (f : Ctx → Ctx) (s : State) : (modCtx k f s).wear = s.wear := by
  unfold modCtx; split <;> rfl
@[simp] theorem modCtx_wearFullSent (k : Nat) (f : Ctx → Ctx) (s : State) : (modCtx k f s).wearFullSent = s.wearFullSent := by
  unfold modCtx; split <;> rfl
@[simp] theorem modCtx_cores (k : Nat) (f : Ctx → Ctx) (s : State) : (modCtx k f s).cores = s.cores := by
  unfold modCtx; split <;> rfl
@[simp] theorem modCtx_tokHeld (k : Nat) (f : Ctx → Ctx) (s : State) : (modCtx k f s).tokHeld = s.tokHeld := by
  unfold modCtx; split <;> rfl
@[simp] theorem modCtx_xfifos (k : Nat) (f : Ctx → Ctx) (s : State) : (modCtx k f s).xfifos = s.xfifos := by
  unfold modCtx; split <;> rfl
@[simp] theorem modCtx_seats (k : Nat) (f : Ctx → Ctx) (s : State) : (modCtx k f s).seats = s.seats := by
  unfold modCtx; split <;> rfl
@[simp] theorem modCtx_stowed (k : Nat) (f : Ctx → Ctx) (s : State) : (modCtx k f s).stowed = s.stowed := by
  unfold modCtx; split <;> rfl
@[simp] theorem modCtx_saves (k : Nat) (f : Ctx → Ctx) (s : State) : (modCtx k f s).saves = s.saves := by
  unfold modCtx; split <;> rfl
@[simp] theorem modCtx_cellars (k : Nat) (f : Ctx → Ctx) (s : State) : (modCtx k f s).cellars = s.cellars := by
  unfold modCtx; split <;> rfl
@[simp] theorem modCtx_held (k : Nat) (f : Ctx → Ctx) (s : State) : (modCtx k f s).held = s.held := by
  unfold modCtx; split <;> rfl
@[simp] theorem modCtx_ucode (k : Nat) (f : Ctx → Ctx) (s : State) : (modCtx k f s).ucode = s.ucode := by
  unfold modCtx; split <;> rfl
@[simp] theorem modCtx_solvers (k : Nat) (f : Ctx → Ctx) (s : State) : (modCtx k f s).solvers = s.solvers := by
  unfold modCtx; split <;> rfl
@[simp] theorem modCtx_ports (k : Nat) (f : Ctx → Ctx) (s : State) : (modCtx k f s).ports = s.ports := by
  unfold modCtx; split <;> rfl
@[simp] theorem modCtx_flowsTx (k : Nat) (f : Ctx → Ctx) (s : State) : (modCtx k f s).flowsTx = s.flowsTx := by
  unfold modCtx; split <;> rfl
@[simp] theorem modCtx_flowsRx (k : Nat) (f : Ctx → Ctx) (s : State) : (modCtx k f s).flowsRx = s.flowsRx := by
  unfold modCtx; split <;> rfl
@[simp] theorem modCtx_flowWait (k : Nat) (f : Ctx → Ctx) (s : State) : (modCtx k f s).flowWait = s.flowWait := by
  unfold modCtx; split <;> rfl
@[simp] theorem modCtx_deliver (k : Nat) (f : Ctx → Ctx) (s : State) : (modCtx k f s).deliver = s.deliver := by
  unfold modCtx; split <;> rfl
@[simp] theorem modCtx_msgOut (k : Nat) (f : Ctx → Ctx) (s : State) : (modCtx k f s).msgOut = s.msgOut := by
  unfold modCtx; split <;> rfl
@[simp] theorem modCtx_msgIn (k : Nat) (f : Ctx → Ctx) (s : State) : (modCtx k f s).msgIn = s.msgIn := by
  unfold modCtx; split <;> rfl
@[simp] theorem modCtx_msgNext (k : Nat) (f : Ctx → Ctx) (s : State) : (modCtx k f s).msgNext = s.msgNext := by
  unfold modCtx; split <;> rfl
@[simp] theorem modCtx_cctxs (k : Nat) (f : Ctx → Ctx) (s : State) : (modCtx k f s).cctxs = s.cctxs := by
  unfold modCtx; split <;> rfl
@[simp] theorem modCtx_colls (k : Nat) (f : Ctx → Ctx) (s : State) : (modCtx k f s).colls = s.colls := by
  unfold modCtx; split <;> rfl
@[simp] theorem modCtx_collsDone (k : Nat) (f : Ctx → Ctx) (s : State) : (modCtx k f s).collsDone = s.collsDone := by
  unfold modCtx; split <;> rfl
@[simp] theorem modCtx_slowRun (k : Nat) (f : Ctx → Ctx) (s : State) : (modCtx k f s).slowRun = s.slowRun := by
  unfold modCtx; split <;> rfl
@[simp] theorem modCtx_slowIn (k : Nat) (f : Ctx → Ctx) (s : State) : (modCtx k f s).slowIn = s.slowIn := by
  unfold modCtx; split <;> rfl
@[simp] theorem modCtx_banks (k : Nat) (f : Ctx → Ctx) (s : State) : (modCtx k f s).banks = s.banks := by
  unfold modCtx; split <;> rfl
@[simp] theorem modCtx_bankDue (k : Nat) (f : Ctx → Ctx) (s : State) : (modCtx k f s).bankDue = s.bankDue := by
  unfold modCtx; split <;> rfl
@[simp] theorem modCtx_buddyGot (k : Nat) (f : Ctx → Ctx) (s : State) : (modCtx k f s).buddyGot = s.buddyGot := by
  unfold modCtx; split <;> rfl
@[simp] theorem modCtx_mgmt (k : Nat) (f : Ctx → Ctx) (s : State) : (modCtx k f s).mgmt = s.mgmt := by
  unfold modCtx; split <;> rfl
@[simp] theorem modCtx_time (k : Nat) (f : Ctx → Ctx) (s : State) : (modCtx k f s).time = s.time := by
  unfold modCtx; split <;> rfl
@[simp] theorem modCtx_plat (k : Nat) (f : Ctx → Ctx) (s : State) : (modCtx k f s).plat = s.plat := by
  unfold modCtx; split <;> rfl

@[simp] theorem logPush_pending (e : LogEntry) (s : State) : (logPush e s).pending = s.pending := rfl
@[simp] theorem logRule_pending (e : LogEntry) (s : State) : (logRule e s).pending = s.pending := by
  unfold logRule; split <;> rfl
@[simp] theorem ruleSet_pending (n : Nat) (g : Fld) (i j v : Nat) (s : State) : (ruleSet n g i j v s).pending = s.pending := by
  unfold ruleSet; simp only []; split <;> simp
@[simp] theorem logPush_once (e : LogEntry) (s : State) : (logPush e s).once = s.once := rfl
@[simp] theorem logRule_once (e : LogEntry) (s : State) : (logRule e s).once = s.once := by
  unfold logRule; split <;> rfl
@[simp] theorem ruleSet_once (n : Nat) (g : Fld) (i j v : Nat) (s : State) : (ruleSet n g i j v s).once = s.once := by
  unfold ruleSet; simp only []; split <;> simp
@[simp] theorem logPush_free (e : LogEntry) (s : State) : (logPush e s).free = s.free := rfl
@[simp] theorem logRule_free (e : LogEntry) (s : State) : (logRule e s).free = s.free := by
  unfold logRule; split <;> rfl
@[simp] theorem ruleSet_free (n : Nat) (g : Fld) (i j v : Nat) (s : State) : (ruleSet n g i j v s).free = s.free := by
  unfold ruleSet; simp only []; split <;> simp
@[simp] theorem logPush_busData (e : LogEntry) (s : State) : (logPush e s).busData = s.busData := rfl
@[simp] theorem logRule_busData (e : LogEntry) (s : State) : (logRule e s).busData = s.busData := by
  unfold logRule; split <;> rfl
@[simp] theorem ruleSet_busData (n : Nat) (g : Fld) (i j v : Nat) (s : State) : (ruleSet n g i j v s).busData = s.busData := by
  unfold ruleSet; simp only []; split <;> simp
@[simp] theorem logPush_aer (e : LogEntry) (s : State) : (logPush e s).aer = s.aer := rfl
@[simp] theorem logRule_aer (e : LogEntry) (s : State) : (logRule e s).aer = s.aer := by
  unfold logRule; split <;> rfl
@[simp] theorem ruleSet_aer (n : Nat) (g : Fld) (i j v : Nat) (s : State) : (ruleSet n g i j v s).aer = s.aer := by
  unfold ruleSet; simp only []; split <;> simp
@[simp] theorem logPush_msix (e : LogEntry) (s : State) : (logPush e s).msix = s.msix := rfl
@[simp] theorem logRule_msix (e : LogEntry) (s : State) : (logRule e s).msix = s.msix := by
  unfold logRule; split <;> rfl
@[simp] theorem ruleSet_msix (n : Nat) (g : Fld) (i j v : Nat) (s : State) : (ruleSet n g i j v s).msix = s.msix := by
  unfold ruleSet; simp only []; split <;> simp
@[simp] theorem logPush_seqs (e : LogEntry) (s : State) : (logPush e s).seqs = s.seqs := rfl
@[simp] theorem logRule_seqs (e : LogEntry) (s : State) : (logRule e s).seqs = s.seqs := by
  unfold logRule; split <;> rfl
@[simp] theorem ruleSet_seqs (n : Nat) (g : Fld) (i j v : Nat) (s : State) : (ruleSet n g i j v s).seqs = s.seqs := by
  unfold ruleSet; simp only []; split <;> simp
@[simp] theorem logPush_host (e : LogEntry) (s : State) : (logPush e s).host = s.host := rfl
@[simp] theorem logRule_host (e : LogEntry) (s : State) : (logRule e s).host = s.host := by
  unfold logRule; split <;> rfl
@[simp] theorem ruleSet_host (n : Nat) (g : Fld) (i j v : Nat) (s : State) : (ruleSet n g i j v s).host = s.host := by
  unfold ruleSet; simp only []; split <;> simp
@[simp] theorem logPush_hostPoison (e : LogEntry) (s : State) : (logPush e s).hostPoison = s.hostPoison := rfl
@[simp] theorem logRule_hostPoison (e : LogEntry) (s : State) : (logRule e s).hostPoison = s.hostPoison := by
  unfold logRule; split <;> rfl
@[simp] theorem ruleSet_hostPoison (n : Nat) (g : Fld) (i j v : Nat) (s : State) : (ruleSet n g i j v s).hostPoison = s.hostPoison := by
  unfold ruleSet; simp only []; split <;> simp
@[simp] theorem logPush_mem (e : LogEntry) (s : State) : (logPush e s).mem = s.mem := rfl
@[simp] theorem logRule_mem (e : LogEntry) (s : State) : (logRule e s).mem = s.mem := by
  unfold logRule; split <;> rfl
@[simp] theorem ruleSet_mem (n : Nat) (g : Fld) (i j v : Nat) (s : State) : (ruleSet n g i j v s).mem = s.mem := by
  unfold ruleSet; simp only []; split <;> simp
@[simp] theorem logPush_memPoison (e : LogEntry) (s : State) : (logPush e s).memPoison = s.memPoison := rfl
@[simp] theorem logRule_memPoison (e : LogEntry) (s : State) : (logRule e s).memPoison = s.memPoison := by
  unfold logRule; split <;> rfl
@[simp] theorem ruleSet_memPoison (n : Nat) (g : Fld) (i j v : Nat) (s : State) : (ruleSet n g i j v s).memPoison = s.memPoison := by
  unfold ruleSet; simp only []; split <;> simp
@[simp] theorem logPush_events (e : LogEntry) (s : State) : (logPush e s).events = s.events := rfl
@[simp] theorem logRule_events (e : LogEntry) (s : State) : (logRule e s).events = s.events := by
  unfold logRule; split <;> rfl
@[simp] theorem ruleSet_events (n : Nat) (g : Fld) (i j v : Nat) (s : State) : (ruleSet n g i j v s).events = s.events := by
  unfold ruleSet; simp only []; split <;> simp
@[simp] theorem logPush_wear (e : LogEntry) (s : State) : (logPush e s).wear = s.wear := rfl
@[simp] theorem logRule_wear (e : LogEntry) (s : State) : (logRule e s).wear = s.wear := by
  unfold logRule; split <;> rfl
@[simp] theorem ruleSet_wear (n : Nat) (g : Fld) (i j v : Nat) (s : State) : (ruleSet n g i j v s).wear = s.wear := by
  unfold ruleSet; simp only []; split <;> simp
@[simp] theorem logPush_wearFullSent (e : LogEntry) (s : State) : (logPush e s).wearFullSent = s.wearFullSent := rfl
@[simp] theorem logRule_wearFullSent (e : LogEntry) (s : State) : (logRule e s).wearFullSent = s.wearFullSent := by
  unfold logRule; split <;> rfl
@[simp] theorem ruleSet_wearFullSent (n : Nat) (g : Fld) (i j v : Nat) (s : State) : (ruleSet n g i j v s).wearFullSent = s.wearFullSent := by
  unfold ruleSet; simp only []; split <;> simp
@[simp] theorem logPush_cores (e : LogEntry) (s : State) : (logPush e s).cores = s.cores := rfl
@[simp] theorem logRule_cores (e : LogEntry) (s : State) : (logRule e s).cores = s.cores := by
  unfold logRule; split <;> rfl
@[simp] theorem ruleSet_cores (n : Nat) (g : Fld) (i j v : Nat) (s : State) : (ruleSet n g i j v s).cores = s.cores := by
  unfold ruleSet; simp only []; split <;> simp
@[simp] theorem logPush_tokHeld (e : LogEntry) (s : State) : (logPush e s).tokHeld = s.tokHeld := rfl
@[simp] theorem logRule_tokHeld (e : LogEntry) (s : State) : (logRule e s).tokHeld = s.tokHeld := by
  unfold logRule; split <;> rfl
@[simp] theorem ruleSet_tokHeld (n : Nat) (g : Fld) (i j v : Nat) (s : State) : (ruleSet n g i j v s).tokHeld = s.tokHeld := by
  unfold ruleSet; simp only []; split <;> simp
@[simp] theorem logPush_xfifos (e : LogEntry) (s : State) : (logPush e s).xfifos = s.xfifos := rfl
@[simp] theorem logRule_xfifos (e : LogEntry) (s : State) : (logRule e s).xfifos = s.xfifos := by
  unfold logRule; split <;> rfl
@[simp] theorem ruleSet_xfifos (n : Nat) (g : Fld) (i j v : Nat) (s : State) : (ruleSet n g i j v s).xfifos = s.xfifos := by
  unfold ruleSet; simp only []; split <;> simp
@[simp] theorem logPush_seats (e : LogEntry) (s : State) : (logPush e s).seats = s.seats := rfl
@[simp] theorem logRule_seats (e : LogEntry) (s : State) : (logRule e s).seats = s.seats := by
  unfold logRule; split <;> rfl
@[simp] theorem ruleSet_seats (n : Nat) (g : Fld) (i j v : Nat) (s : State) : (ruleSet n g i j v s).seats = s.seats := by
  unfold ruleSet; simp only []; split <;> simp
@[simp] theorem logPush_ctxs (e : LogEntry) (s : State) : (logPush e s).ctxs = s.ctxs := rfl
@[simp] theorem logRule_ctxs (e : LogEntry) (s : State) : (logRule e s).ctxs = s.ctxs := by
  unfold logRule; split <;> rfl
@[simp] theorem ruleSet_ctxs (n : Nat) (g : Fld) (i j v : Nat) (s : State) : (ruleSet n g i j v s).ctxs = s.ctxs := by
  unfold ruleSet; simp only []; split <;> simp
@[simp] theorem logPush_stowed (e : LogEntry) (s : State) : (logPush e s).stowed = s.stowed := rfl
@[simp] theorem logRule_stowed (e : LogEntry) (s : State) : (logRule e s).stowed = s.stowed := by
  unfold logRule; split <;> rfl
@[simp] theorem ruleSet_stowed (n : Nat) (g : Fld) (i j v : Nat) (s : State) : (ruleSet n g i j v s).stowed = s.stowed := by
  unfold ruleSet; simp only []; split <;> simp
@[simp] theorem logPush_saves (e : LogEntry) (s : State) : (logPush e s).saves = s.saves := rfl
@[simp] theorem logRule_saves (e : LogEntry) (s : State) : (logRule e s).saves = s.saves := by
  unfold logRule; split <;> rfl
@[simp] theorem ruleSet_saves (n : Nat) (g : Fld) (i j v : Nat) (s : State) : (ruleSet n g i j v s).saves = s.saves := by
  unfold ruleSet; simp only []; split <;> simp
@[simp] theorem logPush_cellars (e : LogEntry) (s : State) : (logPush e s).cellars = s.cellars := rfl
@[simp] theorem logRule_cellars (e : LogEntry) (s : State) : (logRule e s).cellars = s.cellars := by
  unfold logRule; split <;> rfl
@[simp] theorem ruleSet_cellars (n : Nat) (g : Fld) (i j v : Nat) (s : State) : (ruleSet n g i j v s).cellars = s.cellars := by
  unfold ruleSet; simp only []; split <;> simp
@[simp] theorem logPush_held (e : LogEntry) (s : State) : (logPush e s).held = s.held := rfl
@[simp] theorem logRule_held (e : LogEntry) (s : State) : (logRule e s).held = s.held := by
  unfold logRule; split <;> rfl
@[simp] theorem ruleSet_held (n : Nat) (g : Fld) (i j v : Nat) (s : State) : (ruleSet n g i j v s).held = s.held := by
  unfold ruleSet; simp only []; split <;> simp
@[simp] theorem logPush_ucode (e : LogEntry) (s : State) : (logPush e s).ucode = s.ucode := rfl
@[simp] theorem logRule_ucode (e : LogEntry) (s : State) : (logRule e s).ucode = s.ucode := by
  unfold logRule; split <;> rfl
@[simp] theorem ruleSet_ucode (n : Nat) (g : Fld) (i j v : Nat) (s : State) : (ruleSet n g i j v s).ucode = s.ucode := by
  unfold ruleSet; simp only []; split <;> simp
@[simp] theorem logPush_solvers (e : LogEntry) (s : State) : (logPush e s).solvers = s.solvers := rfl
@[simp] theorem logRule_solvers (e : LogEntry) (s : State) : (logRule e s).solvers = s.solvers := by
  unfold logRule; split <;> rfl
@[simp] theorem ruleSet_solvers (n : Nat) (g : Fld) (i j v : Nat) (s : State) : (ruleSet n g i j v s).solvers = s.solvers := by
  unfold ruleSet; simp only []; split <;> simp
@[simp] theorem logPush_ports (e : LogEntry) (s : State) : (logPush e s).ports = s.ports := rfl
@[simp] theorem logRule_ports (e : LogEntry) (s : State) : (logRule e s).ports = s.ports := by
  unfold logRule; split <;> rfl
@[simp] theorem ruleSet_ports (n : Nat) (g : Fld) (i j v : Nat) (s : State) : (ruleSet n g i j v s).ports = s.ports := by
  unfold ruleSet; simp only []; split <;> simp
@[simp] theorem logPush_flowsTx (e : LogEntry) (s : State) : (logPush e s).flowsTx = s.flowsTx := rfl
@[simp] theorem logRule_flowsTx (e : LogEntry) (s : State) : (logRule e s).flowsTx = s.flowsTx := by
  unfold logRule; split <;> rfl
@[simp] theorem ruleSet_flowsTx (n : Nat) (g : Fld) (i j v : Nat) (s : State) : (ruleSet n g i j v s).flowsTx = s.flowsTx := by
  unfold ruleSet; simp only []; split <;> simp
@[simp] theorem logPush_flowsRx (e : LogEntry) (s : State) : (logPush e s).flowsRx = s.flowsRx := rfl
@[simp] theorem logRule_flowsRx (e : LogEntry) (s : State) : (logRule e s).flowsRx = s.flowsRx := by
  unfold logRule; split <;> rfl
@[simp] theorem ruleSet_flowsRx (n : Nat) (g : Fld) (i j v : Nat) (s : State) : (ruleSet n g i j v s).flowsRx = s.flowsRx := by
  unfold ruleSet; simp only []; split <;> simp
@[simp] theorem logPush_flowWait (e : LogEntry) (s : State) : (logPush e s).flowWait = s.flowWait := rfl
@[simp] theorem logRule_flowWait (e : LogEntry) (s : State) : (logRule e s).flowWait = s.flowWait := by
  unfold logRule; split <;> rfl
@[simp] theorem ruleSet_flowWait (n : Nat) (g : Fld) (i j v : Nat) (s : State) : (ruleSet n g i j v s).flowWait = s.flowWait := by
  unfold ruleSet; simp only []; split <;> simp
@[simp] theorem logPush_deliver (e : LogEntry) (s : State) : (logPush e s).deliver = s.deliver := rfl
@[simp] theorem logRule_deliver (e : LogEntry) (s : State) : (logRule e s).deliver = s.deliver := by
  unfold logRule; split <;> rfl
@[simp] theorem ruleSet_deliver (n : Nat) (g : Fld) (i j v : Nat) (s : State) : (ruleSet n g i j v s).deliver = s.deliver := by
  unfold ruleSet; simp only []; split <;> simp
@[simp] theorem logPush_msgOut (e : LogEntry) (s : State) : (logPush e s).msgOut = s.msgOut := rfl
@[simp] theorem logRule_msgOut (e : LogEntry) (s : State) : (logRule e s).msgOut = s.msgOut := by
  unfold logRule; split <;> rfl
@[simp] theorem ruleSet_msgOut (n : Nat) (g : Fld) (i j v : Nat) (s : State) : (ruleSet n g i j v s).msgOut = s.msgOut := by
  unfold ruleSet; simp only []; split <;> simp
@[simp] theorem logPush_msgIn (e : LogEntry) (s : State) : (logPush e s).msgIn = s.msgIn := rfl
@[simp] theorem logRule_msgIn (e : LogEntry) (s : State) : (logRule e s).msgIn = s.msgIn := by
  unfold logRule; split <;> rfl
@[simp] theorem ruleSet_msgIn (n : Nat) (g : Fld) (i j v : Nat) (s : State) : (ruleSet n g i j v s).msgIn = s.msgIn := by
  unfold ruleSet; simp only []; split <;> simp
@[simp] theorem logPush_msgNext (e : LogEntry) (s : State) : (logPush e s).msgNext = s.msgNext := rfl
@[simp] theorem logRule_msgNext (e : LogEntry) (s : State) : (logRule e s).msgNext = s.msgNext := by
  unfold logRule; split <;> rfl
@[simp] theorem ruleSet_msgNext (n : Nat) (g : Fld) (i j v : Nat) (s : State) : (ruleSet n g i j v s).msgNext = s.msgNext := by
  unfold ruleSet; simp only []; split <;> simp
@[simp] theorem logPush_cctxs (e : LogEntry) (s : State) : (logPush e s).cctxs = s.cctxs := rfl
@[simp] theorem logRule_cctxs (e : LogEntry) (s : State) : (logRule e s).cctxs = s.cctxs := by
  unfold logRule; split <;> rfl
@[simp] theorem ruleSet_cctxs (n : Nat) (g : Fld) (i j v : Nat) (s : State) : (ruleSet n g i j v s).cctxs = s.cctxs := by
  unfold ruleSet; simp only []; split <;> simp
@[simp] theorem logPush_colls (e : LogEntry) (s : State) : (logPush e s).colls = s.colls := rfl
@[simp] theorem logRule_colls (e : LogEntry) (s : State) : (logRule e s).colls = s.colls := by
  unfold logRule; split <;> rfl
@[simp] theorem ruleSet_colls (n : Nat) (g : Fld) (i j v : Nat) (s : State) : (ruleSet n g i j v s).colls = s.colls := by
  unfold ruleSet; simp only []; split <;> simp
@[simp] theorem logPush_collsDone (e : LogEntry) (s : State) : (logPush e s).collsDone = s.collsDone := rfl
@[simp] theorem logRule_collsDone (e : LogEntry) (s : State) : (logRule e s).collsDone = s.collsDone := by
  unfold logRule; split <;> rfl
@[simp] theorem ruleSet_collsDone (n : Nat) (g : Fld) (i j v : Nat) (s : State) : (ruleSet n g i j v s).collsDone = s.collsDone := by
  unfold ruleSet; simp only []; split <;> simp
@[simp] theorem logPush_slowRun (e : LogEntry) (s : State) : (logPush e s).slowRun = s.slowRun := rfl
@[simp] theorem logRule_slowRun (e : LogEntry) (s : State) : (logRule e s).slowRun = s.slowRun := by
  unfold logRule; split <;> rfl
@[simp] theorem ruleSet_slowRun (n : Nat) (g : Fld) (i j v : Nat) (s : State) : (ruleSet n g i j v s).slowRun = s.slowRun := by
  unfold ruleSet; simp only []; split <;> simp
@[simp] theorem logPush_slowIn (e : LogEntry) (s : State) : (logPush e s).slowIn = s.slowIn := rfl
@[simp] theorem logRule_slowIn (e : LogEntry) (s : State) : (logRule e s).slowIn = s.slowIn := by
  unfold logRule; split <;> rfl
@[simp] theorem ruleSet_slowIn (n : Nat) (g : Fld) (i j v : Nat) (s : State) : (ruleSet n g i j v s).slowIn = s.slowIn := by
  unfold ruleSet; simp only []; split <;> simp
@[simp] theorem logPush_banks (e : LogEntry) (s : State) : (logPush e s).banks = s.banks := rfl
@[simp] theorem logRule_banks (e : LogEntry) (s : State) : (logRule e s).banks = s.banks := by
  unfold logRule; split <;> rfl
@[simp] theorem ruleSet_banks (n : Nat) (g : Fld) (i j v : Nat) (s : State) : (ruleSet n g i j v s).banks = s.banks := by
  unfold ruleSet; simp only []; split <;> simp
@[simp] theorem logPush_bankDue (e : LogEntry) (s : State) : (logPush e s).bankDue = s.bankDue := rfl
@[simp] theorem logRule_bankDue (e : LogEntry) (s : State) : (logRule e s).bankDue = s.bankDue := by
  unfold logRule; split <;> rfl
@[simp] theorem ruleSet_bankDue (n : Nat) (g : Fld) (i j v : Nat) (s : State) : (ruleSet n g i j v s).bankDue = s.bankDue := by
  unfold ruleSet; simp only []; split <;> simp
@[simp] theorem logPush_buddyGot (e : LogEntry) (s : State) : (logPush e s).buddyGot = s.buddyGot := rfl
@[simp] theorem logRule_buddyGot (e : LogEntry) (s : State) : (logRule e s).buddyGot = s.buddyGot := by
  unfold logRule; split <;> rfl
@[simp] theorem ruleSet_buddyGot (n : Nat) (g : Fld) (i j v : Nat) (s : State) : (ruleSet n g i j v s).buddyGot = s.buddyGot := by
  unfold ruleSet; simp only []; split <;> simp
@[simp] theorem logPush_mgmt (e : LogEntry) (s : State) : (logPush e s).mgmt = s.mgmt := rfl
@[simp] theorem logRule_mgmt (e : LogEntry) (s : State) : (logRule e s).mgmt = s.mgmt := by
  unfold logRule; split <;> rfl
@[simp] theorem ruleSet_mgmt (n : Nat) (g : Fld) (i j v : Nat) (s : State) : (ruleSet n g i j v s).mgmt = s.mgmt := by
  unfold ruleSet; simp only []; split <;> simp
@[simp] theorem logPush_time (e : LogEntry) (s : State) : (logPush e s).time = s.time := rfl
@[simp] theorem logRule_time (e : LogEntry) (s : State) : (logRule e s).time = s.time := by
  unfold logRule; split <;> rfl
@[simp] theorem ruleSet_time (n : Nat) (g : Fld) (i j v : Nat) (s : State) : (ruleSet n g i j v s).time = s.time := by
  unfold ruleSet; simp only []; split <;> simp
@[simp] theorem logPush_plat (e : LogEntry) (s : State) : (logPush e s).plat = s.plat := rfl
@[simp] theorem logRule_plat (e : LogEntry) (s : State) : (logRule e s).plat = s.plat := by
  unfold logRule; split <;> rfl
@[simp] theorem ruleSet_plat (n : Nat) (g : Fld) (i j v : Nat) (s : State) : (ruleSet n g i j v s).plat = s.plat := by
  unfold ruleSet; simp only []; split <;> simp

/-! ## What is read after an update -/

@[simp] theorem modMgmt_mgmt (f : Mgmt → Mgmt) (s : State) : (modMgmt f s).mgmt = f s.mgmt := rfl
@[simp] theorem modTime_time (f : TimeUnit → TimeUnit) (s : State) : (modTime f s).time = f s.time := rfl
@[simp] theorem modPlat_plat (f : Plat → Plat) (s : State) : (modPlat f s).plat = f s.plat := rfl

/-- A core reads what was set. -/
@[simp] theorem coreOf_setCore (c : Nat) (k : Core) (s : State) : coreOf (setCore c k s) c = k := by
  simp [coreOf, setCore]

/-- Another core is as it was. -/
theorem coreOf_setCore_ne {c d : Nat} (h : d ≠ c) (k : Core) (s : State) : coreOf (setCore c k s) d = coreOf s d := by
  simp [coreOf, setCore, mapFind_mapPut_ne h]

/-- A changed core reads what the change gives. -/
@[simp] theorem coreOf_modCore (c : Nat) (f : Core → Core) (s : State) : coreOf (modCore c f s) c = f (coreOf s c) := by
  simp [modCore]

/-- Another core is as it was. -/
theorem coreOf_modCore_ne {c d : Nat} (h : d ≠ c) (f : Core → Core) (s : State) : coreOf (modCore c f s) d = coreOf s d := by
  simp [modCore, coreOf_setCore_ne h]

/-- A slot holds the context that was set. -/
@[simp] theorem ctxOf_setCtx (k : Nat) (x : Ctx) (s : State) : ctxOf (setCtx k x s) k = some x := by
  simp [ctxOf, setCtx]

/-- Another slot is as it was. -/
theorem ctxOf_setCtx_ne {k j : Nat} (h : j ≠ k) (x : Ctx) (s : State) : ctxOf (setCtx k x s) j = ctxOf s j := by
  simp [ctxOf, setCtx, mapFind_mapPut_ne h]

/-- A changed stack reads what the change gives. -/
@[simp] theorem stackOf_modStack (m : Nat) (f : Stack → Stack) (s : State) : stackOf (modStack m f s) m = f (stackOf s m) := by
  simp [stackOf, modStack]

/-- A changed port reads what the change gives. -/
@[simp] theorem portOf_modPort (p : Nat) (f : Port → Port) (s : State) : portOf (modPort p f s) p = f (portOf s p) := by
  simp [portOf, modPort]

/-- A register reads the value that was set. -/
@[simp] theorem rget_rset_self (r : Reg) (i j : Nat) (v : Word) (s : State) : rget (rset r i j v s) r i j = v := by
  unfold rget rset
  simp only
  split
  · next e he =>
    split at he
    · rw [mapFind_mapDel_self] at he; cases he
    · rw [mapFind_mapPut_self] at he; cases he; rfl
  · next he =>
    split at he
    · next e => exact e.symm
    · rw [mapFind_mapPut_self] at he; cases he

/-- A register at another offset is as it was. -/
theorem rget_rset_ne {r r' : Reg} {i j i' j' : Nat} (h : regOff r' i' j' ≠ regOff r i j) (v : Word) (s : State) :
    rget (rset r i j v s) r' i' j' = rget s r' i' j' := by
  have e : mapFind (rset r i j v s).regs (regOff r' i' j') = mapFind s.regs (regOff r' i' j') := by
    unfold rset
    simp only
    split
    · exact mapFind_mapDel_ne h _
    · exact mapFind_mapPut_ne h _ _
  unfold rget
  rw [e]

/-- Fields of a register at another offset are as they were. -/
theorem fget_fset_ne {f g : Fld} {i j i' j' : Nat} (h : regOff g.reg i' j' ≠ regOff f.reg i j) (v : Nat) (s : State) :
    fget (fset f i j v s) g i' j' = fget s g i' j' := by
  unfold fget fset
  rw [rget_rset_ne h]

end Sys2Proof.Machine
end

