-- ==== Sys2Proof/Laws/Bits.lean ====
section
/-! SUPPORT. Laws of bit fields of numbers and of register fields: what a field reads after it, or another one, is set. -/

namespace Sys2Proof.Machine

/-- A number split at a field: what is above it, the field, what is below it. -/
theorem split_at (v lo w : Nat) : v = v / 2 ^ (lo + w) * 2 ^ (lo + w) + v / 2 ^ lo % 2 ^ w * 2 ^ lo + v % 2 ^ lo := by
  have h1 := Nat.div_add_mod v (2 ^ lo)
  have h2 := Nat.div_add_mod (v / 2 ^ lo) (2 ^ w)
  rw [Nat.div_div_eq_div_mul, ← Nat.pow_add] at h2
  have h3 : v / 2 ^ (lo + w) * 2 ^ (lo + w) + v / 2 ^ lo % 2 ^ w * 2 ^ lo =
      2 ^ lo * (2 ^ w * (v / 2 ^ (lo + w)) + v / 2 ^ lo % 2 ^ w) := by
    rw [Nat.pow_add]; ring
  rw [h2] at h3
  omega

/-- A number with a field replaced, split at the field. -/
theorem setBits_split (v hi lo x : Nat) (h : lo ≤ hi + 1) :
    setBits v hi lo x =
      v / 2 ^ (hi + 1) * 2 ^ (hi + 1) + x % 2 ^ (hi + 1 - lo) * 2 ^ lo + v % 2 ^ lo := by
  have e : lo + (hi + 1 - lo) = hi + 1 := by omega
  have hv := split_at v lo (hi + 1 - lo)
  rw [e] at hv
  unfold setBits bitsOf
  omega

/-- The three parts of a number put together at a field, taken apart again: the field. -/
theorem field_of_parts (a b c lo w : Nat) (hb : b < 2 ^ w) (hc : c < 2 ^ lo) :
    (a * 2 ^ (lo + w) + b * 2 ^ lo + c) / 2 ^ lo % 2 ^ w = b := by
  have e : a * 2 ^ (lo + w) + b * 2 ^ lo + c = c + 2 ^ lo * (a * 2 ^ w + b) := by rw [Nat.pow_add]; ring
  rw [e, Nat.add_mul_div_left _ _ (by positivity), Nat.div_eq_of_lt hc, Nat.zero_add, Nat.mul_comm a, Nat.mul_add_mod, Nat.mod_eq_of_lt hb]

/-- A field reads what was put into it. -/
theorem bitsOf_setBits_self (v hi lo x : Nat) (h : lo ≤ hi + 1) :
    bitsOf (setBits v hi lo x) hi lo = x % 2 ^ (hi + 1 - lo) := by
  rw [setBits_split v hi lo x h]
  have e : lo + (hi + 1 - lo) = hi + 1 := by omega
  have := field_of_parts (v / 2 ^ (hi + 1)) (x % 2 ^ (hi + 1 - lo)) (v % 2 ^ lo) lo (hi + 1 - lo)
    (Nat.mod_lt _ (by positivity)) (Nat.mod_lt _ (by positivity))
  rw [e] at this
  exact this

/-- A field above the one that was set is as it was. -/
theorem bitsOf_setBits_above (v hi lo x hi' lo' : Nat) (h : lo ≤ hi + 1) (h' : hi < lo') :
    bitsOf (setBits v hi lo x) hi' lo' = bitsOf v hi' lo' := by
  have key : setBits v hi lo x / 2 ^ (hi + 1) = v / 2 ^ (hi + 1) := by
    rw [setBits_split v hi lo x h]
    have hlt : x % 2 ^ (hi + 1 - lo) * 2 ^ lo + v % 2 ^ lo < 2 ^ (hi + 1) := by
      have h1 : x % 2 ^ (hi + 1 - lo) < 2 ^ (hi + 1 - lo) := Nat.mod_lt _ (by positivity)
      have h2 : v % 2 ^ lo < 2 ^ lo := Nat.mod_lt _ (by positivity)
      have e : 2 ^ (hi + 1) = 2 ^ (hi + 1 - lo) * 2 ^ lo := by rw [← Nat.pow_add]; congr 1; omega
      rw [e]
      nlinarith [Nat.mul_le_mul_right (2 ^ lo) (Nat.succ_le_of_lt h1)]
    rw [Nat.add_assoc, Nat.add_comm, Nat.add_mul_div_right _ _ (by positivity), Nat.div_eq_of_lt hlt, Nat.zero_add]
  unfold bitsOf
  have e : 2 ^ lo' = 2 ^ (hi + 1) * 2 ^ (lo' - (hi + 1)) := by rw [← Nat.pow_add]; congr 1; omega
  rw [e, ← Nat.div_div_eq_div_mul, ← Nat.div_div_eq_div_mul, key]

/-- A field below the one that was set is as it was. -/
theorem bitsOf_setBits_below (v hi lo x hi' lo' : Nat) (h : lo ≤ hi + 1) (h' : hi' < lo) :
    bitsOf (setBits v hi lo x) hi' lo' = bitsOf v hi' lo' := by
  have key : setBits v hi lo x % 2 ^ lo = v % 2 ^ lo := by
    rw [setBits_split v hi lo x h]
    have e : 2 ^ (hi + 1) = 2 ^ lo * 2 ^ (hi + 1 - lo) := by rw [← Nat.pow_add]; congr 1; omega
    have e2 : v / 2 ^ (hi + 1) * 2 ^ (hi + 1) + x % 2 ^ (hi + 1 - lo) * 2 ^ lo + v % 2 ^ lo
        = 2 ^ lo * (v / 2 ^ (hi + 1) * 2 ^ (hi + 1 - lo) + x % 2 ^ (hi + 1 - lo)) + v % 2 ^ lo := by
      rw [e]; ring
    rw [e2, Nat.mul_add_mod, Nat.mod_mod]
  have low : ∀ n : Nat, bitsOf n hi' lo' = bitsOf (n % 2 ^ lo) hi' lo' := by
    intro n
    unfold bitsOf
    by_cases hl : lo' ≤ hi'
    · have e : 2 ^ lo = 2 ^ lo' * 2 ^ (lo - lo') := by rw [← Nat.pow_add]; congr 1; omega
      rw [e, Nat.mod_mul_right_div_self]
      rw [Nat.mod_mod_of_dvd]
      exact Nat.pow_dvd_pow 2 (by omega)
    · have e : hi' + 1 - lo' = 0 := by omega
      rw [e]; simp [Nat.mod_one]
  rw [low (setBits v hi lo x), key, ← low v]

/-- Setting a field keeps a number within a width that holds the field. -/
theorem setBits_lt (v hi lo x n : Nat) (h : lo ≤ hi + 1) (hn : hi < n) (hv : v < 2 ^ n) : setBits v hi lo x < 2 ^ n := by
  have hd : setBits v hi lo x / 2 ^ (hi + 1) = v / 2 ^ (hi + 1) := by
    have := bitsOf_setBits_above v hi lo x n (hi + 1) h (by omega)
    unfold bitsOf at this
    rw [setBits_split v hi lo x h]
    have hlt : x % 2 ^ (hi + 1 - lo) * 2 ^ lo + v % 2 ^ lo < 2 ^ (hi + 1) := by
      have h1 : x % 2 ^ (hi + 1 - lo) < 2 ^ (hi + 1 - lo) := Nat.mod_lt _ (by positivity)
      have h2 : v % 2 ^ lo < 2 ^ lo := Nat.mod_lt _ (by positivity)
      have e : 2 ^ (hi + 1) = 2 ^ (hi + 1 - lo) * 2 ^ lo := by rw [← Nat.pow_add]; congr 1; omega
      rw [e]
      nlinarith [Nat.mul_le_mul_right (2 ^ lo) (Nat.succ_le_of_lt h1)]
    rw [Nat.add_assoc, Nat.add_comm, Nat.add_mul_div_right _ _ (by positivity), Nat.div_eq_of_lt hlt, Nat.zero_add]
  have e : 2 ^ n = 2 ^ (hi + 1) * 2 ^ (n - (hi + 1)) := by rw [← Nat.pow_add]; congr 1; omega
  rw [e]
  rw [e] at hv
  rw [Nat.mul_comm, ← Nat.div_lt_iff_lt_mul (by positivity)] at hv ⊢
  rw [hd]
  exact hv

/-- A register field reads what was set. -/
theorem fget_fset_self (f : Fld) (i j v : Nat) (s : State) (h : f.lo ≤ f.hi + 1) (hn : f.hi < 32) :
    fget (fset f i j v s) f i j = v % 2 ^ (f.hi + 1 - f.lo) := by
  unfold fget fset
  rw [rget_rset_self]
  have hb : setBits (rget s f.reg i j).toNat f.hi f.lo v < 2 ^ 32 := setBits_lt _ _ _ _ _ h hn (rget s f.reg i j).isLt
  have : (wd (setBits (rget s f.reg i j).toNat f.hi f.lo v)).toNat = setBits (rget s f.reg i j).toNat f.hi f.lo v := by
    unfold wd; rw [BitVec.toNat_ofNat]; exact Nat.mod_eq_of_lt hb
  rw [this, bitsOf_setBits_self _ _ _ _ h]

/-- Another field of the same register is as it was. -/
theorem fget_fset_other (r : Reg) (hi lo hi' lo' i j v : Nat) (s : State) (h : lo ≤ hi + 1) (hn : hi < 32)
    (hd : hi < lo' ∨ hi' < lo) : fget (fset ⟨r, hi, lo⟩ i j v s) ⟨r, hi', lo'⟩ i j = fget s ⟨r, hi', lo'⟩ i j := by
  unfold fget fset
  simp only
  rw [rget_rset_self]
  have hb : setBits (rget s r i j).toNat hi lo v < 2 ^ 32 := setBits_lt _ _ _ _ _ h hn (rget s r i j).isLt
  have : (wd (setBits (rget s r i j).toNat hi lo v)).toNat = setBits (rget s r i j).toNat hi lo v := by
    unfold wd; rw [BitVec.toNat_ofNat]; exact Nat.mod_eq_of_lt hb
  rw [this]
  rcases hd with hd | hd
  · exact bitsOf_setBits_above _ _ _ _ _ _ h hd
  · exact bitsOf_setBits_below _ _ _ _ _ _ h hd

end Sys2Proof.Machine
end

