-- ==== Sys2Proof/Laws/Quiet.lean ====
section
/-! SUPPORT. What reporting leaves: counters, event records, vectors, log entries and replies change registers, the event ring,
vectors, the log buffer and what management keeps, and nothing else. -/

namespace Sys2Proof.Machine

/-- `t` is `s` but for registers, the event ring and its sequence numbers, vectors raised, the log buffer and what management
keeps. -/
structure Quiet (s t : State) : Prop where
  pending : t.pending = s.pending
  once : t.once = s.once
  free : t.free = s.free
  busData : t.busData = s.busData
  aer : t.aer = s.aer
  host : t.host = s.host
  hostPoison : t.hostPoison = s.hostPoison
  mem : t.mem = s.mem
  memPoison : t.memPoison = s.memPoison
  wear : t.wear = s.wear
  wearFullSent : t.wearFullSent = s.wearFullSent
  cores : t.cores = s.cores
  seats : t.seats = s.seats
  ctxs : t.ctxs = s.ctxs
  stowed : t.stowed = s.stowed
  saves : t.saves = s.saves
  cellars : t.cellars = s.cellars
  held : t.held = s.held
  ucode : t.ucode = s.ucode
  solvers : t.solvers = s.solvers
  ports : t.ports = s.ports
  flowsTx : t.flowsTx = s.flowsTx
  flowsRx : t.flowsRx = s.flowsRx
  flowWait : t.flowWait = s.flowWait
  deliver : t.deliver = s.deliver
  msgOut : t.msgOut = s.msgOut
  msgIn : t.msgIn = s.msgIn
  msgNext : t.msgNext = s.msgNext
  cctxs : t.cctxs = s.cctxs
  colls : t.colls = s.colls
  collsDone : t.collsDone = s.collsDone
  slowRun : t.slowRun = s.slowRun
  slowIn : t.slowIn = s.slowIn
  banks : t.banks = s.banks
  bankDue : t.bankDue = s.bankDue
  buddyGot : t.buddyGot = s.buddyGot
  time : t.time = s.time
  plat : t.plat = s.plat

theorem quiet_refl (s : State) : Quiet s s := by constructor <;> rfl

theorem quiet_trans {s t u : State} (h : Quiet s t) (g : Quiet t u) : Quiet s u where
  pending := g.pending.trans h.pending
  once := g.once.trans h.once
  free := g.free.trans h.free
  busData := g.busData.trans h.busData
  aer := g.aer.trans h.aer
  host := g.host.trans h.host
  hostPoison := g.hostPoison.trans h.hostPoison
  mem := g.mem.trans h.mem
  memPoison := g.memPoison.trans h.memPoison
  wear := g.wear.trans h.wear
  wearFullSent := g.wearFullSent.trans h.wearFullSent
  cores := g.cores.trans h.cores
  seats := g.seats.trans h.seats
  ctxs := g.ctxs.trans h.ctxs
  stowed := g.stowed.trans h.stowed
  saves := g.saves.trans h.saves
  cellars := g.cellars.trans h.cellars
  held := g.held.trans h.held
  ucode := g.ucode.trans h.ucode
  solvers := g.solvers.trans h.solvers
  ports := g.ports.trans h.ports
  flowsTx := g.flowsTx.trans h.flowsTx
  flowsRx := g.flowsRx.trans h.flowsRx
  flowWait := g.flowWait.trans h.flowWait
  deliver := g.deliver.trans h.deliver
  msgOut := g.msgOut.trans h.msgOut
  msgIn := g.msgIn.trans h.msgIn
  msgNext := g.msgNext.trans h.msgNext
  cctxs := g.cctxs.trans h.cctxs
  colls := g.colls.trans h.colls
  collsDone := g.collsDone.trans h.collsDone
  slowRun := g.slowRun.trans h.slowRun
  slowIn := g.slowIn.trans h.slowIn
  banks := g.banks.trans h.banks
  bankDue := g.bankDue.trans h.bankDue
  buddyGot := g.buddyGot.trans h.buddyGot
  time := g.time.trans h.time
  plat := g.plat.trans h.plat

/-- A fold of quiet steps is quiet. -/
theorem quiet_foldl {α : Type} (g : State → α → State) (h : ∀ b a, Quiet b (g b a)) :
    ∀ (l : List α) (b : State), Quiet b (l.foldl g b)
  | [], b => quiet_refl b
  | a :: t, b => by rw [List.foldl_cons]; exact quiet_trans (h b a) (quiet_foldl g h t (g b a))

theorem quiet_rset (r : Reg) (i j : Nat) (v : Word) (s : State) : Quiet s (rset r i j v s) := by constructor <;> rfl
theorem quiet_fset (f : Fld) (i j v : Nat) (s : State) : Quiet s (fset f i j v s) := by constructor <;> rfl
theorem quiet_fbump (f : Fld) (i j : Nat) (s : State) : Quiet s (fbump f i j s) := by constructor <;> rfl
theorem quiet_fbumpBy (f : Fld) (i j n : Nat) (s : State) : Quiet s (fbumpBy f i j n s) := by constructor <;> rfl
theorem quiet_modMgmt (f : Mgmt → Mgmt) (s : State) : Quiet s (modMgmt f s) := by constructor <;> rfl
theorem quiet_raiseMsix (f v : Nat) (s : State) : Quiet s (raiseMsix f v s) := by constructor <;> rfl

theorem quiet_events (m : SMap EventRec) (s : State) : Quiet s { s with events := m } := by constructor <;> rfl

/-- Entering an event record is quiet (R365). -/
theorem quiet_enterEvent (e : EventRec) (s : State) : Quiet s (enterEvent e s) := by
  unfold enterEvent
  dsimp only
  split
  · exact quiet_trans (quiet_fset _ _ _ _ _) (quiet_trans (quiet_fbump _ _ _ _) (quiet_trans (quiet_events _ _)
      (quiet_fset _ _ _ _ _)))
  · exact quiet_trans (quiet_events _ _) (quiet_fset _ _ _ _ _)

/-- Sending an event record is quiet (R364 to R366). -/
theorem quiet_sendEvent (origin cls code : Nat) (detail : List Byte) (ctx : Option Nat) (s : State) :
    Quiet s (sendEvent origin cls code detail ctx s) := by
  unfold sendEvent
  dsimp only
  have h0 : ∀ e : EventRec, Quiet s (enterEvent e { s with seqs := mapPut s.seqs origin (mapGet 0 s.seqs origin + 1) }) :=
    fun e => quiet_trans (by constructor <;> rfl) (quiet_enterEvent e _)
  cases ctx <;> dsimp only <;> split
  · exact quiet_trans (h0 _) (quiet_modMgmt _ _)
  · exact h0 _
  · exact quiet_trans (h0 _) (quiet_trans (quiet_raiseMsix _ _ _) (quiet_modMgmt _ _))
  · exact quiet_trans (h0 _) (quiet_raiseMsix _ _ _)

/-- A break of a cycle repeat is quiet (R46). -/
theorem quiet_cycBreak (cause d : Nat) (s : State) : Quiet s (cycBreak cause d s) :=
  quiet_trans (quiet_fbump _ _ _ _) (quiet_trans (quiet_fset _ _ _ _ _) (quiet_fset _ _ _ _ _))
theorem quiet_cycBreakAll (cause : Nat) (s : State) : Quiet s (cycBreakAll cause s) :=
  quiet_foldl _ (fun b d => quiet_cycBreak cause d b) _ s

/-- A log entry is quiet (R431). -/
theorem quiet_logPush (e : LogEntry) (s : State) : Quiet s (logPush e s) := by constructor <;> rfl

/-- A log entry of the S8's own rules is quiet (R433). -/
theorem quiet_logRule (e : LogEntry) (s : State) : Quiet s (logRule e s) := by
  unfold logRule
  split
  · exact quiet_fbump _ _ _ _
  · exact quiet_logPush _ _

/-- A field written by the S8's own rules with its log entry is quiet. -/
theorem quiet_ruleSet (num : Nat) (f : Fld) (i j v : Nat) (s : State) : Quiet s (ruleSet num f i j v s) := by
  unfold ruleSet
  dsimp only
  split
  · exact quiet_refl s
  · exact quiet_trans (quiet_fset f i j v s) (quiet_logRule _ _)

/-- A management log entry is quiet. -/
theorem quiet_logMgmt (o : Origin) (s : State) : Quiet s (logMgmt o s) := quiet_logRule _ _

/-- A reply in a mailbox is quiet (R418). -/
theorem quiet_writeMb (f : Nat) (bs : List Byte) (ys : List Word) (s : State) : Quiet s (writeMb f bs ys s) := by
  unfold writeMb
  exact quiet_trans (quiet_foldl _ (fun b i => quiet_rset _ _ _ _ b) _ s)
    (quiet_trans (quiet_fset _ _ _ _ _) (quiet_trans (quiet_fset _ _ _ _ _) (quiet_raiseMsix _ _ _)))

/-- A reply by MCTP is quiet (R434). -/
theorem quiet_writeReply_mctp (e : Byte) (pk : Packet) (st : Nat) (final fo : Bool) (ys : List Word) (s : State) :
    Quiet s (writeReply (.mctp e) pk st final fo ys s) := by
  unfold writeReply
  dsimp only
  split
  · exact quiet_modMgmt _ _
  · exact quiet_trans (quiet_modMgmt _ _) (quiet_modMgmt _ _)

/-- A reply in a completion ring writes the entry at the tail to host memory, and is quiet besides (R413). -/
theorem quiet_writeCq (f r : Nat) (bs : List Byte) (notify : Bool) (s : State) :
    Quiet (hostWrite ((rget s .RING_CQ_LO f r).toNat + 2 ^ 32 * (rget s .RING_CQ_HI f r).toNat +
      64 * (fget s F.RING_STAT.CQ_TAIL f r % ringSize s f r)) bs (fun _ => false) s) (writeCq f r bs notify s) := by
  unfold writeCq
  dsimp only
  split <;> split
  · exact quiet_trans (quiet_fset _ _ _ _ _) (quiet_trans (quiet_fset _ _ _ _ _) (quiet_raiseMsix _ _ _))
  · exact quiet_trans (quiet_fset _ _ _ _ _) (quiet_raiseMsix _ _ _)
  · exact quiet_trans (quiet_fset _ _ _ _ _) (quiet_fset _ _ _ _ _)
  · exact quiet_fset _ _ _ _ _

/-- A reply on any path leaves device memory, cores and contexts. -/
theorem writeReply_keeps (src : CmdSrc) (pk : Packet) (st : Nat) (final fo : Bool) (ys : List Word) (s : State) :
    (writeReply src pk st final fo ys s).mem = s.mem ∧ (writeReply src pk st final fo ys s).memPoison = s.memPoison ∧
      (writeReply src pk st final fo ys s).cores = s.cores ∧ (writeReply src pk st final fo ys s).ctxs = s.ctxs := by
  cases src with
  | mailbox f => have h := quiet_writeMb f.val (replyBytes st pk (2 * b2n fo + 4 * b2n final) 0xFF ys) ys s
                 exact ⟨h.mem, h.memPoison, h.cores, h.ctxs⟩
  | ring f r => have h := quiet_writeCq f.val r.val (replyBytes st pk (2 * b2n fo + 4 * b2n final +
                  fget s F.RING_STAT.PHASE f.val r.val) r.val ys) (pkNotify pk) s
                exact ⟨h.mem, h.memPoison, h.cores, h.ctxs⟩
  | mctp e => have h := quiet_writeReply_mctp e pk st final fo ys s
              exact ⟨h.mem, h.memPoison, h.cores, h.ctxs⟩

end Sys2Proof.Machine
end

