-- ==== Sys2Proof/Laws/Command.lean ====
section
/-! SUPPORT. What serving a command does, case by case: who is screened out, what each outcome of a command's own work comes to,
and what answering leaves. -/

namespace Sys2Proof.Machine

/-- A command that nothing turns away runs by its own work, in the state in which its context is active (R398, R421). -/
theorem runTaken_served {c : Taken} {h : List Byte → State → CmdRes} {s : State} {sp : OpSpec} (ha : fget s F.PWR_STAT.STATE ≠ 2)
    (ho : opSpec c.pk.opcode.toNat = some sp) (hs : screen sp s c.src c.pk = stOk) (hn : namedStowed s c.pk = none)
    (hg : namesStowing s c.pk = false) :
    runTaken c h s = settle c (extOf s c.pk) (h (extOf s c.pk)) (naming c.pk s) (addTaken c (naming c.pk s)) := by
  unfold runTaken naming
  simp only [ha, if_false, ho, hs, hn, hg]
  simp
  try rfl

/-- In Attic-only no command runs (R454). -/
theorem runTaken_attic {c : Taken} {h : List Byte → State → CmdRes} {s : State} (ha : fget s F.PWR_STAT.STATE = 2) :
    runTaken c h s = s := by
  unfold runTaken; simp only [ha, if_true]

/-- A command that the screen refuses is refused with the screen's status (R421). -/
theorem runTaken_screened {c : Taken} {h : List Byte → State → CmdRes} {s : State} {sp : OpSpec} (ha : fget s F.PWR_STAT.STATE ≠ 2)
    (ho : opSpec c.pk.opcode.toNat = some sp) (hs : screen sp s c.src c.pk ≠ stOk) :
    runTaken c h s = refuseCmd c (extOf s c.pk) (screen sp s c.src c.pk) s := by
  unfold runTaken
  simp only [ha, if_false, ho]
  simp [hs]

/-- A refused command changes nothing but its log entry and its answer. -/
theorem settle_refuse {c : Taken} {ext : List Byte} {h : State → CmdRes} {s s1 : State} {st : Nat} (e : h s1 = .refuse st) :
    settle c ext h s s1 = refuseCmd c ext st s := by
  unfold settle; dsimp only; rw [e]

/-- A command that names memory it may not reach is refused with BAD_PARAM and recorded (R187). -/
theorem settle_fault {c : Taken} {ext : List Byte} {h : State → CmdRes} {s s1 : State} {agent addr cause : Nat}
    (e : h s1 = .fault agent addr cause) :
    settle c ext h s s1 = refuseCmd c ext stBadParam (recordAfault addr (pkSlot c.pk) agent cause s) := by
  unfold settle; dsimp only; rw [e]

/-- A command that waits keeps the state its work left. -/
theorem settle_wait {c : Taken} {ext : List Byte} {h : State → CmdRes} {s s1 t : State} (e : h s1 = .wait t) :
    settle c ext h s s1 = t := by
  unfold settle; dsimp only; rw [e]

/-- A command not entered in the log that is done is answered in the state its work left. -/
theorem settle_done {c : Taken} {ext : List Byte} {h : State → CmdRes} {s s1 t : State} {st : Nat} {ys : List Word}
    (l : entersLog c.pk = false) (e : h s1 = .done st ys t) :
    settle c ext h s s1 = answer c st ys (dropLastTaken t) := by
  unfold settle
  simp only [e, l, Bool.not_false, Bool.true_or, Bool.not_true]
  simp [e]

/-- A command not entered in the log that runs on. -/
theorem settle_running {c : Taken} {ext : List Byte} {h : State → CmdRes} {s s1 t : State} {q : Bool}
    (l : entersLog c.pk = false) (e : h s1 = .running q t) :
    settle c ext h s s1 = if q then queueReply c t else t := by
  unfold settle
  simp only [e, l, Bool.not_false, Bool.true_or, Bool.not_true]
  simp [e]

/-- An answer leaves device memory, cores and contexts. -/
theorem answer_keeps (c : Taken) (st : Nat) (ys : List Word) (s : State) :
    (answer c st ys s).mem = s.mem ∧ (answer c st ys s).memPoison = s.memPoison ∧ (answer c st ys s).cores = s.cores ∧
      (answer c st ys s).ctxs = s.ctxs := by
  unfold answer
  split
  · exact ⟨rfl, rfl, rfl, rfl⟩
  · split
    · exact writeReply_keeps _ _ _ _ _ _ _
    · exact ⟨rfl, rfl, rfl, rfl⟩

end Sys2Proof.Machine
end

