-- ==== Sys2Proof/Laws/Issue.lean ====
section
/-! SUPPORT. What issuing a bundle does: where `issues` holds, the slots take effect in the charged state; the control
slot's forms one by one. -/

namespace Sys2Proof.Machine

theorem mapPut_mapPut {α : Type} (n : Nat) (v w : α) : ∀ m : SMap α, mapPut (mapPut m n v) n w = mapPut m n w
  | [] => by simp [mapPut]
  | (k, u) :: t => by
    by_cases h1 : n < k
    · simp [mapPut, h1]
    · by_cases h2 : n = k
      · simp [mapPut, h2]
      · simp [mapPut, h1, h2, mapPut_mapPut n v w t]

@[simp] theorem setCore_setCore (c : Nat) (k q : Core) (s : State) : setCore c q (setCore c k s) = setCore c q s := by
  simp [setCore, mapPut_mapPut]

@[simp] theorem modCore_modCore (c : Nat) (f g : Core → Core) (s : State) :
    modCore c g (modCore c f s) = modCore c (fun k => g (f k)) s := by
  simp [modCore]

/-- A fold whose steps each leave an observation leaves it. -/
theorem foldl_same {α β γ : Type} (f : β → γ) (g : β → α → β) (h : ∀ b a, f (g b a) = f b) :
    ∀ (l : List α) (b : β), f (l.foldl g b) = f b
  | [], _ => rfl
  | a :: t, b => by rw [List.foldl_cons, foldl_same f g h t, h]

/-- A write of a shelf line leaves the task that runs. -/
theorem linePut_run (a : Nat) (bs : List Byte) (p : Bool) (n : Nat) (k : Core) : (linePut a bs p n k).run = k.run := by
  unfold linePut; dsimp only; split <;> rfl

/-- Poison brought into a tile leaves the task that runs. -/
theorem tilePoison_run (ct : Nat) (p : Bool) (k : Core) : (tilePoison ct p k).run = k.run := by
  unfold tilePoison; split
  · split <;> rfl
  · rfl

/-- A spill leaves the task that runs. -/
theorem spillInto_run (ct : Nat) (acc : SMap DWord) (st : SMap Nat) (p : Bool) (k : Core) :
    (spillInto ct acc st p k).run = k.run := by
  unfold spillInto; exact tilePoison_run _ _ _

/-- A crate image loaded leaves the task that runs. -/
theorem crateLoad_run (ct : Nat) (bs : List Byte) (k : Core) : (crateLoad ct bs k).run = k.run := rfl

/-- What mover items pay leaves the task that runs. -/
theorem payMovers_run (es : List Nat) (k : Core) : (payMovers es k).run = k.run := rfl

/-- Landing a result leaves the task that runs. -/
theorem landOne_run (n : Nat) (k : Core) (p : Pend) : (landOne n k p).run = k.run := by
  unfold landOne
  split
  · split <;> rfl
  · refine foldl_same (fun (k : Core) => k.run) _ ?_ _ _
    intro b a; rfl
  · split <;> rfl
  · rfl
  · refine foldl_same (fun (k : Core) => k.run) _ ?_ _ _
    intro b a; exact linePut_run _ _ _ _ _
  · exact spillInto_run _ _ _ _ _
  · rw [tilePoison_run, crateLoad_run]

theorem landDue_run (n t : Nat) (k : Core) : (landDue n t k).run = k.run :=
  foldl_same (fun (k : Core) => k.run) (landOne n) (landOne_run n) _ k

/-- Where a core issues a bundle, the four slots take effect in the charged state. -/
theorem issue_eq {c : Nat} {b : Bundle} {s : State} (h : issues c b s = true) : issue c b s = bundleGo c b (charged c b s) := by
  unfold issues mayIssue arrived funded at h
  unfold issue issueWith charged
  cases hr : (coreOf s c).run with
  | none => simp [hr] at h
  | some r =>
    simp only [hr] at h ⊢
    cases hx : ctxOf s r.task.slot with
    | none => simp [hx] at h
    | some x =>
      have hl : landed c s = modCore c (fun q => landDue (constLines s r.task.slot) q.cyc q) s := by simp only [landed, hr]
      have hk : landedCore c s = coreOf (landed c s) c := rfl
      simp only [hx, Bool.and_eq_true, Bool.not_eq_true', beq_iff_eq, decide_eq_true_eq, Option.isNone_iff_eq_none] at h
      obtain ⟨⟨⟨⟨⟨⟨⟨⟨⟨⟨⟨h1, h2⟩, h3⟩, h4⟩, h5⟩, _⟩, h6⟩, h7⟩, h8⟩, h9⟩, h10⟩, h11⟩ := h
      rw [← hl, ← hk]
      have ht : (moverWant (landedCore c s)).length + (demandOf (landedCore c s) b + auditDemand (landed c s) r fun _ => some b) =
          ticksOf c b s := by simp [ticksOf, auditDemand, h2]
      have h10' : ¬ poolLeft x (dieOf c) < ticksOf c b s := Nat.not_lt.mpr h10
      simp only [h1, h2, h3, h4, h5, h6, h7, h8, h9, ht, h10', h11, Bool.false_or, bne_self_eq_false, Bool.false_eq_true,
        if_false, if_true, Bool.not_true, decide_false]

@[simp] theorem coreOf_modCtx (slot c : Nat) (f : Ctx → Ctx) (s : State) : coreOf (modCtx slot f s) c = coreOf s c := by
  unfold modCtx; split <;> simp [coreOf, setCtx]

@[simp] theorem coreOf_setCstat (f : Fld) (c v d : Nat) (s : State) : coreOf (setCstat f c v s) d = coreOf s d := rfl

@[simp] theorem coreOf_spendTicks (slot d n c : Nat) (s : State) : coreOf (spendTicks slot d n s) c = coreOf s c := by
  unfold spendTicks; split
  · rfl
  · exact coreOf_modCtx _ _ _ _

/-- The charged state's core is the one that the slots read. -/
theorem coreOf_charged (c : Nat) (b : Bundle) (s : State) (h : (coreOf s c).run ≠ none) : coreOf (charged c b s) c = issuing c s := by
  unfold charged
  cases hr : (coreOf s c).run with
  | none => exact absurd hr h
  | some r => rw [coreOf_setCstat, coreOf_spendTicks, coreOf_modCore]; rfl

theorem issuing_run (c : Nat) (s : State) : (issuing c s).run = (coreOf s c).run := by
  unfold issuing landedCore landed
  rw [payMovers_run]
  cases hr : (coreOf s c).run with
  | none => simpa using hr
  | some r => simp only [modCore, coreOf_setCore]; rw [landDue_run, hr]

theorem issues_run {c : Nat} {b : Bundle} {s : State} (h : issues c b s = true) : ∃ r, (coreOf s c).run = some r := by
  unfold issues mayIssue at h
  cases hr : (coreOf s c).run with
  | none => simp [hr] at h
  | some r => exact ⟨r, rfl⟩

@[simp] theorem ctxOf_rset (r : Reg) (i j : Nat) (v : Word) (s : State) (k : Nat) : ctxOf (rset r i j v s) k = ctxOf s k := rfl
@[simp] theorem ctxOf_fset (f : Fld) (i j v : Nat) (s : State) (k : Nat) : ctxOf (fset f i j v s) k = ctxOf s k := rfl
@[simp] theorem ctxOf_setCore (c : Nat) (q : Core) (s : State) (k : Nat) : ctxOf (setCore c q s) k = ctxOf s k := rfl
@[simp] theorem ctxOf_modCore (c : Nat) (f : Core → Core) (s : State) (k : Nat) : ctxOf (modCore c f s) k = ctxOf s k := rfl

/-- A bundle whose slots are all empty but for its control slot. -/
theorem bundleGo_ctl (c : Nat) (u : Ctl) (s : State) (r : Run) (hr : (coreOf s c).run = some r) :
    bundleGo c (ctlB u) s = modCore c (advance (coreOf s c) u) (ctlExec c (coreOf s c) r u s) := by
  simp [bundleGo, hr, ctlB, Bundle.none, Vec.none, Mov.none, Mat.none, vecIssue, movExec]

/-- A bundle whose slots are all empty but for its vector slot. -/
theorem bundleGo_vec (c : Nat) (v : Vec) (s : State) (r : Run) (hr : (coreOf s c).run = some r) :
    bundleGo c (vecB v) s = modCore c (advance (coreOf s c) .nop) (vecIssue c (coreOf s c) r v s) := by
  simp [bundleGo, hr, vecB, Bundle.none, Mov.none, Mat.none, ctlExec, movExec]

/-- A bundle whose slots are all empty but for its move slot. -/
theorem bundleGo_mov (c : Nat) (m : Mov) (s : State) (r : Run) (hr : (coreOf s c).run = some r) :
    bundleGo c (movB m) s = modCore c (advance (coreOf s c) .nop) (movExec c (coreOf s c) r m (movAddr (coreOf s c) m) s) := by
  simp [bundleGo, hr, movB, Bundle.none, Vec.none, Mat.none, ctlExec, vecIssue]

/-- A bundle whose slots are all empty but for its matrix slot. -/
theorem bundleGo_mat (c : Nat) (m : Mat) (s : State) (r : Run) (hr : (coreOf s c).run = some r) (hm : m.op ≠ .nop) :
    bundleGo c (matB m) s = modCore c (advance (coreOf s c) .nop) (matExec c (coreOf s c) r m s) := by
  simp [bundleGo, hr, matB, Bundle.none, Vec.none, Mov.none, ctlExec, vecIssue, movExec, hm]
  cases h : coreOf s c
  simp [h] at hr ⊢
  simp [← hr]

/-- A control slot issued. -/
theorem issue_ctl {c : Nat} {u : Ctl} {s : State} {r : Run} (hr : (coreOf s c).run = some r) (h : issues c (ctlB u) s = true) :
    issue c (ctlB u) s =
      modCore c (advance (issuing c s) u) (ctlExec c (issuing c s) r u (charged c (ctlB u) s)) := by
  have hc := coreOf_charged c (ctlB u) s (by simp [hr])
  have hr' : (coreOf (charged c (ctlB u) s) c).run = some r := by rw [hc, issuing_run, hr]
  rw [issue_eq h, bundleGo_ctl c u _ r hr', hc]

/-- A vector slot issued. -/
theorem issue_vec {c : Nat} {v : Vec} {s : State} {r : Run} (hr : (coreOf s c).run = some r) (h : issues c (vecB v) s = true) :
    issue c (vecB v) s = modCore c (advance (issuing c s) .nop) (vecIssue c (issuing c s) r v (charged c (vecB v) s)) := by
  have hc := coreOf_charged c (vecB v) s (by simp [hr])
  have hr' : (coreOf (charged c (vecB v) s) c).run = some r := by rw [hc, issuing_run, hr]
  rw [issue_eq h, bundleGo_vec c v _ r hr', hc]

/-- A move slot issued. -/
theorem issue_mov {c : Nat} {m : Mov} {s : State} {r : Run} (hr : (coreOf s c).run = some r) (h : issues c (movB m) s = true) :
    issue c (movB m) s = modCore c (advance (issuing c s) .nop)
      (movExec c (issuing c s) r m (movAddr (issuing c s) m) (charged c (movB m) s)) := by
  have hc := coreOf_charged c (movB m) s (by simp [hr])
  have hr' : (coreOf (charged c (movB m) s) c).run = some r := by rw [hc, issuing_run, hr]
  rw [issue_eq h, bundleGo_mov c m _ r hr', hc]

/-- A matrix slot issued. -/
theorem issue_mat {c : Nat} {m : Mat} {s : State} {r : Run} (hr : (coreOf s c).run = some r) (hm : m.op ≠ .nop)
    (h : issues c (matB m) s = true) :
    issue c (matB m) s =
      modCore c (advance (issuing c s) .nop) (matExec c (issuing c s) r m (charged c (matB m) s)) := by
  have hc := coreOf_charged c (matB m) s (by simp [hr])
  have hr' : (coreOf (charged c (matB m) s) c).run = some r := by rw [hc, issuing_run, hr]
  rw [issue_eq h, bundleGo_mat c m _ r hr' hm, hc]

end Sys2Proof.Machine
end

