-- ==== Sys2Proof/Laws/Memory.lean ====
section
/-! SUPPORT. Memory: every operation that stores keeps the canonical form of device memory and of host memory, the memories
after reset have it, and what each store leaves. -/

namespace Sys2Proof.Machine

/-- A property that every step of a fold keeps holds after it. -/
theorem foldl_keeps {α β : Type} (P : β → Prop) (g : β → α → β) (h : ∀ b a, P b → P (g b a)) :
    ∀ (l : List α) (b : β), P b → P (l.foldl g b)
  | [], _, hb => hb
  | a :: t, b, hb => by rw [List.foldl_cons]; exact foldl_keeps P g h t (g b a) (h b a hb)

/-- A run of byte writes keeps the canonical form. -/
theorem memory_wf_puts (f : Nat → Nat) (v : Nat → Byte) (l : List Nat) {m : SMap Byte} (h : Memory.wf m = true) :
    Memory.wf (l.foldl (fun a i => mapSet 0 a (f i) (v i)) m) = true :=
  foldl_keeps (fun a => Memory.wf a = true) _ (fun _ _ hb => memory_wf_mapSet _ _ hb) l m h

/-- The memories right after reset are in canonical form. -/
theorem memoryOk_reset : memoryOk State.reset = true := rfl

/-- A state whose memories are another's is in order where that is. -/
theorem memoryOk_of_eq {s t : State} (hm : t.mem = s.mem) (hh : t.host = s.host) (h : memoryOk s = true) : memoryOk t = true := by
  unfold memoryOk; rw [hm, hh]; exact h

/-- A store of bytes of one line keeps both memories in canonical form. -/
theorem memoryOk_physPut (m off : Nat) (bs : List Byte) (p : Bool) {s : State} (h : memoryOk s = true) :
    memoryOk (physPut m off bs p s) = true := by
  unfold physPut
  split
  · exact h
  · simp only [memoryOk, Bool.and_eq_true] at h ⊢
    exact ⟨memory_wf_puts _ _ _ h.1, h.2⟩

/-- A store through copy-on-write keeps both memories in canonical form. -/
theorem memoryOk_stackWriteFor (own : Option (Nat × DWord)) (m off : Nat) (bs : List Byte) (p : Bool) {s : State}
    (h : memoryOk s = true) : memoryOk (stackWriteFor own m off bs p s) = true := by
  unfold stackWriteFor
  split
  · exact h
  · dsimp only
    split
    · exact memoryOk_of_eq rfl rfl h
    · split
      · exact memoryOk_of_eq rfl rfl h
      · exact memoryOk_physPut _ _ _ _ h

/-- A store of no step keeps both memories in canonical form. -/
theorem memoryOk_stackWrite (m off : Nat) (bs : List Byte) (p : Bool) {s : State} (h : memoryOk s = true) :
    memoryOk (stackWrite m off bs p s) = true := memoryOk_stackWriteFor none m off bs p h

/-- A store at a device address with poison by line keeps both memories in canonical form. -/
theorem memoryOk_devWritePFor (own : Option (Nat × DWord)) (a : Nat) (bs : List Byte) (p : Nat → Bool) {s : State}
    (h : memoryOk s = true) : memoryOk (devWritePFor own a bs p s) = true :=
  foldl_keeps (fun s => memoryOk s = true) _ (fun _ _ hb => memoryOk_stackWriteFor _ _ _ _ _ hb) _ s h

/-- A store at a device address keeps both memories in canonical form. -/
theorem memoryOk_devWrite (a : Nat) (bs : List Byte) (p : Bool) {s : State} (h : memoryOk s = true) :
    memoryOk (devWrite a bs p s) = true := memoryOk_devWritePFor none a bs _ h

/-- A store at a device address with poison by line, of no step, keeps both memories in canonical form. -/
theorem memoryOk_devWriteP (a : Nat) (bs : List Byte) (p : Nat → Bool) {s : State} (h : memoryOk s = true) :
    memoryOk (devWriteP a bs p s) = true := memoryOk_devWritePFor none a bs p h

/-- A page's return to a held version keeps both memories in canonical form. -/
theorem memoryOk_restorePage (v : HeldPage) {s : State} (h : memoryOk s = true) : memoryOk (restorePage v s) = true :=
  foldl_keeps (fun s => memoryOk s = true) _ (fun _ _ hb => memoryOk_physPut _ _ _ _ hb) _ s h

/-- A store by DMA keeps both memories in canonical form. -/
theorem memoryOk_hostWrite (a : Nat) (bs : List Byte) (p : Nat → Bool) {s : State} (h : memoryOk s = true) :
    memoryOk (hostWrite a bs p s) = true := by
  simp only [memoryOk, Bool.and_eq_true] at h ⊢
  exact ⟨h.1, memory_wf_puts _ _ _ h.2⟩

/-- A zero fill keeps both memories in canonical form. -/
theorem memoryOk_zeroFill (e : Word) {s : State} (h : memoryOk s = true) : memoryOk (zeroFill e s) = true := by
  refine foldl_keeps (fun s => memoryOk s = true) _ (fun b a hb => ?_) _ s h
  simp only [memoryOk, Bool.and_eq_true] at hb
  have hc : ∀ lo hi : Nat, Memory.wf (mapClear b.mem lo hi) = true ∧ Memory.wf b.host = true :=
    fun lo hi => ⟨memory_wf_mapClear lo hi hb.1, hb.2⟩
  dsimp only
  split
  · simpa [memoryOk] using hc _ _
  · simpa [memoryOk, modStack] using hc _ _

/-- A register's new value leaves both memories as they are. -/
theorem memoryOk_reg (r : Reg) (i j : Nat) (v : Word) {s : State} (h : memoryOk s = true) : memoryOk (rset r i j v s) = true :=
  memoryOk_of_eq rfl rfl h

/-! ## What a store leaves -/

/-- A store of one line leaves the bytes outside it. -/
theorem physPut_mem_ne (m off : Nat) (bs : List Byte) (p : Bool) (s : State) (k : Nat)
    (h : ∀ i < bs.length, memKey m (off + i) ≠ k) : mapGet 0 (physPut m off bs p s).mem k = mapGet 0 s.mem k := by
  unfold physPut
  split
  · rfl
  · dsimp only
    have aux : ∀ (l : List Nat) (a : SMap Byte), (∀ i ∈ l, i < bs.length) →
        mapGet 0 (l.foldl (fun a i => mapSet 0 a (memKey m (off + i)) (bs.getD i 0)) a) k = mapGet 0 a k := by
      intro l
      induction l with
      | nil => intro a _; rfl
      | cons i t ih =>
        intro a hl
        rw [List.foldl_cons, ih _ (fun j hj => hl j (List.mem_cons_of_mem _ hj))]
        exact mapGet_mapSet_ne 0 (fun e => h i (hl i List.mem_cons_self) e.symm) _ _
    exact aux _ _ (fun i hi => List.mem_range.mp hi)

/-- A store of one line leaves everything but device memory. -/
@[simp] theorem physPut_regs (m off : Nat) (bs : List Byte) (p : Bool) (s : State) : (physPut m off bs p s).regs = s.regs := by
  unfold physPut; split <;> rfl
@[simp] theorem physPut_host (m off : Nat) (bs : List Byte) (p : Bool) (s : State) : (physPut m off bs p s).host = s.host := by
  unfold physPut; split <;> rfl
@[simp] theorem physPut_cores (m off : Nat) (bs : List Byte) (p : Bool) (s : State) : (physPut m off bs p s).cores = s.cores := by
  unfold physPut; split <;> rfl
@[simp] theorem physPut_ctxs (m off : Nat) (bs : List Byte) (p : Bool) (s : State) : (physPut m off bs p s).ctxs = s.ctxs := by
  unfold physPut; split <;> rfl

/-- A store through copy-on-write leaves host memory, cores and contexts. -/
theorem stackWriteFor_keeps (own : Option (Nat × DWord)) (m off : Nat) (bs : List Byte) (p : Bool) (s : State) :
    (stackWriteFor own m off bs p s).host = s.host ∧ (stackWriteFor own m off bs p s).cores = s.cores ∧
      (stackWriteFor own m off bs p s).ctxs = s.ctxs ∧ (stackWriteFor own m off bs p s).pending = s.pending ∧
      (stackWriteFor own m off bs p s).mgmt = s.mgmt := by
  unfold stackWriteFor
  split
  · exact ⟨rfl, rfl, rfl, rfl, rfl⟩
  · dsimp only
    split
    · exact ⟨rfl, rfl, rfl, rfl, rfl⟩
    · split
      · exact ⟨rfl, rfl, rfl, rfl, rfl⟩
      · refine ⟨physPut_host .., physPut_cores .., physPut_ctxs .., ?_, ?_⟩ <;> (unfold physPut; split <;> rfl)

/-- A store at a device address leaves host memory, cores and contexts. -/
theorem devWritePFor_keeps (own : Option (Nat × DWord)) (a : Nat) (bs : List Byte) (p : Nat → Bool) (s : State) :
    (devWritePFor own a bs p s).host = s.host ∧ (devWritePFor own a bs p s).cores = s.cores ∧
      (devWritePFor own a bs p s).ctxs = s.ctxs ∧ (devWritePFor own a bs p s).pending = s.pending ∧
      (devWritePFor own a bs p s).mgmt = s.mgmt := by
  refine foldl_keeps (fun t : State => t.host = s.host ∧ t.cores = s.cores ∧ t.ctxs = s.ctxs ∧ t.pending = s.pending ∧
    t.mgmt = s.mgmt) _ (fun b q hb => ?_) _ s ⟨rfl, rfl, rfl, rfl, rfl⟩
  have h := stackWriteFor_keeps own (locate b q.1).1 (locate b q.1).2 ((bs.drop (q.1 - a)).take q.2) (p (q.1 / 64)) b
  exact ⟨h.1.trans hb.1, h.2.1.trans hb.2.1, h.2.2.1.trans hb.2.2.1, h.2.2.2.1.trans hb.2.2.2.1, h.2.2.2.2.trans hb.2.2.2.2⟩

/-- A store at a device address that belongs to no step leaves host memory, cores and contexts. -/
theorem devWrite_keeps (a : Nat) (bs : List Byte) (p : Bool) (s : State) :
    (devWrite a bs p s).host = s.host ∧ (devWrite a bs p s).cores = s.cores ∧ (devWrite a bs p s).ctxs = s.ctxs ∧
      (devWrite a bs p s).pending = s.pending ∧ (devWrite a bs p s).mgmt = s.mgmt := devWritePFor_keeps none a bs _ s

end Sys2Proof.Machine
end

