-- ==== Sys2Proof/Laws/PerInstr.lean ====
section
/-! SUPPORT. The family Operands: a well-formed command that carries a packet carries its eleven parameter words (R416), and one
that carries a frame carries its 144 bytes (R268). -/

namespace Sys2Proof.Laws.Operands

/-- The packet that a command carries. -/
def packetOf : Instr → Option Packet
  | .nopCmd _ pk => some pk
  | .getInfo _ pk => some pk
  | .readEvents _ pk => some pk
  | .readLog _ pk => some pk
  | .regAccess _ pk => some pk
  | .telemetry _ pk => some pk
  | .fnQuota _ pk => some pk
  | .bind _ pk => some pk
  | .unbind _ pk => some pk
  | .moveGroup _ pk => some pk
  | .halt _ pk => some pk
  | .holdRegister _ pk => some pk
  | .memMap _ pk => some pk
  | .memRead _ pk => some pk
  | .memWrite _ pk => some pk
  | .loadImage _ pk => some pk
  | .postStep _ pk => some pk
  | .replay _ pk => some pk
  | .resume _ pk => some pk
  | .realign _ pk => some pk
  | .ucodeLoad _ pk => some pk
  | .updRegister _ pk => some pk
  | .updDeregister _ pk => some pk
  | .updFire _ pk => some pk
  | .solvRegister _ pk => some pk
  | .solvDeregister _ pk => some pk
  | .cctxCreate _ pk => some pk
  | .cctxDestroy _ pk => some pk
  | .timeSet _ pk => some pk
  | .portRetrain _ pk => some pk
  | .portUnlock _ pk => some pk
  | .fsRing _ pk => some pk
  | .checkpoint _ pk => some pk
  | .restore _ pk => some pk
  | .lockSet _ pk => some pk
  | .debugChallenge _ pk => some pk
  | .debugUnlock _ pk => some pk
  | .debugLock _ pk => some pk
  | .retireUnit _ pk => some pk
  | .setPower _ pk => some pk
  | .failover _ pk => some pk
  | .mctpRequest _ pk => some pk
  | _ => none

/-- The frame that a command carries. -/
def frameOf : Instr → Option (List Byte)
  | .frameReceive _ f => some f
  | .slotFrameReceive _ _ _ _ f => some f
  | _ => none

/-- What well-formedness says of the packet and the frame of a command. -/
def Statement (i : Instr) : Prop :=
  i.wellFormed = true → (∀ pk, packetOf i = some pk → pk.ps.length = 11) ∧ (∀ f, frameOf i = some f → f.length = 144)

/-- A command that carries neither. -/
theorem ofPlain {i : Instr} (h : packetOf i = none) (k : frameOf i = none) : Statement i := fun _ =>
  ⟨fun _ e => (by rw [h] at e; cases e), fun _ e => (by rw [k] at e; cases e)⟩

/-- A command that carries a packet. -/
theorem ofPacket {i : Instr} {p : Packet} (h : packetOf i = some p) (k : frameOf i = none) (w : i.wellFormed = (p.ps.length == 11)) :
    Statement i := fun e =>
  ⟨fun q hq => (by rw [h] at hq; cases hq; rw [w] at e; simpa using e), fun _ e' => (by rw [k] at e'; cases e')⟩

/-- A command that carries a frame. -/
theorem ofFrame {i : Instr} {f : List Byte} (h : packetOf i = none) (k : frameOf i = some f) (w : i.wellFormed = (f.length == 144)) :
    Statement i := fun e =>
  ⟨fun _ e' => (by rw [h] at e'; cases e'), fun q hq => (by rw [k] at hq; cases hq; rw [w] at e; simpa using e)⟩

theorem regWrite (o : Origin) (off : Word) (v : Word) : Statement (.regWrite o off v) := ofPlain rfl rfl
theorem rcRead (o : Origin) (off : Word) : Statement (.rcRead o off) := ofPlain rfl rfl
theorem mtNowLoRead (f : Fn) : Statement (.mtNowLoRead f) := ofPlain rfl rfl
theorem bundleIssue (c : CoreId) : Statement (.bundleIssue c) := ofPlain rfl rfl
theorem add (c : CoreId) (xd xa xb : XReg) : Statement (.add c xd xa xb) := ofPlain rfl rfl
theorem sub (c : CoreId) (xd xa xb : XReg) : Statement (.sub c xd xa xb) := ofPlain rfl rfl
theorem andOp (c : CoreId) (xd xa xb : XReg) : Statement (.andOp c xd xa xb) := ofPlain rfl rfl
theorem orOp (c : CoreId) (xd xa xb : XReg) : Statement (.orOp c xd xa xb) := ofPlain rfl rfl
theorem xorOp (c : CoreId) (xd xa xb : XReg) : Statement (.xorOp c xd xa xb) := ofPlain rfl rfl
theorem shl (c : CoreId) (xd xa xb : XReg) : Statement (.shl c xd xa xb) := ofPlain rfl rfl
theorem shr (c : CoreId) (xd xa xb : XReg) : Statement (.shr c xd xa xb) := ofPlain rfl rfl
theorem sra (c : CoreId) (xd xa xb : XReg) : Statement (.sra c xd xa xb) := ofPlain rfl rfl
theorem mul (c : CoreId) (xd xa xb : XReg) : Statement (.mul c xd xa xb) := ofPlain rfl rfl
theorem cmplt (c : CoreId) (xd xa xb : XReg) : Statement (.cmplt c xd xa xb) := ofPlain rfl rfl
theorem cmpltu (c : CoreId) (xd xa xb : XReg) : Statement (.cmpltu c xd xa xb) := ofPlain rfl rfl
theorem cmpeq (c : CoreId) (xd xa xb : XReg) : Statement (.cmpeq c xd xa xb) := ofPlain rfl rfl
theorem addi (c : CoreId) (xd xa : XReg) (imm : Imm16) : Statement (.addi c xd xa imm) := ofPlain rfl rfl
theorem li (c : CoreId) (xd : XReg) (imm : Imm16) : Statement (.li c xd imm) := ofPlain rfl rfl
theorem shli (c : CoreId) (xd xa : XReg) (imm : Imm16) : Statement (.shli c xd xa imm) := ofPlain rfl rfl
theorem lih (c : CoreId) (xd xa : XReg) (imm : Imm16) : Statement (.lih c xd xa imm) := ofPlain rfl rfl
theorem br (c : CoreId) (off : Off21) : Statement (.br c off) := ofPlain rfl rfl
theorem bz (c : CoreId) (xa : XReg) (off : Off21) : Statement (.bz c xa off) := ofPlain rfl rfl
theorem bnz (c : CoreId) (xa : XReg) (off : Off21) : Statement (.bnz c xa off) := ofPlain rfl rfl
theorem loopOp (c : CoreId) (xa : XReg) (off : Off21) : Statement (.loopOp c xa off) := ofPlain rfl rfl
theorem waitOp (c : CoreId) (half : Bool) (mask : Imm16) : Statement (.waitOp c half mask) := ofPlain rfl rfl
theorem fence (c : CoreId) (imm : Imm16) : Statement (.fence c imm) := ofPlain rfl rfl
theorem markOp (c : CoreId) : Statement (.markOp c) := ofPlain rfl rfl
theorem endTask (c : CoreId) : Statement (.endTask c) := ofPlain rfl rfl
theorem spawn (c : CoreId) (xa : XReg) (imm : Imm16) : Statement (.spawn c xa imm) := ofPlain rfl rfl
theorem lidx (c : CoreId) (xd : XReg) (imm : Imm16) : Statement (.lidx c xd imm) := ofPlain rfl rfl
theorem rdcnt (c : CoreId) (xd : XReg) : Statement (.rdcnt c xd) := ofPlain rfl rfl
theorem rdobs (c : CoreId) (xd : XReg) (imm : Imm16) : Statement (.rdobs c xd imm) := ofPlain rfl rfl
theorem rdpar (c : CoreId) (xd : XReg) (imm : Imm16) : Statement (.rdpar c xd imm) := ofPlain rfl rfl
theorem vmov (c : CoreId) (g : LaneSel) (vd va : VReg) : Statement (.vmov c g vd va) := ofPlain rfl rfl
theorem vand (c : CoreId) (g : LaneSel) (vd va vb : VReg) : Statement (.vand c g vd va vb) := ofPlain rfl rfl
theorem vor (c : CoreId) (g : LaneSel) (vd va vb : VReg) : Statement (.vor c g vd va vb) := ofPlain rfl rfl
theorem vxor (c : CoreId) (g : LaneSel) (vd va vb : VReg) : Statement (.vxor c g vd va vb) := ofPlain rfl rfl
theorem viadd (c : CoreId) (g : LaneSel) (vd va vb : VReg) : Statement (.viadd c g vd va vb) := ofPlain rfl rfl
theorem visub (c : CoreId) (g : LaneSel) (vd va vb : VReg) : Statement (.visub c g vd va vb) := ofPlain rfl rfl
theorem vshl (c : CoreId) (g : LaneSel) (vd va vb : VReg) : Statement (.vshl c g vd va vb) := ofPlain rfl rfl
theorem vshr (c : CoreId) (g : LaneSel) (vd va vb : VReg) : Statement (.vshr c g vd va vb) := ofPlain rfl rfl
theorem vsel (c : CoreId) (g : LaneSel) (vd va vb : VReg) (k : BitVec 3) : Statement (.vsel c g vd va vb k) := ofPlain rfl rfl
theorem vsplat (c : CoreId) (g : LaneSel) (vd : VReg) (xa : XReg) : Statement (.vsplat c g vd xa) := ofPlain rfl rfl
theorem vlidx (c : CoreId) (g : LaneSel) (vd : VReg) : Statement (.vlidx c g vd) := ofPlain rfl rfl
theorem vperm (c : CoreId) (g : LaneSel) (vd va vb : VReg) : Statement (.vperm c g vd va vb) := ofPlain rfl rfl
theorem fadd (c : CoreId) (g : LaneSel) (vd va vb : VReg) : Statement (.fadd c g vd va vb) := ofPlain rfl rfl
theorem fsub (c : CoreId) (g : LaneSel) (vd va vb : VReg) : Statement (.fsub c g vd va vb) := ofPlain rfl rfl
theorem fmul (c : CoreId) (g : LaneSel) (vd va vb : VReg) : Statement (.fmul c g vd va vb) := ofPlain rfl rfl
theorem ffma (c : CoreId) (g : LaneSel) (vd va vb vc : VReg) : Statement (.ffma c g vd va vb vc) := ofPlain rfl rfl
theorem fmin (c : CoreId) (g : LaneSel) (vd va vb : VReg) : Statement (.fmin c g vd va vb) := ofPlain rfl rfl
theorem fmax (c : CoreId) (g : LaneSel) (vd va vb : VReg) : Statement (.fmax c g vd va vb) := ofPlain rfl rfl
theorem fsgn (c : CoreId) (g : LaneSel) (vd va : VReg) (abs : Bool) : Statement (.fsgn c g vd va abs) := ofPlain rfl rfl
theorem fdiv (c : CoreId) (g : LaneSel) (vd va vb : VReg) : Statement (.fdiv c g vd va vb) := ofPlain rfl rfl
theorem fcmp (c : CoreId) (g : LaneSel) (k : BitVec 3) (va vb : VReg) (cond : BitVec 4) : Statement (.fcmp c g k va vb cond) := ofPlain rfl rfl
theorem fexp (c : CoreId) (g : LaneSel) (vd va : VReg) : Statement (.fexp c g vd va) := ofPlain rfl rfl
theorem fexp2 (c : CoreId) (g : LaneSel) (vd va : VReg) : Statement (.fexp2 c g vd va) := ofPlain rfl rfl
theorem flog (c : CoreId) (g : LaneSel) (vd va : VReg) : Statement (.flog c g vd va) := ofPlain rfl rfl
theorem flog2 (c : CoreId) (g : LaneSel) (vd va : VReg) : Statement (.flog2 c g vd va) := ofPlain rfl rfl
theorem frcp (c : CoreId) (g : LaneSel) (vd va : VReg) : Statement (.frcp c g vd va) := ofPlain rfl rfl
theorem frsq (c : CoreId) (g : LaneSel) (vd va : VReg) : Statement (.frsq c g vd va) := ofPlain rfl rfl
theorem fsqrt (c : CoreId) (g : LaneSel) (vd va : VReg) : Statement (.fsqrt c g vd va) := ofPlain rfl rfl
theorem ftanh (c : CoreId) (g : LaneSel) (vd va : VReg) : Statement (.ftanh c g vd va) := ofPlain rfl rfl
theorem fsig (c : CoreId) (g : LaneSel) (vd va : VReg) : Statement (.fsig c g vd va) := ofPlain rfl rfl
theorem ferf (c : CoreId) (g : LaneSel) (vd va : VReg) : Statement (.ferf c g vd va) := ofPlain rfl rfl
theorem fsin (c : CoreId) (g : LaneSel) (vd va : VReg) : Statement (.fsin c g vd va) := ofPlain rfl rfl
theorem fcos (c : CoreId) (g : LaneSel) (vd va : VReg) : Statement (.fcos c g vd va) := ofPlain rfl rfl
theorem cvtin (c : CoreId) (g : LaneSel) (vd va : VReg) (fmt : BitVec 5) : Statement (.cvtin c g vd va fmt) := ofPlain rfl rfl
theorem cvtout (c : CoreId) (g : LaneSel) (vd va : VReg) (fmt : BitVec 5) : Statement (.cvtout c g vd va fmt) := ofPlain rfl rfl
theorem rsuma (c : CoreId) (g : LaneSel) (vd va vb vc : VReg) (mod : BitVec 7) : Statement (.rsuma c g vd va vb vc mod) := ofPlain rfl rfl
theorem rsumt (c : CoreId) (g : LaneSel) (vd va : VReg) : Statement (.rsumt c g vd va) := ofPlain rfl rfl
theorem rmaxi (c : CoreId) (g : LaneSel) (vd va vb vc : VReg) (cont : Bool) : Statement (.rmaxi c g vd va vb vc cont) := ofPlain rfl rfl
theorem rmini (c : CoreId) (g : LaneSel) (vd va vb vc : VReg) (cont : Bool) : Statement (.rmini c g vd va vb vc cont) := ofPlain rfl rfl
theorem rngi (c : CoreId) (g : LaneSel) (vd : VReg) (xa xb : XReg) (vc : VReg) (mod : BitVec 7) : Statement (.rngi c g vd xa xb vc mod) := ofPlain rfl rfl
theorem rngl (c : CoreId) (g : LaneSel) (vd : VReg) (xb : XReg) (mod : BitVec 7) : Statement (.rngl c g vd xb mod) := ofPlain rfl rfl
theorem ldv (c : CoreId) (grp : BitVec 3) (vr : VReg) (lfmt : BitVec 3) (xb : XReg) (off : Byte) : Statement (.ldv c grp vr lfmt xb off) := ofPlain rfl rfl
theorem stv (c : CoreId) (grp : BitVec 3) (vr : VReg) (lfmt : BitVec 3) (xb : XReg) (off : Byte) : Statement (.stv c grp vr lfmt xb off) := ofPlain rfl rfl
theorem ldx (c : CoreId) (xr : XReg) (xb : XReg) (off : Byte) : Statement (.ldx c xr xb off) := ofPlain rfl rfl
theorem stx (c : CoreId) (xr : XReg) (xb : XReg) (off : Byte) : Statement (.stx c xr xb off) := ofPlain rfl rfl
theorem mdl (c : CoreId) (md : BitVec 5) (xb : XReg) (off : Byte) : Statement (.mdl c md xb off) := ofPlain rfl rfl
theorem tmv (c : CoreId) (as : ArrSlot) (xb : XReg) (off : Byte) : Statement (.tmv c as xb off) := ofPlain rfl rfl
theorem fill (c : CoreId) (as : ArrSlot) (xb : XReg) (off : Byte) : Statement (.fill c as xb off) := ofPlain rfl rfl
theorem scopy (c : CoreId) (as : ArrSlot) (xb : XReg) (off : Byte) : Statement (.scopy c as xb off) := ofPlain rfl rfl
theorem msg (c : CoreId) (as : ArrSlot) (xb : XReg) (off : Byte) : Statement (.msg c as xb off) := ofPlain rfl rfl
theorem coll (c : CoreId) (as : ArrSlot) (xb : XReg) (off : Byte) : Statement (.coll c as xb off) := ofPlain rfl rfl
theorem recv (c : CoreId) (as : ArrSlot) (xb : XReg) (off : Byte) : Statement (.recv c as xb off) := ofPlain rfl rfl
theorem mma (c : CoreId) (md : BitVec 4) (ct : BitVec 2) (k16 : Byte) (clr : Bool) : Statement (.mma c md ct k16 clr) := ofPlain rfl rfl
theorem mpre (c : CoreId) (md : BitVec 4) (ct : BitVec 2) : Statement (.mpre c md ct) := ofPlain rfl rfl
theorem mout (c : CoreId) (md : BitVec 4) (ct : BitVec 2) : Statement (.mout c md ct) := ofPlain rfl rfl
theorem mspill (c : CoreId) (ct : BitVec 2) : Statement (.mspill c ct) := ofPlain rfl rfl
theorem manch (c : CoreId) (md : BitVec 4) (ct : BitVec 2) (auto : Bool) (as : ArrSlot) : Statement (.manch c md ct auto as) := ofPlain rfl rfl
theorem csave (c : CoreId) (md : BitVec 4) (ct : BitVec 2) : Statement (.csave c md ct) := ofPlain rfl rfl
theorem cload (c : CoreId) (md : BitVec 4) (ct : BitVec 2) : Statement (.cload c md ct) := ofPlain rfl rfl
theorem tokenWindowStart (d : Die) : Statement (.tokenWindowStart d) := ofPlain rfl rfl
theorem arrivalRelease (c : CoreId) : Statement (.arrivalRelease c) := ofPlain rfl rfl
theorem slowPathDue (c : CoreId) : Statement (.slowPathDue c) := ofPlain rfl rfl
theorem slowPathDone (c : CoreId) : Statement (.slowPathDone c) := ofPlain rfl rfl
theorem wholeBlockRepeat (c : CoreId) : Statement (.wholeBlockRepeat c) := ofPlain rfl rfl
theorem moverItemStart (c : CoreId) : Statement (.moverItemStart c) := ofPlain rfl rfl
theorem moverItemComplete (c : CoreId) (eng : Fin 4) : Statement (.moverItemComplete c eng) := ofPlain rfl rfl
theorem atShelfComplete (c : CoreId) (eng : Fin 4) : Statement (.atShelfComplete c eng) := ofPlain rfl rfl
theorem shelfClear (c : CoreId) : Statement (.shelfClear c) := ofPlain rfl rfl
theorem taskStart (c : CoreId) : Statement (.taskStart c) := ofPlain rfl rfl
theorem taskEnd (c : CoreId) : Statement (.taskEnd c) := ofPlain rfl rfl
theorem overflowRingRefill (k : Slot) (lcore : Fin 2048) : Statement (.overflowRingRefill k lcore) := ofPlain rfl rfl
theorem stealProbeRound (c : CoreId) : Statement (.stealProbeRound c) := ofPlain rfl rfl
theorem probeWaitExpiry (c : CoreId) : Statement (.probeWaitExpiry c) := ofPlain rfl rfl
theorem remoteStealQuery (c : CoreId) : Statement (.remoteStealQuery c) := ofPlain rfl rfl
theorem stealReply (c : CoreId) : Statement (.stealReply c) := ofPlain rfl rfl
theorem messageDelivery : Statement .messageDelivery := ofPlain rfl rfl
theorem msgLanded (id : Nat) : Statement (.msgLanded id) := ofPlain rfl rfl
theorem msgRefusal (id : Nat) : Statement (.msgRefusal id) := ofPlain rfl rfl
theorem gridCheckDone (c : CoreId) : Statement (.gridCheckDone c) := ofPlain rfl rfl
theorem prepassLocalDone (c : CoreId) : Statement (.prepassLocalDone c) := ofPlain rfl rfl
theorem cellarRead (m : StackId) (line : BitVec 30) (errs : Nat) : Statement (.cellarRead m line errs) := ofPlain rfl rfl
theorem rowRetirementDone (m : StackId) : Statement (.rowRetirementDone m) := ofPlain rfl rfl
theorem pcMigrationDone (m : StackId) : Statement (.pcMigrationDone m) := ofPlain rfl rfl
theorem cellarWrite (m : StackId) (line : BitVec 30) (first : Fin 64) (data : List Byte) (poison : Bool) : Statement (.cellarWrite m line first data poison) := ofPlain rfl rfl
theorem cowWaitResume (m : StackId) : Statement (.cowWaitResume m) := ofPlain rfl rfl
theorem scrubLine (m : StackId) (line : BitVec 30) (errs : Nat) : Statement (.scrubLine m line errs) := ofPlain rfl rfl
theorem granuleZeroFillDone (g : Fin 1024) : Statement (.granuleZeroFillDone g) := ofPlain rfl rfl
theorem storeRoomLock (o : Origin) : Statement (.storeRoomLock o) := ofPlain rfl rfl
theorem updateStart (m : StackId) : Statement (.updateStart m) := ofPlain rfl rfl
theorem updateComplete (m : StackId) : Statement (.updateComplete m) := ofPlain rfl rfl
theorem cuLd (m : StackId) (e : BitVec 40) (d : BitVec 4) (sl : BitVec 3) : Statement (.cuLd m e d sl) := ofPlain rfl rfl
theorem cuLdw (m : StackId) (e : BitVec 40) (d : BitVec 4) (sl : BitVec 3) : Statement (.cuLdw m e d sl) := ofPlain rfl rfl
theorem cuSt (m : StackId) (e : BitVec 40) (a : BitVec 5) (sl : BitVec 3) : Statement (.cuSt m e a sl) := ofPlain rfl rfl
theorem cuStw (m : StackId) (e : BitVec 40) (a : BitVec 5) (sl : BitVec 3) : Statement (.cuStw m e a sl) := ofPlain rfl rfl
theorem cuMov (m : StackId) (e : BitVec 40) (d : BitVec 4) (a : BitVec 5) : Statement (.cuMov m e d a) := ofPlain rfl rfl
theorem cuAdd (m : StackId) (e : BitVec 40) (d : BitVec 4) (a b : BitVec 5) : Statement (.cuAdd m e d a b) := ofPlain rfl rfl
theorem cuSub (m : StackId) (e : BitVec 40) (d : BitVec 4) (a b : BitVec 5) : Statement (.cuSub m e d a b) := ofPlain rfl rfl
theorem cuMul (m : StackId) (e : BitVec 40) (d : BitVec 4) (a b : BitVec 5) : Statement (.cuMul m e d a b) := ofPlain rfl rfl
theorem cuFma (m : StackId) (e : BitVec 40) (d : BitVec 4) (a b c : BitVec 5) : Statement (.cuFma m e d a b c) := ofPlain rfl rfl
theorem cuDiv (m : StackId) (e : BitVec 40) (d : BitVec 4) (a b : BitVec 5) : Statement (.cuDiv m e d a b) := ofPlain rfl rfl
theorem cuSqrt (m : StackId) (e : BitVec 40) (d : BitVec 4) (a : BitVec 5) : Statement (.cuSqrt m e d a) := ofPlain rfl rfl
theorem cuMin (m : StackId) (e : BitVec 40) (d : BitVec 4) (a b : BitVec 5) : Statement (.cuMin m e d a b) := ofPlain rfl rfl
theorem cuMax (m : StackId) (e : BitVec 40) (d : BitVec 4) (a b : BitVec 5) : Statement (.cuMax m e d a b) := ofPlain rfl rfl
theorem cuNeg (m : StackId) (e : BitVec 40) (d : BitVec 4) (a : BitVec 5) : Statement (.cuNeg m e d a) := ofPlain rfl rfl
theorem cuAbs (m : StackId) (e : BitVec 40) (d : BitVec 4) (a : BitVec 5) : Statement (.cuAbs m e d a) := ofPlain rfl rfl
theorem cuSgn (m : StackId) (e : BitVec 40) (d : BitVec 4) (a : BitVec 5) : Statement (.cuSgn m e d a) := ofPlain rfl rfl
theorem cuClt (m : StackId) (e : BitVec 40) (d : BitVec 4) (a b : BitVec 5) : Statement (.cuClt m e d a b) := ofPlain rfl rfl
theorem cuSel (m : StackId) (e : BitVec 40) (d : BitVec 4) (a b c : BitVec 5) : Statement (.cuSel m e d a b c) := ofPlain rfl rfl
theorem cuAxpby (m : StackId) (e : BitVec 40) (d : BitVec 4) (a b c : BitVec 5) : Statement (.cuAxpby m e d a b c) := ofPlain rfl rfl
theorem cuEmasq (m : StackId) (e : BitVec 40) (d : BitVec 4) (a b c : BitVec 5) : Statement (.cuEmasq m e d a b c) := ofPlain rfl rfl
theorem cuAdir (m : StackId) (e : BitVec 40) (d : BitVec 4) (a b c : BitVec 5) : Statement (.cuAdir m e d a b c) := ofPlain rfl rfl
theorem cuEnd (m : StackId) (e : BitVec 40) : Statement (.cuEnd m e) := ofPlain rfl rfl
theorem frontStageStart (d : Die) : Statement (.frontStageStart d) := ofPlain rfl rfl
theorem factorisationStart (d : Die) : Statement (.factorisationStart d) := ofPlain rfl rfl
theorem solverMatrixDone (d : Die) : Statement (.solverMatrixDone d) := ofPlain rfl rfl
theorem stepBegin (k : Slot) : Statement (.stepBegin k) := ofPlain rfl rfl
theorem stepCommit (k : Slot) : Statement (.stepCommit k) := ofPlain rfl rfl
theorem tlyRingTailWrite (o : Origin) (k : Slot) (tail : Imm16) : Statement (.tlyRingTailWrite o k tail) := ofPlain rfl rfl
theorem stepCloseContribute (k : Slot) : Statement (.stepCloseContribute k) := ofPlain rfl rfl
theorem stepCloseAgreed (k : Slot) : Statement (.stepCloseAgreed k) := ofPlain rfl rfl
theorem replayStartAgreed (k : Slot) : Statement (.replayStartAgreed k) := ofPlain rfl rfl
theorem auditCompare (c : CoreId) : Statement (.auditCompare c) := ofPlain rfl rfl
theorem marginRunStart (u : UnitRef) (row : Fin 6) : Statement (.marginRunStart u row) := ofPlain rfl rfl
theorem marginRunDone (u : UnitRef) (passed : List Bool) : Statement (.marginRunDone u passed) := ofPlain rfl rfl
theorem mtCopyCorrection (d : Die) : Statement (.mtCopyCorrection d) := ofPlain rfl rfl
theorem exchangeRequestSend (p : PortId) : Statement (.exchangeRequestSend p) := ofPlain rfl rfl
theorem exchangeRequestReceive (p : PortId) (body : List Byte) (resent : Bool) : Statement (.exchangeRequestReceive p body resent) := ofPlain rfl rfl
theorem exchangeReplyReceive (p : PortId) (body : List Byte) (resent : Bool) : Statement (.exchangeReplyReceive p body resent) := ofPlain rfl rfl
theorem offScheduleRejoin : Statement .offScheduleRejoin := ofPlain rfl rfl
theorem ppsEdge : Statement .ppsEdge := ofPlain rfl rfl
theorem ppsMissTimeout : Statement .ppsMissTimeout := ofPlain rfl rfl
theorem slotEntryWrite (o : Origin) (p : PortId) (e : Fin 64) (second : Bool) (v : Word) : Statement (.slotEntryWrite o p e second v) := ofPlain rfl rfl
theorem frameBoundary : Statement .frameBoundary := ofPlain rfl rfl
theorem slotFrameSend (p : PortId) (e : Fin 64) : Statement (.slotFrameSend p e) := ofPlain rfl rfl
theorem slotFrameReceive (p : PortId) (e : Fin 64) (first last : DWord) (frame : List Byte) : Statement (.slotFrameReceive p e first last frame) := ofFrame rfl rfl rfl
theorem slotOccurrenceStart (p : PortId) (e : Fin 64) : Statement (.slotOccurrenceStart p e) := ofPlain rfl rfl
theorem frameReceive (p : PortId) (frame : List Byte) : Statement (.frameReceive p frame) := ofFrame rfl rfl rfl
theorem markerSend (p : PortId) : Statement (.markerSend p) := ofPlain rfl rfl
theorem markerReceive (p : PortId) (width8 : Bool) (subst : BitVec 4) : Statement (.markerReceive p width8 subst) := ofPlain rfl rfl
theorem frameSlotArbitration (p : PortId) : Statement (.frameSlotArbitration p) := ofPlain rfl rfl
theorem retryTimeout (p : PortId) (vc : Fin 8) : Statement (.retryTimeout p vc) := ofPlain rfl rfl
theorem laneLoss (p : PortId) (lane : Fin 9) : Statement (.laneLoss p lane) := ofPlain rfl rfl
theorem trainingAttemptEnd (p : PortId) (r : TrainResult) : Statement (.trainingAttemptEnd p r) := ofPlain rfl rfl
theorem trainingRetryTimer (p : PortId) : Statement (.trainingRetryTimer p) := ofPlain rfl rfl
theorem presenceChange (p : PortId) (present : Bool) : Statement (.presenceChange p present) := ofPlain rfl rfl
theorem serviceButtonPress : Statement .serviceButtonPress := ofPlain rfl rfl
theorem drainTimeout (p : PortId) : Statement (.drainTimeout p) := ofPlain rfl rfl
theorem attnTrainedExpiry (p : PortId) : Statement (.attnTrainedExpiry p) := ofPlain rfl rfl
theorem svcMarkWrite (o : Origin) (p : PortId) (mark : Bool) : Statement (.svcMarkWrite o p mark) := ofPlain rfl rfl
theorem fiArm (o : Origin) (p : PortId) (v : Word) : Statement (.fiArm o p v) := ofPlain rfl rfl
theorem packetForward (p : PortId) : Statement (.packetForward p) := ofPlain rfl rfl
theorem packetDeliver : Statement .packetDeliver := ofPlain rfl rfl
theorem e2eAckSend (k : FlowKey) : Statement (.e2eAckSend k) := ofPlain rfl rfl
theorem e2eNakSend (k : FlowKey) : Statement (.e2eNakSend k) := ofPlain rfl rfl
theorem e2eAckReceive (body : List Byte) : Statement (.e2eAckReceive body) := ofPlain rfl rfl
theorem e2eNakReceive (body : List Byte) : Statement (.e2eNakReceive body) := ofPlain rfl rfl
theorem e2eResendTimeout (k : FlowKey) : Statement (.e2eResendTimeout k) := ofPlain rfl rfl
theorem destUnreachable (node : NodeId) : Statement (.destUnreachable node) := ofPlain rfl rfl
theorem collectiveStart : Statement .collectiveStart := ofPlain rfl rfl
theorem collectiveComplete (cctx : BitVec 10) (seq : Word) (step : DWord) : Statement (.collectiveComplete cctx seq step) := ofPlain rfl rfl
theorem collAbortReceive (body : List Byte) : Statement (.collAbortReceive body) := ofPlain rfl rfl
theorem agreementComplete (cctx : BitVec 10) (seq : Word) (step : DWord) : Statement (.agreementComplete cctx seq step) := ofPlain rfl rfl
theorem streamPageSend (k : Slot) : Statement (.streamPageSend k) := ofPlain rfl rfl
theorem buddyStreamReceive (src : NodeId) (off : DWord) (data : List Byte) (poison : List Bool) (last : Bool) : Statement (.buddyStreamReceive src off data poison last) := ofPlain rfl rfl
theorem fsStreamChunk (k : Slot) : Statement (.fsStreamChunk k) := ofPlain rfl rfl
theorem restoreComplete (k : Slot) : Statement (.restoreComplete k) := ofPlain rfl rfl
theorem moveComplete : Statement .moveComplete := ofPlain rfl rfl
theorem savedTaskResume (c : CoreId) : Statement (.savedTaskResume c) := ofPlain rfl rfl
theorem contextIdle (k : Slot) : Statement (.contextIdle k) := ofPlain rfl rfl
theorem stowComplete (k : Slot) : Statement (.stowComplete k) := ofPlain rfl rfl
theorem unstowComplete (k : Slot) : Statement (.unstowComplete k) := ofPlain rfl rfl
theorem flr (f : Fn) : Statement (.flr f) := ofPlain rfl rfl
theorem pcieHotReset : Statement .pcieHotReset := ofPlain rfl rfl
theorem mbInWrite (f : Fn) (n : Fin 16) (v : Word) : Statement (.mbInWrite f n v) := ofPlain rfl rfl
theorem mbGo (f : Fn) (v : Word) : Statement (.mbGo f v) := ofPlain rfl rfl
theorem mailboxTake (f : Fn) : Statement (.mailboxTake f) := ofPlain rfl rfl
theorem mbOstatAck (f : Fn) (v : Word) : Statement (.mbOstatAck f v) := ofPlain rfl rfl
theorem ringSqDoorbell (f : Fn) (r : Fin 4) (v : Word) : Statement (.ringSqDoorbell f r v) := ofPlain rfl rfl
theorem ringCqDoorbell (f : Fn) (r : Fin 4) (v : Word) : Statement (.ringCqDoorbell f r v) := ofPlain rfl rfl
theorem ringEnable (f : Fn) (r : Fin 4) (v : Word) : Statement (.ringEnable f r v) := ofPlain rfl rfl
theorem commandTake : Statement .commandTake := ofPlain rfl rfl
theorem commandComplete (src : CmdSrc) (tag : Imm16) : Statement (.commandComplete src tag) := ofPlain rfl rfl
theorem nopCmd (src : CmdSrc) (pk : Packet) : Statement (.nopCmd src pk) := ofPacket rfl rfl rfl
theorem getInfo (src : CmdSrc) (pk : Packet) : Statement (.getInfo src pk) := ofPacket rfl rfl rfl
theorem readEvents (src : CmdSrc) (pk : Packet) : Statement (.readEvents src pk) := ofPacket rfl rfl rfl
theorem readLog (src : CmdSrc) (pk : Packet) : Statement (.readLog src pk) := ofPacket rfl rfl rfl
theorem regAccess (src : CmdSrc) (pk : Packet) : Statement (.regAccess src pk) := ofPacket rfl rfl rfl
theorem telemetry (src : CmdSrc) (pk : Packet) : Statement (.telemetry src pk) := ofPacket rfl rfl rfl
theorem fnQuota (src : CmdSrc) (pk : Packet) : Statement (.fnQuota src pk) := ofPacket rfl rfl rfl
theorem bind (src : CmdSrc) (pk : Packet) : Statement (.bind src pk) := ofPacket rfl rfl rfl
theorem unbind (src : CmdSrc) (pk : Packet) : Statement (.unbind src pk) := ofPacket rfl rfl rfl
theorem moveGroup (src : CmdSrc) (pk : Packet) : Statement (.moveGroup src pk) := ofPacket rfl rfl rfl
theorem halt (src : CmdSrc) (pk : Packet) : Statement (.halt src pk) := ofPacket rfl rfl rfl
theorem holdRegister (src : CmdSrc) (pk : Packet) : Statement (.holdRegister src pk) := ofPacket rfl rfl rfl
theorem memMap (src : CmdSrc) (pk : Packet) : Statement (.memMap src pk) := ofPacket rfl rfl rfl
theorem memRead (src : CmdSrc) (pk : Packet) : Statement (.memRead src pk) := ofPacket rfl rfl rfl
theorem memWrite (src : CmdSrc) (pk : Packet) : Statement (.memWrite src pk) := ofPacket rfl rfl rfl
theorem loadImage (src : CmdSrc) (pk : Packet) : Statement (.loadImage src pk) := ofPacket rfl rfl rfl
theorem postStep (src : CmdSrc) (pk : Packet) : Statement (.postStep src pk) := ofPacket rfl rfl rfl
theorem replay (src : CmdSrc) (pk : Packet) : Statement (.replay src pk) := ofPacket rfl rfl rfl
theorem resume (src : CmdSrc) (pk : Packet) : Statement (.resume src pk) := ofPacket rfl rfl rfl
theorem realign (src : CmdSrc) (pk : Packet) : Statement (.realign src pk) := ofPacket rfl rfl rfl
theorem ucodeLoad (src : CmdSrc) (pk : Packet) : Statement (.ucodeLoad src pk) := ofPacket rfl rfl rfl
theorem updRegister (src : CmdSrc) (pk : Packet) : Statement (.updRegister src pk) := ofPacket rfl rfl rfl
theorem updDeregister (src : CmdSrc) (pk : Packet) : Statement (.updDeregister src pk) := ofPacket rfl rfl rfl
theorem updFire (src : CmdSrc) (pk : Packet) : Statement (.updFire src pk) := ofPacket rfl rfl rfl
theorem solvRegister (src : CmdSrc) (pk : Packet) : Statement (.solvRegister src pk) := ofPacket rfl rfl rfl
theorem solvDeregister (src : CmdSrc) (pk : Packet) : Statement (.solvDeregister src pk) := ofPacket rfl rfl rfl
theorem cctxCreate (src : CmdSrc) (pk : Packet) : Statement (.cctxCreate src pk) := ofPacket rfl rfl rfl
theorem cctxDestroy (src : CmdSrc) (pk : Packet) : Statement (.cctxDestroy src pk) := ofPacket rfl rfl rfl
theorem timeSet (src : CmdSrc) (pk : Packet) : Statement (.timeSet src pk) := ofPacket rfl rfl rfl
theorem portRetrain (src : CmdSrc) (pk : Packet) : Statement (.portRetrain src pk) := ofPacket rfl rfl rfl
theorem portUnlock (src : CmdSrc) (pk : Packet) : Statement (.portUnlock src pk) := ofPacket rfl rfl rfl
theorem fsRing (src : CmdSrc) (pk : Packet) : Statement (.fsRing src pk) := ofPacket rfl rfl rfl
theorem checkpoint (src : CmdSrc) (pk : Packet) : Statement (.checkpoint src pk) := ofPacket rfl rfl rfl
theorem restore (src : CmdSrc) (pk : Packet) : Statement (.restore src pk) := ofPacket rfl rfl rfl
theorem lockSet (src : CmdSrc) (pk : Packet) : Statement (.lockSet src pk) := ofPacket rfl rfl rfl
theorem debugChallenge (src : CmdSrc) (pk : Packet) : Statement (.debugChallenge src pk) := ofPacket rfl rfl rfl
theorem debugUnlock (src : CmdSrc) (pk : Packet) : Statement (.debugUnlock src pk) := ofPacket rfl rfl rfl
theorem debugLock (src : CmdSrc) (pk : Packet) : Statement (.debugLock src pk) := ofPacket rfl rfl rfl
theorem retireUnit (src : CmdSrc) (pk : Packet) : Statement (.retireUnit src pk) := ofPacket rfl rfl rfl
theorem setPower (src : CmdSrc) (pk : Packet) : Statement (.setPower src pk) := ofPacket rfl rfl rfl
theorem failover (src : CmdSrc) (pk : Packet) : Statement (.failover src pk) := ofPacket rfl rfl rfl
theorem heartbeatTick : Statement .heartbeatTick := ofPlain rfl rfl
theorem mgmtWatchdogFailover : Statement .mgmtWatchdogFailover := ofPlain rfl rfl
theorem standbyDead : Statement .standbyDead := ofPlain rfl rfl
theorem shedLevelEval (busy : BitVec 7) : Statement (.shedLevelEval busy) := ofPlain rfl rfl
theorem logMirrorCopy : Statement .logMirrorCopy := ofPlain rfl rfl
theorem mctpRequest (eid : Byte) (pk : Packet) : Statement (.mctpRequest eid pk) := ofPacket rfl rfl rfl
theorem mctpControlMessage (eid cmd : Byte) (data : List Byte) : Statement (.mctpControlMessage eid cmd data) := ofPlain rfl rfl
theorem jtagIdcode : Statement .jtagIdcode := ofPlain rfl rfl
theorem jtagSamplePreload (scan : List Bool) : Statement (.jtagSamplePreload scan) := ofPlain rfl rfl
theorem jtagExtest (scan : List Bool) : Statement (.jtagExtest scan) := ofPlain rfl rfl
theorem jtagClamp : Statement .jtagClamp := ofPlain rfl rfl
theorem jtagHighz : Statement .jtagHighz := ofPlain rfl rfl
theorem jtagRegacc (dr : BitVec 66) : Statement (.jtagRegacc dr) := ofPlain rfl rfl
theorem jtagBypass : Statement .jtagBypass := ofPlain rfl rfl
theorem monitorWindow (src : ClkSrc) (count : Nat) : Statement (.monitorWindow src count) := ofPlain rfl rfl
theorem holdoverTimeout (n : Fin 79) : Statement (.holdoverTimeout n) := ofPlain rfl rfl
theorem pllRelock (n : Fin 79) : Statement (.pllRelock n) := ofPlain rfl rfl
theorem soscTrim (ppm : Imm16) : Statement (.soscTrim ppm) := ofPlain rfl rfl
theorem clkDomWrite (o : Origin) (n : Fin 79) (v : Word) : Statement (.clkDomWrite o n v) := ofPlain rfl rfl
theorem atticMiscompare : Statement .atticMiscompare := ofPlain rfl rfl
theorem atticSelfCheckDone (failed : Bool) : Statement (.atticSelfCheckDone failed) := ofPlain rfl rfl
theorem throttleTick (tj vcore : List Nat) (watts : Nat) : Statement (.throttleTick tj vcore watts) := ofPlain rfl rfl
theorem dieOvertemp (d : Die) (tj : BitVec 12) : Statement (.dieOvertemp d tj) := ofPlain rfl rfl
theorem dieResetRelease (d : Die) : Statement (.dieResetRelease d) := ofPlain rfl rfl
theorem supplyLost (r : Rail) : Statement (.supplyLost r) := ofPlain rfl rfl
theorem railPresent (r : Rail) : Statement (.railPresent r) := ofPlain rfl rfl
theorem dieIdleEntry (d : Die) : Statement (.dieIdleEntry d) := ofPlain rfl rfl
theorem coldStart (straps : BitVec 2) : Statement (.coldStart straps) := ofPlain rfl rfl
theorem startupPhaseComplete (b : BootInfo) : Statement (.startupPhaseComplete b) := ofPlain rfl rfl
theorem perstRelease : Statement .perstRelease := ofPlain rfl rfl
theorem perstAssert : Statement .perstAssert := ofPlain rfl rfl
theorem firmwareAuthDone (a : AuthResult) : Statement (.firmwareAuthDone a) := ofPlain rfl rfl
theorem alertStuckDetect : Statement .alertStuckDetect := ofPlain rfl rfl
theorem alertReleaseHigh : Statement .alertReleaseHigh := ofPlain rfl rfl
theorem trayAlert : Statement .trayAlert := ofPlain rfl rfl
theorem smbBusClear (freed : Bool) : Statement (.smbBusClear freed) := ofPlain rfl rfl
theorem smbRetry (o : Origin) : Statement (.smbRetry o) := ofPlain rfl rfl
theorem alertMctp (o : Origin) (on : Bool) : Statement (.alertMctp o on) := ofPlain rfl rfl
theorem svcButtonStuck : Statement .svcButtonStuck := ofPlain rfl rfl
theorem presenceFlap (p : PortId) : Statement (.presenceFlap p) := ofPlain rfl rfl
theorem flowEntryReclaim (k : FlowKey) : Statement (.flowEntryReclaim k) := ofPlain rfl rfl
theorem holdoverErrorCrossesFourGuards : Statement .holdoverErrorCrossesFourGuards := ofPlain rfl rfl
theorem flowHeldOver1Ms (k : FlowKey) : Statement (.flowHeldOver1Ms k) := ofPlain rfl rfl
theorem moveBeyond3Ms : Statement .moveBeyond3Ms := ofPlain rfl rfl
theorem frameSlotShareWindowEnd (p : PortId) : Statement (.frameSlotShareWindowEnd p) := ofPlain rfl rfl
theorem soscReadyTimeout : Statement .soscReadyTimeout := ofPlain rfl rfl
theorem time10mLost : Statement .time10mLost := ofPlain rfl rfl
theorem time10mReturn : Statement .time10mReturn := ofPlain rfl rfl
theorem presenceFlapEnd (p : PortId) : Statement (.presenceFlapEnd p) := ofPlain rfl rfl
theorem jtagTestLogicReset : Statement .jtagTestLogicReset := ofPlain rfl rfl
theorem commandQueuedReply (src : CmdSrc) (tag : Imm16) : Statement (.commandQueuedReply src tag) := ofPlain rfl rfl
theorem parkedExitComplete : Statement .parkedExitComplete := ofPlain rfl rfl

end Sys2Proof.Laws.Operands
end

