-- ==== Sys2Proof/Tests/Slice0.lean ====
section
/-! SUPPORT. Own tests: an ill-formed term for each check of WellFormed, values written out from the spec, and for each
statement states and operands that meet its hypotheses. -/

namespace Sys2Proof.Tests

open Sys2Proof Sys2Proof.Machine

set_option Elab.async false

/-! ## Small states -/

/-- A task of 100 threads with logical base 0x1000, entry bundle 0, in slot `k`. -/
def task0 (k : Nat) : Task :=
  { desc := { entry := 0, threads := 100, lbase := 0x1000, steal := 0, gate := 0xFFFF, gateN := 0, signal := 3, target := 0
              taskId := 7, params := [11, 22, 33] }
    slot := k, step := 5, home := 0, tried := [], saved := none, poison := false, posted := false }

/-- A run of `task0` with nothing noted yet. -/
def run0 (k : Nat) : Run :=
  { task := task0 k, startCyc := 0, frozen := 0, stolen := false, unsafeRegion := false, repeatPc := 0, repeatX := []
    repeatLoops := [], poisonUsed := false, tens := [], regionTens := [], taskTally := 0, regionTally := 0, checks := []
    prepasses := [], regionTiles := [], tags := [], issued := [], sent := [], audit := none, isAudit := false, orig := 0, refTally := none, ended := false }

/-- An image of eight empty bundles on core 0. -/
def image0 : Image := { code := List.replicate 8 0, consts := [], tensors := [], ovfTasks := 0, usesRngl := false, phys := [0] }

/-- The context of slot 0: core group 0, granule 0, the image, step 5 posted. -/
def ctx0 : Ctx := { Ctx.empty with groups := [0], granules := [0], weights := [(0, 128)], image := some image0, lastPosted := some 5 }

/-- Fields set one after another. -/
def sets (l : List (Fld × Nat × Nat × Nat)) (s : State) : State := l.foldl (fun a e => fset e.1 e.2.1 e.2.2.1 e.2.2.2 a) s

/-- A device whose stacks are in service, whose identity is set and whose die 0 is active. -/
def up : State := sets [(F.GBL_UNITS.STACK_OK, 0, 0, 0xFFFF), (F.GBL_EDITION.VALID, 0, 0, 1), (F.DIE_PWR.STATE, 0, 0, 0)] State.reset

/-- Slot 0 bound to `x`; core 0 serves its logical core 0. -/
def boundTo (x : Ctx) : State :=
  setCtx 0 x (sets [(F.CTX_STAT.STATE, 0, 0, 1), (F.CORE_STAT.CTX, 0, 0, 0), (F.CORE_STAT.LCORE, 0, 0, 0), (F.CORE_STAT.STATE, 0, 0, 1)] up)

/-- Slot 0 bound, with its image. -/
def bound : State := boundTo ctx0

/-- A core that runs `task0` with X1 = 5, X2 = −1, X3 = 0x1000. -/
def core0 : Core := { Core.empty with run := some (run0 0), x := [(1, 5), (2, 0xFFFFFFFFFFFFFFFF), (3, 0x1000)] }

/-- `s` with core 0 as `k`, running. -/
def withCore (k : Core) (s : State) : State := setCore 0 k (setCstat F.CORE_STAT.STATE 0 2 s)

/-- Core 0 runs `task0`. -/
def running : State := withCore core0 bound

/-- Core 0 issues each of these bundles. -/
def allIssue (s : State) (l : List Bundle) : Bool := l.all (fun b => issues 0 b s)

/-- A core's shelf with bytes `bs` at `a`, their lines marked. -/
def withShelf (a : Nat) (bs : List Byte) (k : Core) : Core :=
  (linePieces a bs.length).foldl (fun q p => linePut p.1 ((bs.drop (p.1 - a)).take p.2) false 0 q) k

/-- 64 bytes that begin with `bs`. -/
def line64 (bs : List Byte) : List Byte := padTo 64 bs

/-- The outcome is the refusal of a reserved form. -/
def refuses (o : Host.Outcome State Fault Refusal) : Bool := match o with | .refused .reservedForm => true | _ => false

/-- What holds of the next state; false where there is none. -/
def after (o : Host.Outcome State Fault Refusal) (p : State → Bool) : Bool := match o with | .next t => p t | _ => false

/-! ## Slots of a bundle: states that issue -/

theorem witness_ScalarArithmetic : allIssue running
    ([AluOp.add, .sub, .and, .or, .xor, .shl, .shr, .sra, .mul, .cmplt, .cmpltu, .cmpeq].map (fun o => ctlB (.alu o 31 1 2)) ++
      [ctlB (.addi 1 1 0x8000), ctlB (.li 1 0xFFFF), ctlB (.shli 1 1 63), ctlB (.lih 1 1 0xFFFF)]) = true := by decide +kernel

/-- The context of slot 0, in portable mode. -/
def runningP : State := sets [(F.CTX_STAT.MODE, 0, 0, 1)] running

theorem witness_ScalarReads : (coreOf running 0).run = some (run0 0) ∧ ctxOf running 0 = some ctx0 ∧
    allIssue running [ctlB (.lidx 1 0xFFFF), ctlB (.rdcnt 1), ctlB (.rdpar 1 2), ctlB (.rdobs 1 0x10)] = true ∧
    obsSelectors.contains 0x10 = true ∧ portable running 0 = false ∧ portable runningP 0 = true ∧
    issues 0 (ctlB (.rdobs 1 0x10)) runningP = true := by decide +kernel

theorem witness_Branches : allIssue running [ctlB (.br 3), ctlB (.bz 0 3), ctlB (.bnz 1 (-1)), ctlB (.loop 1 2)] = true ∧
    xGet (issuing 0 running) 0 = 0 ∧ xGet (issuing 0 running) 1 ≠ 0 ∧ (issuing 0 running).branch = none ∧
    refuses (exec (.loopOp 0 1 0) running) = true := by decide +kernel

/-- A task descriptor at 0x1000 on core 0's shelf. -/
def spawning : State := withCore (withShelf 0x1000 (taskDescBytes { (task0 0).desc with params := List.replicate 32 0 }) core0) bound

theorem witness_ControlPoints : allIssue running [ctlB (.wait true 0xFFFF), ctlB (.fence 2), ctlB .mark, ctlB .fin] = true ∧
    (coreOf running 0).run = some (run0 0) ∧ fetch running (coreOf running 0) = some Bundle.none ∧
    issues 0 Bundle.none running = true := by decide +kernel

theorem witness_ControlPoints_spawn :
    let g := shelfGet (charged 0 (ctlB (.spawn 3 2)) spawning) 0 0x1000 192
    issues 0 (ctlB (.spawn 3 2)) spawning = true ∧ issues 0 (ctlB (.spawn 3 1)) spawning = true ∧ g.poison = false ∧ g.bad = none ∧
      taskDescOk 8 g.bytes = true ∧ (taskDescOf g.bytes).target < boundCount ctx0 ∧ (∀ pooled, taskFits ctx0 0 pooled = true) ∧
      (ctxOf (charged 0 (ctlB (.spawn 3 2)) spawning) 0).map (·.image) = some (some image0) := by decide +kernel

/-- Slot 0 bound to a one-bundle image. -/
def coded (w : BitVec 128) (x : Ctx) : State := boundTo { x with image := some { image0 with code := [w] } }

theorem witness_IssueFreezes :
    (let b : BitVec 128 := 0xA0000001000000000000000000000000#128
     let s := withCore { core0 with arr := [(0, 1)] } (coded b ctx0)
     mayIssue 0 s = true ∧ fetch s (coreOf s 0) = some (ctlB (.wait false 1)) ∧ arrived 0 (ctlB (.wait false 1)) s = false) ∧
    (let b : BitVec 128 := 0x00000000200000000000000000000000#128
     let s := withCore core0 (coded b { ctx0 with tokens := [(0, 0)] })
     mayIssue 0 s = true ∧ fetch s (coreOf s 0) = some (vecB { Vec.none with op := .fadd }) ∧
       arrived 0 (vecB { Vec.none with op := .fadd }) s = true ∧ funded 0 (vecB { Vec.none with op := .fadd }) s = false) ∧
    (let b : BitVec 128 := 0x00000000000000000000000006300000#128
     let s := withCore core0 (coded b ctx0)
     mayIssue 0 s = true ∧ fetch s (coreOf s 0) = some (matB { Mat.none with op := .csave, md := 3 }) ∧
       arrived 0 (matB { Mat.none with op := .csave, md := 3 }) s = true ∧
       funded 0 (matB { Mat.none with op := .csave, md := 3 }) s = true ∧
       faultOf (issuing 0 s) (matB { Mat.none with op := .csave, md := 3 }) = some 6) := by decide +kernel

/-- Every vector operation issues, the forms at the end of their ranges among them. -/
theorem witness_Vector : taskOf 0 running = some (run0 0) ∧ allIssue running
    ([VOp.vmov, .vand, .vor, .vxor, .viadd, .visub, .vshl, .vshr, .vsel, .vsplat, .vperm, .fadd, .fsub, .fmul, .ffma, .fmin,
      .fmax, .fsgn, .fdiv, .fexp, .fexp2, .flog, .flog2, .frcp, .frsq, .fsqrt, .ftanh, .fsig, .ferf, .fsin, .fcos, .rsumt].map
        (fun o => vecB { Vec.none with op := o, vd := 31, va := 1, vb := 2 }) ++
      [vecB { Vec.none with op := .vlidx, vd := 30 }, vecB { Vec.none with op := .fcmp, md := 7 + 8 * 6 },
       vecB { Vec.none with op := .cvtin, md := 6 }, vecB { Vec.none with op := .cvtout, md := 6 },
       vecB { Vec.none with op := .rsuma, vd := 29, vc := 29, md := 1 }, vecB { Vec.none with op := .rsuma, vc := 29, md := 2 },
       vecB { Vec.none with op := .rmaxi, vd := 29 }, vecB { Vec.none with op := .rmini, vd := 29, md := 1 }]) = true ∧
    vecBad { vec3 .rsuma ⟨0, 0⟩ 29 0 0 with vc := 29, md := 1 } = 0 ∧ vecBad { vec3 .rsuma ⟨0, 0⟩ 0 0 0 with md := 3 } ≠ 0 := by
  decide +kernel

/-- Operands that the spec reserves are refused by name. -/
theorem test_reserved_forms :
    refuses (exec (.vlidx 0 ⟨0, 0⟩ 31) running) = true ∧ refuses (exec (.fcmp 0 ⟨0, 0⟩ 0 1 2 0) running) = true ∧
    refuses (exec (.fcmp 0 ⟨0, 0⟩ 1 1 2 7) running) = true ∧ refuses (exec (.cvtin 0 ⟨0, 0⟩ 1 2 7) running) = true ∧
    refuses (exec (.rmaxi 0 ⟨0, 0⟩ 30 1 2 3 false) running) = true ∧
    refuses (exec (.fence 0 3) running) = true ∧ refuses (exec (.spawn 0 3 7) running) = true ∧
    refuses (exec (.rdobs 0 1 0x20) running) = true ∧ refuses (exec (.mdl 0 16 3 0) running) = true ∧
    refuses (exec (.ldv 0 0 1 7 3 0) running) = true := by decide +kernel

/-- Core 0 with X4 = a reserved stream and lane states of a good and of a reserved stream. -/
def drawing (e : DWord) : State := withCore { core0 with x := [(1, 5), (4, 0xFFFF000000)], gen := [(0, e)] } bound

theorem witness_VectorDraws :
    let vi := { Vec.none with op := VOp.rngi, vd := 31, va := 1, vb := 1, vc := 30, md := 1 }
    let vl := { Vec.none with op := VOp.rngl, vd := 31, vb := 1, md := 1 }
    issues 0 (vecB vi) (drawing 0) = true ∧ issues 0 (vecB { vi with vb := 4 }) (drawing 0) = true ∧ vecBad vi = 0 ∧
    vecBad { vi with md := 5 } ≠ 0 ∧ vecBad { vl with md := 5 } ≠ 0 ∧ (xGet (issuing 0 (drawing 0)) 4).toNat / 2 ^ 16 % 2 ^ 24 = 0xFFFF00 ∧
    (lanesOn (issuing 0 (drawing 0)) (run0 0) 0 0).any (fun j => vPois (issuing 0 (drawing 0)) 0 j 30) = false ∧
    issues 0 (vecB vl) (drawing 0xFFFEFFFFFF) = true ∧ (genNext 0xFFFEFFFFFF).2 = true ∧ vecBad vl = 0 ∧
    (lanesOn (issuing 0 (drawing 0xFFFEFFFFFF)) (run0 0) 0 0).all
      (fun j => (mapGet 0 (issuing 0 (drawing 0xFFFEFFFFFF)).gen j).toNat / 2 ^ 16 % 2 ^ 24 < 0xFFFF00) = true ∧
    issues 0 (vecB vl) (drawing 0xFFFF000000) = true := by decide +kernel

/-- Bytes 1 to 64 at 0x1000; X5 points at a constant line of a one-constant image. -/
def shelved : State :=
  withCore (withShelf 0x1000 ((List.range 64).map by8) { core0 with x := [(3, 0x1000), (5, 0)] })
    (boundTo { ctx0 with image := some { image0 with consts := [line64 [1]] } })

theorem witness_MoveLoadsStores :
    let m := fun (op : XOp) => { Mov.none with op := op, xb := 3, reg := 1 }
    allIssue shelved ([XOp.ldv, .ldx, .mdl, .stv, .stx].map (fun op => movB (m op))) = true ∧
    issues 0 (movB { m .stv with lfmt := 6 }) shelved = true ∧
    issues 0 (movB { m .stx with xb := 5 }) shelved = true ∧ hitsConst shelved 0 0 8 = true ∧
    hitsConst shelved 0 0x1000 64 = false ∧ (shelfGet shelved 0 0x1000 64).bad = none ∧
    (shelfGet shelved 0 0x1000 64).poison = false ∧
    (((lfmtLanes 0).1.zipIdx.filter (fun e => laneOn core0 (run0 0) 0 0 e.1)).length * (lfmtLanes 0).2,
      ((lfmtLanes 0).1.zipIdx.filter (fun e => laneOn core0 (run0 0) 1 0 (e.1 + 32))).length * (lfmtLanes 0).2) = (64, 16) := by
  decide +kernel

/-! ## Items of the move slot, the matrix slot and the movers -/

/-- A barrier over two devices as slot 0's collective context 1, sequence 1, by one local core (R317). -/
def barrier : List Byte := line64 (leBytes 6 6 ++ leBytes 2 1 ++ leBytes 2 1 ++ leBytes 2 0 ++ leBytes 4 1)

/-- Collective context 1 of slot 0 with the nodes 0 and 9. -/
def grouped (s : State) : State := { s with cctxs := [(1, { slot := 0, portable := false, isStep := false, members := [0, 9] })] }

theorem witness_MoveItems :
    let m := fun (op : XOp) => { Mov.none with op := op, xb := 3, reg := 31 }
    let res := line64 [0, 2]
    let hit := withCore (withShelf 0x1000 res { core0 with resident := [⟨res, 0, 5⟩] }) bound
    let msg := withCore (withShelf 0x1000 (line64 []) core0) bound
    let col := grouped (withCore (withShelf 0x1000 barrier core0) bound)
    allIssue running ([XOp.tmv, .fill, .scopy, .recv].map (fun op => movB (m op))) = true ∧
    residentHit running 0 (run0 0) (line64 []) = false ∧
    (residentHit hit 0 (run0 0) (shelfGet hit 0 0x1000 64).bytes = true ∧ issues 0 (movB (m .tmv)) hit = true) ∧
    ((ctxNodes msg 0).contains 0 = true ∧ issues 0 (movB (m .msg)) msg = true) ∧
    (collBad col 0 (shelfGet col 0 0x1000 64).bytes = false ∧ findColl col 1 1 5 = none ∧ issues 0 (movB (m .coll)) col = true) ∧
    (coreOf running 0).armed = [] := by decide +kernel

/-- A matrix descriptor: S16 operands of 32-byte rows at 0x4000 and 0x8000, a 32 by 32 tensor of tag 3 as FP32 at 0x10000, pre-pass
descriptor at 0x2000, anchor 0 (R91). -/
def mdBytes : List Byte :=
  ([0x02000100, 0, 0x00010100, 0x00200020, 0x00000080, 0, 0, 32, 32, 0, 0x3F800000, 0, 0, 0x04000080, 0x00000600, 0x300].map
    (leBytes 4)).flatten

/-- The block of `mdBytes`, anchored. -/
def tile0 : Tile :=
  { tag := 3, block := 0, brow := 0, bcol := 0, ncols := 32, mrows := 32, anchor := some 0, autoSlot := 0, poison := false
    anchPoison := false, measuring := false, maxExp := none }

/-- Core 0 with `mdBytes` in descriptor 1 and the block bound to tile 2; the tensor's entry has mode `mode`. -/
def matrixed (mode : Nat) (bs : List Byte) (tiles : SMap Tile) : State :=
  withCore (withShelf 0x2000 bs { core0 with md := [(1, mdBytes)], tiles := tiles })
    (boundTo { ctx0 with image := some { image0 with tensors := [(3, padTo 32 (leBytes 3 3 ++ leBytes 1 (2 * mode) ++ leBytes 4 32 ++ leBytes 4 32))] } })

/-- A pre-pass descriptor that R101 accepts. -/
def prepassLine : List Byte := line64 (List.replicate 18 0 ++ leBytes 4 1 ++ leBytes 1 2)

theorem witness_MatrixSlot :
    let s := matrixed 1 [] [(2, tile0)]
    let m := fun (op : MOp) (fl : Nat) => matB { Mat.none with op := op, md := 1, ct := 2, flags := fl }
    let x := matrixed 0 prepassLine []
    mdPlain mdBytes = true ∧ manchOk mdBytes = true ∧ moutOk mdBytes = true ∧ mmaClass (mdOf mdBytes) 16 = some (64, 3) ∧ fmtOf (mdOf mdBytes).aFmt = some ⟨.s16, 0, false⟩ ∧
    otherTile (issuing 0 s) 2 = false ∧ raiseOf (issuing 0 s) 2 tile0 = none ∧
    allIssue s [m .mma 0, m .mma 512, m .mpre 0, m .mspill 0, m .manch 5, m .csave 0, m .cload 0, m .mout 0] = true ∧
    gridBad { image0 with tensors := [(3, padTo 32 (leBytes 3 3 ++ leBytes 1 2 ++ leBytes 4 32 ++ leBytes 4 32))] } (mdOf mdBytes) false = false ∧
    gridBad { image0 with tensors := [(3, padTo 32 (leBytes 3 3 ++ leBytes 1 0 ++ leBytes 4 32 ++ leBytes 4 32))] } (mdOf mdBytes) true = false ∧
    (issues 0 (m .manch 517) x = true ∧ getLE (shelfGet x 0 0x2000 64).bytes 18 4 ≠ 0 ∧
      byteAt (shelfGet x 0 0x2000 64).bytes 22 / 4 = 0 ∧ bitAt (byteAt (shelfGet x 0 0x2000 64).bytes 22) 1 = true ∧
      getLE (shelfGet x 0 0x2000 64).bytes 28 4 < 0xFFFFFFFE) := by decide +kernel

theorem witness_MatrixSlot_terms :
    let s := matrixed 1 [] [(2, tile0)]
    let d := mdOf mdBytes
    let ra := operandRows s 0 ⟨.s16, 0, false⟩ d.aAddr 0 d.aStride 16
    (ra.2.join ra.2).bad = none ∧ (ra.2.join ra.2).poison = false ∧
      (accRow 0 { v := 0, st := 0, top := none } (ra.1.getD 31 []) (ra.1.getD 0 [])).top = none ∧
      (biasRead s 0 d).2.bad = none ∧ (biasRead s 0 d).2.poison = false ∧
      (shelfGet s 0 (64 * d.preAddr) 2048).bad = none ∧ (shelfGet s 0 (64 * d.outAddr) 12288).poison = false ∧
      (accTerm 0 { v := 0, st := 0, top := none } (decodeElem .s16 0)).top = none := by decide +kernel

theorem witness_CoreTiming :
    (let s := withCore core0 (coded 0xA0000001000000000000000000000000#128 ctx0)
     let t := sets [(F.CORE_STAT.FRZ, 0, 0, 1)] s
     fetch t (coreOf t 0) = some (ctlB (.wait false 1)) ∧ arrivalOk t 0 (coreOf t 0) (run0 0) (ctlB (.wait false 1)) = true ∧
       cstat t F.CORE_STAT.FRZ 0 = 1 ∧ issues 0 (ctlB (.wait false 1)) t = true) ∧
    (let k := { core0 with pend := [{ due := 0, slot := 1, wb := .v 0 1 [], slowLanes := [3], slowCost := 100 }] }
     slowNow (coreOf (withCore k bound) 0) = true ∧ (coreOf (withCore k bound) 0).slowDue = none ∧
       (coreOf (withCore { k with slowDue := some 106 } bound) 0).slowDue = some 106) ∧
    (let k := { core0 with repeatDue := true }
     (coreOf (withCore k bound) 0).repeatDue = true ∧ ctxState (withCore k bound) 0 = 1 ∧ slowNow (coreOf (withCore k bound) 0) = false ∧
       (List.range 32).all (fun i => arrCount (coreOf (withCore k bound) 0) i == 0) = true) ∧
    (coreOf (withCore { core0 with tokenFrozen := true } bound) 0).tokenFrozen = true := by decide +kernel

/-- A tile-mover load of one row of 16 FP32 elements from device address 0 to shelf line 8; and a FILL of line 8. -/
def tmvLine : List Byte := line64 (leBytes 4 0 ++ leBytes 5 0 ++ leBytes 5 0 ++ leBytes 2 8 ++ leBytes 2 0 ++ leBytes 4 64 ++ leBytes 4 0 ++
  leBytes 2 64 ++ leBytes 2 0 ++ leBytes 4 1 ++ leBytes 4 16)
def fillLine : List Byte := line64 (leBytes 2 8 ++ leBytes 2 1 ++ leBytes 4 0 ++ leBytes 8 0x0102030405060708)

/-- Granule 0 mapped to stack 0, frame 0, and owned by slot 0. -/
def mapped (s : State) : State :=
  sets [(F.MEM_GMAP.VALID, 0, 0, 1), (F.MEM_GMAP.OWNED, 0, 0, 1), (F.MEM_GMAP.CTX, 0, 0, 0)] s

/-- Core 0 with the mover item of `kind` in its queue, its descriptor at 0x1000. -/
def moving (kind : Nat) (bs : List Byte) (e : SMap EngineItem) : State :=
  mapped (withCore (withShelf 0x1000 bs { core0 with queue := if e = [] then [⟨kind, 64, 2⟩] else [], engines := e, arr := [(2, 1)] }) bound)

theorem witness_MoverItems :
    (let s := moving 0 tmvLine []
     let g := shelfGet s 0 0x1000 64
     let t := tmvOf g.bytes
     ctxState s 0 = 1 ∧ freeEngine (coreOf s 0) = some 0 ∧ g.bad = none ∧ tmvOk g.bytes = true ∧ residentHit s 0 (run0 0) g.bytes = false ∧
       t.memRanges.findSome? (fun q => accessCause s 0 .mover q.1 (q.2 - q.1)) = none ∧
       (itemRanges 0 g.bytes).2.any (fun w => hitsConst s 0 w.1 (w.2 - w.1)) = false) ∧
    (let s := moving 1 fillLine []
     (atShelf 1 (shelfGet s 0 0x1000 64).bytes).isSome = true ∧ ctxState s 0 = 1) ∧
    (let x : EngineItem := { item := ⟨0, 64, 2⟩, desc := tmvLine, fenced := false, paid := 0, wrote := false, left := none }
     let s := moving 0 tmvLine [(3, x)]
     mapFind (coreOf s 0).engines 3 = some x ∧ heldByArray (coreOf s 0) (tmvOf tmvLine).shelfRanges = false ∧
       (moveRows s 0 0 5 (tmvOf tmvLine)).2.2 = none) ∧
    (let x : EngineItem := { item := ⟨1, 64, 2⟩, desc := fillLine, fenced := false, paid := 0, wrote := false, left := none }
     let s := moving 1 fillLine [(3, x)]
     atShelf 1 x.desc = some (none, (512, 576)) ∧ heldByArray (coreOf s 0) [(512, 576)] = false ∧ constLines s 0 = 0 ∧
       x.desc.length = 64) ∧
    (let s := setCore 0 { Core.empty with clearDue := true } bound
     (coreOf s 0).clearDue = true ∧ (coreOf s 0).engines = []) := by decide +kernel

/-- The context of slot 0 with tasks queued for logical core 0, and two logical cores. -/
def queued : Ctx := { ctx0 with queues := [(0, [task0 0])], image := some { image0 with phys := [0, 1] } }

/-- Core 1 serves logical core 1 and is free. -/
def twoCores (x : Ctx) : State :=
  sets [(F.CORE_STAT.CTX, 0, 1, 0), (F.CORE_STAT.LCORE, 0, 1, 1), (F.CORE_STAT.STATE, 0, 1, 1)] (boundTo x)

/-- Step 5, begun. -/
def step5 : StepSt := { StepSt.posted 5 [] with begun := true }

theorem witness_TaskFabric :
    (let s := boundTo queued
     coreFree s 0 = true ∧ (coreOf s 0).probe = none ∧ servedL s queued 0 = some 0 ∧ queueOf queued 0 = [task0 0] ∧
       drawsLanes s 0 = false) ∧
    (let s := withCore { core0 with run := some { run0 0 with ended := true } } (boundTo { ctx0 with steps := [step5] })
     taskOf 0 s = some { run0 0 with ended := true } ∧ ctxState s 0 = 1 ∧ (coreOf s 0).genDrew = [] ∧
       (ctxOf s 0).bind (fun x => stepSt? x 5) = some step5 ∧ (List.range 32).all (fun i => arrCount (coreOf s 0) i == 0) = true) ∧
    (overOf { queued with overflow := [(0, [task0 0])] } 0 = [task0 0] ∧ onDie { queued with overflow := [(0, [task0 0])] } 0 < 256) ∧
    (thief (withCore core0 (twoCores queued)) 1 = true ∧ localFind (withCore core0 (twoCores queued)) 0 queued 1 = some (task0 0, 0, []) ∧
      thief (withCore core0 (twoCores { queued with queues := [] })) 1 = true ∧
      localFind (withCore core0 (twoCores { queued with queues := [] })) 0 { queued with queues := [] } 1 = none) := by decide +kernel

/-! ## Probes, messages, cellars and the cellar unit -/

theorem witness_TaskFabric_probe :
    (let s := setCore 1 { Core.empty with probe := some { left := [3], asked := some 0, reply := none, waiting := false } } (twoCores queued)
     ctxState s 0 = 1 ∧ (remoteFind { queued with queues := [(0, [task0 0, task0 0])] } 0).isSome = true ∧ remoteFind ctx0 0 = none ∧
       (coreOf s 1).probe = some { left := [3], asked := some 0, reply := none, waiting := false }) ∧
    ((task0 0).saved = none ∧ drawsLanes (twoCores queued) 0 = false) := by decide +kernel

/-- A message for logical core 0 of slot 0, box 3. -/
def msg0 : Msg := { slot := 0, lcore := 0, bytes := line64 [0, 0, 0, 0, 3], id := 9, poison := false }

/-- Device memory with two bytes at address 0 of stack 0. -/
def valued (w : Nat) (s : State) : State := { s with mem := [(0, by8 w), (1, by8 (w / 256))].filter (fun e => e.2 != 0) }

theorem witness_MessagesAndAnchors :
    (let s := setCstat F.CORE_STAT.LCORE 0 0xFFF bound
     servedBy s 0 ctx0 0 = none ∧ boundCount ctx0 = 1 ∧ ((mapFind ctx0.bufs 0).getD []).length < 64) ∧
    (let s := withCore { core0 with armed := [(3, ⟨100, 4⟩)], arr := [(4, 1)] } bound
     servedBy s 0 ctx0 0 = some 0 ∧ armedFor (coreOf s 0) (msgBox msg0) = some (3, ⟨100, 4⟩) ∧ ctxState s 0 = 1 ∧
       msg0.bytes.length = 64 ∧ constLines s 0 = 0) ∧
    (let m : MsgOut := { id := 9, core := 0, saved := none, slot := 4, dst := 0, refused := false }
     let s := { running with msgOut := [m] }
     s.msgOut.find? (fun e => e.id == 9) = some m ∧ msgHere s 9 = false ∧ auditOf s 0 = none) ∧
    (let g := fun (auto : Bool) => ({ addr := 0, auto := auto, anchor := 0x7FFF } : GridCheck)
     let s := fun (auto : Bool) (w : Nat) => valued w (mapped (withCore { core0 with run := some { run0 0 with checks := [g auto] } } bound))
     accessCause (s true 0x8000) 0 .mover 0 2 = none ∧ stepBytes (s true 0x8000) 0 5 0 2 = ([0x00, 0x80], false) ∧
       stepBytes (s false 0x7FFF) 0 5 0 2 = ([0xFF, 0x7F], false) ∧ stepBytes (s false 0) 0 5 0 2 = ([0, 0], false) ∧
       ctxState (s true 0) 0 = 1) := by decide +kernel

theorem witness_MessagesAndAnchors_prepass :
    let p : Prepass := { desc := line64 (List.replicate 18 0 ++ leBytes 4 1), md := mdBytes, tile := 0, slot := 2, code := none, fenced := false }
    let s := mapped (withCore { core0 with run := some { run0 0 with prepasses := [p] } } bound)
    let rows := ppRows 0 0 1 ⟨.s16, 0, false⟩
    [p].find? (fun p => p.code.isNone) = some p ∧ fmtOf (movFmt (mdOf p.md).aFmt) = some ⟨.s16, 0, false⟩ ∧
      rows.findSome? (fun g => accessCause s 0 .mover g.1 g.2) = none ∧ fencesOf s 0 5 false (rows.map (fun g => (g.1, g.1 + g.2))) = [] ∧
      rows.all (fun g => !(stepBytes s 0 5 g.1 g.2).2) = true := by decide +kernel

theorem witness_CellarCommands :
    stackOk bound 15 = true ∧ fget bound F.CEL_SCRUB.HOURS 15 = 8 ∧ fget (sets [(F.CEL_SCRUB.HOURS, 15, 0, 0)] bound) F.CEL_SCRUB.HOURS 15 = 0 ∧
    stackLines = 805306368 ∧ (stackOf (modStack 3 (fun k => { k with retiring := [(5, 1)] }) bound) 3).retiring = [(5, 1)] ∧
    (stackOf (modStack 3 (fun k => { k with migrating := some (31, 1) }) bound) 3).migrating = some (31, 1) ∧
    cowBlock bound 3 63 [1] = none ∧ (stackOf bound 3).waitCow = [] ∧
    stackOk (modStack 3 (fun k => { k with waitCow := [(64, [1], false, none)] }) bound) 3 = true ∧
    (let z : ZeroFill := { granule := 1023, entry := 0x80000000 }
     (modMgmt (fun m => { m with zeroFills := [z] }) bound).mgmt.zeroFills.find? (fun z => z.granule == 1023) = some z) := by
  decide +kernel

/-- A stack with one write that waits for no page any more. -/
theorem witness_CellarCommands_waiting :
    (let s := modStack 3 (fun k => { k with waitCow := [(64, [1], false, none)] }) bound
     (cowReady s 3 [] (stackOf s 3).waitCow).map (fun w => (w.1.1, w.1.2.1, w.2.isEmpty))) = some (64, [1], true) := by
  decide +kernel

/-- A cellar-unit instruction's word (R199). -/
def cuWord (opc d a b c sl : Nat) : Word := wd (opc * 2 ^ 26 + d * 2 ^ 22 + a * 2 ^ 17 + b * 2 ^ 12 + c * 2 ^ 7 + sl * 2 ^ 4)

/-- A one-element update on stack 0 that runs the program `ws`. -/
def updating (ws : List Word) (ended : Bool) : State :=
  let d : UpdDesc := { slot := 0, bytes := padTo 192 (leBytes 4 0 ++ leBytes 5 1), armed := 5, program := ws, fired := true, keptFire := false
                       removing := false, reruns := 0 }
  modStack 0 (fun k => { k with descs := [(0, d)], running := some { UpdRun.fresh 0 (line64 []) false with ended := if ended then [(0, true)] else [] } })
    (mapped bound)

/-- Every lane instruction of the cellar unit is the next one of its element in some update. -/
theorem witness_CellarUnitLanes : ([0x08, 0x09, 0x0A, 0x0B, 0x0C, 0x0D, 0x0E, 0x0F, 0x10, 0x11, 0x12, 0x13, 0x14, 0x15, 0x18, 0x19, 0x1A].all (fun o =>
    match cuRun (updating [cuWord o 15 16 17 18 0] false) 0 with
    | some (u, d) => cuNext u d 0 == some { opc := o, d := 15, a := 16, b := 17, c := 18, slot := 0, low := 0 }
    | none => false)) = true := by decide +kernel

theorem witness_CellarUnitUpdates :
    ([1, 2, 3, 4, 0x3F].all (fun o =>
      match cuRun (updating [cuWord o 15 16 0 0 7] false) 0 with
      | some (u, d) => cuNext u d 0 == some { opc := o, d := 15, a := 16, b := 0, c := 0, slot := 7, low := 0 } &&
          !devPoison (updating [cuWord o 15 16 0 0 7] false) (elemAt d 7 0).1 (elemAt d 7 0).2.2
      | none => false)) = true ∧
    (let s := modStack 0 (fun k => { k with running := none, fires := [0] }) (updating [] false)
     takeFirst? (updMayRun s 0) (stackOf s 0).fires = some (0, []) ∧ (mapFind (stackOf s 0).descs 0).isSome = true ∧
       devPoison s 0 64 = false ∧ (stackOf s 0).running = none) ∧
    (let s := updating [] true
     (match cuRun s 0 with
      | some (u, d) => u.ended.length == updElems d && !updLocal s u d && !d.removing
      | none => false) = true ∧ s.held = [] ∧ (stackOf s 0).waitCow = []) := by decide +kernel

/-! ## Solver, steps, audits and machine time -/

/-- A solver descriptor of slot 0: one 1 by 1 matrix a step from step 3, one-slot outputs (R234). -/
def solvBytes (flags batch : Nat) : List Byte :=
  padTo 128 (leBytes 1 0 ++ leBytes 1 flags ++ leBytes 2 0 ++ leBytes 2 1 ++ leBytes 2 batch ++ leBytes 4 1 ++ leBytes 2 1 ++ leBytes 1 1 ++
    leBytes 1 1 ++ leBytes 8 3)

/-- The descriptor of `solvBytes`, its first statistics step to come. -/
def solvDesc0 (flags batch : Nat) : SolvDesc :=
  { slot := 0, bytes := solvBytes flags batch, order := 0, reuses := 0, base := 3, next := 3, current := none, curs := [], removing := false, stallFrom := none }

/-- Die 0's solver with one descriptor of `flags` and `batch`, and `w` running. -/
def solving (flags batch : Nat) (w : Option SolvWork) : State :=
  modSolver 0 (fun o => { o with running := w, descs := [(0, solvDesc0 flags batch)] })
    (mapped (boundTo { ctx0 with committed := some 3, steps := [{ step5 with num := 4 }] }))

theorem witness_SolverWorkDone :
    (let s := solving 4 1 none
     (solverOf s 0).running = none ∧ firstWork (solverOf s 0) ((frontDue s 0).filter (fun w => !frontBlocked s 0 w)) = some (0, 4)) ∧
    (let s := solving 0 1 none
     (frontDue s 0).filter (fun w => !frontBlocked s 0 w) = [] ∧ firstWork (solverOf s 0) (factDue s 0) = some (0, 3)) ∧
    ([(0, 1), (0, 2), (1, 1), (1, 2)].all (fun c =>
      let s := solving 4 c.2 (some { num := 0, step := 4, stage := c.1, matrix := 0, wrote := false })
      match (solverOf s 0).running, mapFind (solverOf s 0).descs 0 with
      | some w, some e => !devPoison s ((solvOf e.bytes).xRange 0).1 ((solvOf e.bytes).xRange 0).2 && !slotHeld (solvOf e.bytes) e w.step &&
          decide ((solvOf e.bytes).batch = c.2) && !e.removing
      | _, _ => false)) = true := by decide +kernel

/-- Slot 0's step context: collective context 1 with node 0, and node 9 where `far`. -/
def stepGroup (far : Bool) (s : State) : State :=
  { s with cctxs := [(1, { slot := 0, portable := false, isStep := true, members := if far then [0, 9] else [0] })] }

theorem witness_Steps :
    (let x := { ctx0 with steps := [StepSt.posted 5 []] }
     nextStep x = some (StepSt.posted 5 []) ∧ beginReady (boundTo x) 0 x (StepSt.posted 5 []) = true ∧ solvStalls (boundTo x) 0 5 = []) ∧
    (let e := { step5 with tlyOn := true, tlyLog := 16 }
     let x := { ctx0 with steps := [e] }
     oldestStep x = some e ∧ commitReady (boundTo x) 0 x e = true ∧ e.consumed = false ∧ e.mismatch = false ∧
       (recordSlots x e (recordTensors (boundTo x) 0 x e)).length + 1 ≤ ringFree (boundTo x) 0 e) ∧
    (let x := { ctx0 with steps := [step5] }
     let s := stepGroup true (boundTo x)
     multiDevice s 0 = true ∧ ctxState s 0 = 1 ∧ tasksLeft s 0 5 = false ∧ collsLeft s 0 5 = false ∧ stepCctx s 0 = some 1 ∧
       findColl s 1 0xFFFFFFFF 5 = none ∧ minBy? (fun (e : StepSt) => e.num.toNat) (x.steps.filter (fun e => e.begun && !e.contributed)) = some step5) ∧
    (([0x01, 0xFF] : List Nat).all (fun (code : Nat) =>
      let q := { Coll.fresh 1 0xFFFFFFFF 5 0 with own := some code, sent := [0, 1, 2, 3] }
      let s : State := { stepGroup false (boundTo { ctx0 with steps := [step5] }) with colls := [q] }
      decide (s.colls.find? (fun (q : Coll) => q.cctx == 1 && q.seq == 0xFFFFFFFF && q.slot == 0 && (agreedCode s q).isSome && q.own.isSome) = some q) &&
        decide (agreedCode s q = some code)) : Bool) = true ∧
    (let e := { step5 with replaying := true }
     let x := { ctx0 with steps := [e] }
     x.steps.find? (fun e => e.replaying) = some e ∧ multiDevice (boundTo x) 0 = false ∧ replayReady (boundTo x) 0 e = true) := by
  decide +kernel

/-- Core 1 as the audit core of core 0's task, ended, with the reference tally `w`. -/
def auditing (w : DWord) : State :=
  setCore 1 { Core.empty with run := some { run0 0 with isAudit := true, ended := true, refTally := some w } } bound

theorem witness_AuditsAndMargins :
    (settleRegion (run0 0)).taskTally = 0 ∧ (taskOf 1 (auditing 1)).map (·.refTally) = some (some 1) ∧
    (let u : UnitRef := { kind := 0, place := 7, unit := 271 }
     fget bound F.FLT_CFG.MRG_DAYS ≠ 0 ∧ fget bound F.MGMT_LOAD.SHED < 2 ∧ marginOk bound u 1 = true ∧
       (let s := setCore 2175 { Core.empty with margin := some 0 } (modMgmt (fun m => { m with margins := [(u, 0)] }) bound)
        s.mgmt.margins.find? (fun m => m.1 == u) = some (u, 0) ∧ (coreOf s 2175).margin = some 0 ∧ marginLevels 0 = 5)) ∧
    (let u : UnitRef := { kind := 3, place := 15, unit := 5 }
     marginOk bound u 4 = true) := by decide +kernel

/-- Port 35 up, as a neighbour for time. -/
def linked : State := sets [(F.LNK_STAT.STATE, 35, 0, 3), (F.MT_ASYM.DISC_EN, 35, 0, 1)] bound

theorem witness_TimeExchange : fbit linked F.MT_ASYM.DISC_EN 35 = true ∧ portUp linked 35 = true ∧ byteAt (padTo 128 [0x21]) 0 = 0x21 ∧
    (let s := modPort 35 (fun p => { p with reqT1 := some 7, reqSeq := 2 })
       (sets [(F.MT_STAT.SRC, 0, 0, 2), (F.MT_STAT.SRC_PORT, 0, 0, 35)] linked)
     (portOf s 35).reqT1 = some 7 ∧ getLE (padTo 128 (leBytes 1 0x22 ++ leBytes 1 0 ++ leBytes 2 2)) 2 2 = (portOf s 35).reqSeq.toNat ∧
       fget s F.MT_STAT.SRC = 2 ∧ fget s F.MT_STAT.SRC_PORT = 35) := by decide +kernel

theorem witness_TimeSources :
    (let s := modTime (fun t => { t with copies := [(7, 5)] }) bound
     mapGet 0 s.time.copies 7 ≠ 0 ∧ s.time.copySlew = []) ∧
    (let s := sets [(F.MT_STAT.OFF_SCHED, 0, 0, 1)] (modTime (fun t => { t with errOkSince := some 0, leftAt := some 0, now := 16000000 }) bound)
     fbit s F.MT_STAT.OFF_SCHED = true ∧ 16000000 ≤ (s.time.now - 0).toNat) ∧
    (let s := sets [(F.SLOT_ENT_B.VALID, 3, 5, 1)] bound
     ∃ g, leastGuard s = some g ∧ 4 * g < fget s F.MT_ERR.MT ∧ fbit s F.MT_STAT.OFF_SCHED = false) := by
  refine ⟨by decide +kernel, by decide +kernel, ?_⟩
  exact ⟨_, rfl, by decide +kernel, by decide +kernel⟩

theorem witness_TimeSources_pps :
    (let s := sets [(F.MT_CTRL.PPS_EN, 0, 0, 1)] bound
     fbit s F.MT_CTRL.PPS_EN = true ∧ ((s.time.everLocked || decide (0 < s.time.ppsGood)) && decide (16000 < abs64 (ppsOffset s))) = false ∧
       (let u := modTime (fun t => { t with everLocked := true, now := 16001 }) s
        16000 < abs64 (ppsOffset u) ∧ abs64 (ppsOffset (modTime (fun t => { t with now := 16000 }) u)) = 16000)) ∧
    (let s := sets [(F.MT_CTRL.PPS_EN, 0, 0, 1), (F.MT_STAT.SRC, 0, 0, 1)] bound
     fget s F.MT_STAT.SRC ≠ 0 ∧ (List.range 36).all (fun p => decide (portFigure s p = none)) = true) ∧
    (let s := sets [(F.MT_STAT.STATE, 0, 0, 2), (F.MT_CTRL.TEN_EN, 0, 0, 1), (F.MT_STAT.SRC, 0, 0, 1)] bound
     fget s F.PWR_STAT.STATE ≠ 2 ∧ fget s F.MT_STAT.STATE = 2 ∧ fbit s F.MT_CTRL.TEN_EN = true ∧ fget s F.MT_STAT.SRC = 1) := by
  decide +kernel

/-! ## Links and flows -/

/-- A one-flit packet of VC1 from node 9 to node 0, a message for logical core 0 of slot 0 (R169, R274). -/
def pkt1 (seq : Nat) : Pkt :=
  { ptype := 1, key := { src := 9, dst := 0, vc := 1, flow := 1 }, tag := 0, tagged := false, e2e := seq, payload := padTo 71 (line64 [0, 0, 0, 0, 3])
    poison := [false, false], ref := false, src := none }

/-- Port 35 up with a flit of VC1 to send again, and an open slot (entry 63). -/
def slotted : State :=
  modTime (fun t => { t with now := 3000 }) (modPort 35 (fun p => { p with tx := [(1, { TxVc.empty with replay := pktFlits (pkt1 0), kept := pktFlits (pkt1 0) })] })
    (sets [(F.SLOT_ENT_B.VALID, 35, 63, 1), (F.SLOT_ENT_A.LEN, 35, 63, 10), (F.LNK_STAT.WIDTH, 35, 0, 8)] linked))

theorem witness_SlotSchedule :
    mapRises ([(regOff .SLOT_ENT_B 35 63, 0x81000000)] : SMap Word) = true ∧ regAt (regOff .SLOT_ENT_B 35 63) = some (.SLOT_ENT_B, 35, 63) ∧
    portMoves slotted 35 = true ∧ fbit slotted F.MT_STAT.OFF_SCHED = false ∧ fbit slotted F.FI_CTRL.ARM 35 = false ∧
    (portOf slotted 35).sinceMarker < 4096 ∧ eligible (portOf slotted 35) 1 = true ∧ 0 < slotRoom slotted 35 63 ∧ slotRoom slotted 35 0 = 0 ∧
    fbit slotted F.SLOT_ENT_B.VALID 35 63 = true ∧ slotInTime slotted 35 63 300 300 = some 1 ∧ slotInTime slotted 35 63 100000 100000 = none ∧ vc1Next (portOf slotted 35) = true := by
  decide +kernel

/-- A fold over numbers that reduces its state to a numeral at each element. -/
def eachFold (f : Nat → Nat → Nat) : Nat → List Nat → Nat
  | a, [] => a
  | a, d :: ds => match f a d with
    | 0 => eachFold f 0 ds
    | n + 1 => eachFold f (n + 1) ds

theorem eachFold_eq (f : Nat → Nat → Nat) (l : List Nat) (a : Nat) : l.foldl f a = eachFold f a l := by
  induction l generalizing a with
  | nil => rfl
  | cons d ds ih => simp only [List.foldl_cons, ih, eachFold]; split <;> simp [*]

/-- The CRC's register after bytes, as a number. -/
def crcFold (a : Nat) (bs : List Byte) : Nat :=
  eachFold (fun a d => (crcByte (BitVec.ofNat 32 a) (BitVec.ofNat 8 d)).toNat) a (bs.map (fun b => b.toNat))

theorem crcFold_eq (bs : List Byte) (a : Word) : (bs.foldl crcByte a).toNat = crcFold a.toNat bs := by
  simp only [crcFold, ← eachFold_eq]
  induction bs generalizing a with
  | nil => rfl
  | cons b bs ih => simpa using ih (crcByte a b)

theorem crc32c_toNat (bs : List Byte) : (crc32c bs).toNat = crcFold 0xFFFFFFFF bs ^^^ 0xFFFFFFFF := by
  simp only [crc32c, BitVec.toNat_xor, crcFold_eq]
  rfl

/-- The four syndromes as folds. -/
def synFold (cw : List Nat) : List Nat := [1, 2, 4, 8].map (fun x => eachFold (fun a d => gfMul a x ^^^ d) 0 cw)

theorem synFold_eq (cw : List Nat) : rsSyn cw = synFold cw := by
  simp only [rsSyn, rsEval, eachFold_eq, synFold, List.map]

/-- A frame whose two codewords have no syndromes is good when its CRC is. -/
theorem frameGood_clean (w bs : List Byte) (h0 : synFold (frameWord 0 w) = [0, 0, 0, 0]) (h1 : synFold (frameWord 1 w) = [0, 0, 0, 0])
    (hb : ((List.range 68).map (fun i => [by8 ((frameWord 0 w).getD i 0), by8 ((frameWord 1 w).getD i 0)])).flatten = bs) :
    frameGood w = if crc32c (bs.take 132) = wd (getLE bs 132 4) then some (bs.take 132, 0) else none := by
  subst hb
  simp only [frameGood, rsDecode, rsErrors, synFold_eq, h0, h1]
  rfl

/-- The frame of the first flit of `pkt1 0`. -/
def frame1 : List Byte := [0, 0, 0, 46] ++ padTo 128 ([1, 1, 0, 0, 9, 0, 1] ++ List.replicate 7 0 ++ [41, 0, 0, 0, 0, 0, 3]) ++ [234, 102, 199, 141, 52, 31, 75, 238, 2, 3, 115, 54]

theorem frame1_syn0 : synFold (frameWord 0 frame1) = [0, 0, 0, 0] := by decide +kernel

theorem frame1_syn1 : synFold (frameWord 1 frame1) = [0, 0, 0, 0] := by decide +kernel

theorem frame1_crc : crcFold 0xFFFFFFFF (frame1.take 132) ^^^ 0xFFFFFFFF = (wd (getLE (frame1.take 136) 132 4)).toNat := by
  decide +kernel

theorem noise_crc : crcFold 0xFFFFFFFF (List.replicate 132 0) ^^^ 0xFFFFFFFF ≠ (wd (getLE (List.replicate 136 0) 132 4)).toNat := by
  decide +kernel

/-- A good frame: a data frame of VC1 with sequence number 0, which `slotted` expects. -/
theorem witness_LinkLayer_good : frameGood frame1 = some (frame1.take 132, 0) ∧ frameKind (frame1.take 132) = 1 ∧
    (frameFlit (frame1.take 132)).vc = 1 ∧ (frameFlit (frame1.take 132)).seq = 0 ∧ (rxVc (portOf slotted 35) 1).nextSeq = 0 ∧
    portMoves slotted 35 = true := by
  refine ⟨?_, by decide +kernel⟩
  have e : (frame1.take 136).take 132 = frame1.take 132 := by rw [List.take_take]; rfl
  rw [frameGood_clean frame1 (frame1.take 136) frame1_syn0 frame1_syn1 (by decide +kernel), e,
    if_pos (BitVec.eq_of_toNat_eq ((crc32c_toNat _).trans frame1_crc))]

/-- A frame that is not good. -/
theorem witness_LinkLayer_noise : frameGood (List.replicate 144 0) = none := by
  have e : (List.replicate 136 (0 : Byte)).take 132 = List.replicate 132 0 := by decide +kernel
  rw [frameGood_clean (List.replicate 144 0) (List.replicate 136 0) (by decide +kernel) (by decide +kernel) (by decide +kernel), e,
    if_neg (fun h => noise_crc ((crc32c_toNat _).symm.trans (congrArg BitVec.toNat h)))]

theorem witness_LinkLayer :
    (let s := modPort 35 (fun p => { p with sinceMarker := 4096, txSubstDue := some 8 }) linked
     2 ≤ portState s 35 ∧ portState s 35 ≠ 6 ∧ 4096 ≤ (portOf s 35).sinceMarker ∧ (portOf s 35).txNarrowDue = false) ∧
    ((portOf linked 35).sinceMarker < 4096 ∧ portMoves linked 35 = true ∧
      portMoves (sets [(F.LNK_STAT.STATE, 35, 0, 2)] linked) 35 = false) ∧
    ((txVc (portOf slotted 35) 1).kept ≠ [] ∧ (txVc (portOf slotted 35) 1).goBacks + 1 < 32) ∧
    (let s := modPort 35 (fun p => { p with tx := [(1, { TxVc.empty with kept := pktFlits (pkt1 0), goBacks := 31 })] }) linked
     (txVc (portOf s 35) 1).kept ≠ [] ∧ 32 ≤ (txVc (portOf s 35) 1).goBacks + 1) ∧
    laneLive linked 35 8 = true := by decide +kernel

/-- A result of training with a good far end. -/
def trained (rx : BitVec 9) : TrainResult := { rxLock := rx, txLock := 0x1FF, farNode := 9, farPort := 3, farRole := 2, roundTrip := 100 }

theorem witness_Ports :
    (let s := modPort 35 (fun p => { p with cfg := 0x80000000 }) (sets [(F.LNK_STAT.STATE, 35, 0, 2)] bound)
     portState s 35 = 2 ∧ (portOf s 35).trainPending = false ∧ lrOn (portOf s 35) = false ∧ 4 ≤ lanesIn (trained 0xFF).rxLock.toNat ∧
       lanesIn (trained 7).rxLock.toNat < 4 ∧ roleOf (portOf s 35) = (trained 0xFF).farRole.toNat ∧ roleOf (portOf s 35) ≠ 3 ∧
       bitAt (portOf s 35).cfg.toNat 28 = false ∧ (portOf s 35).attempts + 1 < 8 ∧
       8 ≤ (portOf (modPort 35 (fun p => { p with attempts := 7 }) s) 35).attempts + 1 ∧
       (portOf (modPort 35 (fun p => { p with trainPending := true }) s) 35).trainPending = true) ∧
    (let s := sets [(F.BOOT_STAT.PHASE, 0, 0, 9)] bound
     atticOnly s = false ∧ mapGet false s.plat.flapping 35 = false ∧ fbit s F.LNK_HP.PRESENT 35 = false ∧ 9 ≤ fget s F.BOOT_STAT.PHASE) ∧
    (let s := sets [(F.LNK_HP.PRESENT, 35, 0, 1), (F.LNK_HP.SVC_MARK, 35, 0, 1)] linked
     fbit s F.LNK_HP.PRESENT 35 = true ∧ portMoves s 35 = true ∧ fbit s F.LNK_HP.SVC_MARK 35 = true ∧ portUp s 35 = true ∧
       mapStable (portOf s 35) = true ∧ mapStable (portOf (modPort 35 (fun p => { p with lcmd := 1 }) s) 35) = false) ∧
    portState (sets [(F.LNK_STAT.STATE, 35, 0, 4)] bound) 35 = 4 := by decide +kernel

/-- A flow of node 0 to node 9 with one packet kept. -/
def flow1 : FlowTx :=
  { next := 1, acked := 0, kept := [pkt1 0], port := none, pinned := none, held := [], pathDue := false, breach := none, closedAt := 0 }

/-- The key of `flow1`. -/
def key1 : FlowKey := { src := 0, dst := 9, vc := 1, flow := 1 }

theorem witness_PacketDelivery :
    (let s := modPort 35 (fun p => { p with arrived := pktFlits (pkt1 0) }) linked
     (takePacket (portOf s 35).arrived).map (fun x => (x.1.map (·.vc), (flitsPkt x.1).map (·.key), x.2)) =
         some ([1], some (pkt1 0).key, []) ∧
       (pkt1 0).key.dst.toNat = ownNode s ∧ route s 9 false key1 = none ∧
       route (sets [(F.RT_DIRECT.VALID, 9, 0, 1)] s) 9 false key1 ≠ some 36) ∧
    (let s := fun (n : Nat) => ({ bound with deliver := [pkt1 n] } : State)
     takeFirst? (mayDeliver (s 0)) (s 0).deliver = some (pkt1 0, []) ∧ (parked (s 0) && pktBound (s 0) (pkt1 0)) = false ∧
       seqAhead (pkt1 0).e2e (rxOf (s 0) (pkt1 0).key).next = 0 ∧ pktStowed (s 0) (pkt1 0) = none ∧ (rxOf (s 0) (pkt1 0).key).window = [] ∧
       seqAhead (pkt1 4095).e2e (rxOf (s 4095) (pkt1 4095).key).next = 4095 ∧
       2 ^ 31 ≤ seqAhead (pkt1 (2 ^ 32 - 1)).e2e (rxOf (s 0) (pkt1 0).key).next) ∧
    (let s : State := { bound with flowsTx := [(key1, flow1)] }
     let b := padTo 126 (e2eBody 0x23 key1 1) ++ leBytes 2 9
     ackOf b = (key1, 1) ∧ byteAt b 0 = 0x23 ∧ key1.src.toNat = ownNode s ∧ flowTx? s key1 = some flow1 ∧ seqAhead 1 0 ≤ seqAhead 1 0 ∧
       s.flowsTx.any (fun (e : FlowKey × FlowTx) => e.1.dst == 9 && !(e.2.kept.isEmpty && e.2.held.isEmpty)) = true ∧ ownNode s ≠ 9 ∧
       flow1.breach = none ∧ flow1.kept ≠ []) ∧
    (let f := { flow1 with kept := [] }
     let s : State := modTime (fun t => { t with now := 16000000 }) { bound with flowsTx := [(key1, f)] }
     flowTx? s key1 = some f ∧ 16000000 ≤ (s.time.now - f.closedAt).toNat ∧ s.flowWait = []) ∧
    (let r : FlowRx := { next := 5, window := [], sinceAck := 3, gap := true, closedAt := 0 }
     flowRx? { bound with flowsRx := [(key1, r)] } key1 = some r ∧ r.sinceAck ≠ 0) := by
  decide +kernel

/-! ## Collectives, checkpoints, tenancy -/

/-- A barrier over two devices to which core 0 has contributed. -/
def barrierColl : Coll := { Coll.fresh 1 1 5 0 with contribs :=
  [{ core := 0, saved := none, slot := 0, line := 0x1000, home := 0, taskId := 7, desc := barrier, stamp := 100 }] }

/-- The open collective `k` of slot 0. -/
def colled (k : Coll) : State := { grouped (boundTo { ctx0 with steps := [step5] }) with colls := [k] }

theorem witness_Collectives :
    (let s := colled barrierColl
     s.colls.find? (seqReady s) = none ∧ s.colls.find? (stageResumes s) = none ∧
       minBy? (fun k => (collArrival k).toNat) (s.colls.filter (fun k => collReady s k && !inputFenced s k)) = some barrierColl ∧ collsFlying s < 256 ∧
       collBytes (collMembers s barrierColl) (collDesc barrierColl) = 0 ∧ checkWrong s { barrierColl with started := true } = false ∧
       inputFault s { barrierColl with started := true } (collView s { barrierColl with started := true } false) = none ∧
       4 ≤ (collView s { barrierColl with started := true } false).red ∧ barrierColl.waited = false ∧
       256 ≤ collsFlying { s with colls := barrierColl :: List.replicate 256 { Coll.fresh 1 2 5 0 with started := true } }) ∧
    (let p := fun (n : Nat) => ({ phase := n, rank := 1, elems := [(0, 0), (1, 0), (2, 0)], bad := [], check := 0, stamp := 0, stampRank := 0, earliest := 0 } : PeerData)
     let k := { barrierColl with started := true, sent := phaseOrder, peers := phaseOrder.map p }
     let s := colled k
     let out := collOutput (collView s k false) k
     findColl s 1 1 5 = some k ∧ k.started = true ∧ collDone s k = true ∧ ctxState s 0 = 1 ∧ isStepSeq 1 = false ∧ out = [] ∧
       accessCause s 0 .coll (outRange k out).1 ((outRange k out).2 - (outRange k out).1) = none ∧
       hitsHighHalf s [outRange k out] = false ∧ 4 ≤ (collView s k false).red) ∧
    (let body := padTo 128 (leBytes 2 0 ++ leBytes 2 1 ++ leBytes 4 1 ++ leBytes 8 5)
     let s := colled barrierColl
     (mapFind s.cctxs (getLE body 2 2)).map (fun (x : Cctx) => (x.slot, (ctxOf s x.slot).isSome, ctxState s x.slot)) = some (0, true, 1) ∧
       isStepSeq (wd (getLE body 4 4)) = false ∧
       findColl s (getLE body 2 2) (wd (getLE body 4 4)) (dw (getLE body 8 8)) = some barrierColl) ∧
    (let q := { Coll.fresh 1 1 5 0 with own := some 3, sent := [0, 1, 2, 3] }
     let s := { stepGroup false (boundTo { ctx0 with steps := [step5] }) with colls := [q] }
     findColl s 1 1 5 = some q ∧ isStepSeq 1 = false ∧ q.agreed = none ∧ agreedCode s q = some 3) := by decide +kernel

/-- A stream of `image` in progress. -/
def stream0 (toFile : Bool) (image : List Byte) (todo : List Piece) : Stream :=
  { step := 5, started := true, ports := 2 ^ 35, buddy := 9, cls := 0, fallback := false, toFile := toFile, upds := [], solvs := [], image := image, poison := []
    todo := todo, out := [], acked := 0, cmd := none }

/-- A restore's image of one page of nothing: the header alone, of step 5. -/
def image1 : List Byte := padTo 128 (leBytes 4 0x5338434B ++ leBytes 2 1 ++ leBytes 2 0 ++ leBytes 8 5 ++ leBytes 8 0 ++ leBytes 8 128 ++ leBytes 4 0 ++
  leBytes 2 0 ++ leBytes 1 2)

theorem witness_CheckpointStreams :
    (let m := stream0 false (List.replicate 128 0) [⟨0, 128, []⟩]
     let s := sets [(F.LNK_STAT.STATE, 35, 0, 3), (F.LNK_NEIGH.VALID, 35, 0, 1), (F.LNK_NEIGH.NODE, 35, 0, 9)] (boundTo { ctx0 with stream := some m })
     streamOwner s 0 = 0 ∧ ctxOf s 0 = some { ctx0 with stream := some m } ∧ streamPorts s m = [35] ∧
       nextPiece s m = some (⟨0, 128, []⟩, []) ∧ m.started = true ∧ m.toFile = false) ∧
    (let s := sets [(F.STR_BUDDY_CFG.SLOTS, 0, 0, 1), (F.STR_BUDDY_CFG.SRC_NODE, 0, 0, 9), (F.STR_BUDDY_STAT.RECEIVING, 0, 0, 1),
       (F.STR_BUDDY_CFG.SLOT_GIB, 0, 0, 1)] bound
     fget s F.STR_BUDDY_CFG.SLOTS ≠ 0 ∧ fget s F.STR_BUDDY_CFG.SRC_NODE = 9 ∧ fbit s F.STR_BUDDY_STAT.RECEIVING = true ∧
       image1.length ≤ fget s F.STR_BUDDY_CFG.SLOT_GIB * 2 ^ 30 ∧ bitAt (byteAt image1 38) 1 = true ∧
       getLE image1 24 8 = 128 ∧ s.buddyGot = []) ∧
    (let r : Restore := { src := .mailbox 0, tag := 3, map := [], tallyAddr := 0x9000, node := some (9, 0), image := image1, poison := [] }
     let x := { ctx0 with restoreCmd := some r }
     let s := boundTo x
     ctxOf s 0 = some x ∧ (restoreImage s x r).1 = some image1 ∧ (restoreImage s x r).2.2 = false ∧ imageDir image1 = some [] ∧
       (r.map.map mapEntOf).all (entOk s 0 []) = true ∧ ctxState (sets [(F.CTX_STAT.STATE, 0, 0, 2)] s) 0 = 2) := by decide +kernel

/-- The context of a stream to the file store. -/
def fsCtx (image : List Byte) : Ctx := { ctx0 with stream := some (stream0 true image []), fsRing := some (0x10000, 2 ^ 28) }

theorem fsCtx_bound (image : List Byte) :
    ctxOf (boundTo (fsCtx image)) 0 = some (fsCtx image) ∧ streamOwner (boundTo (fsCtx image)) 0 = 0 :=
  ⟨rfl, rfl⟩

/-- An image longer than a chunk of the file store. -/
theorem witness_CheckpointStreams_chunk : ∃ image : List Byte, (stream0 true image []).acked + 2 ^ 22 < (stream0 true image []).image.length ∧
    ctxOf (boundTo (fsCtx image)) 0 = some (fsCtx image) ∧ streamOwner (boundTo (fsCtx image)) 0 = 0 := by
  refine ⟨List.replicate (2 ^ 23) 0, ?_, fsCtx_bound _⟩
  have h : (stream0 true (List.replicate (2 ^ 23) 0) []).image.length = 2 ^ 23 := List.length_replicate
  rw [h]
  exact (by decide : 0 + 2 ^ 22 < 2 ^ 23)

/-! ## Tenants and registers -/

/-- A move of core group 0 away from slot 0. -/
def move0 (dst : Option Nat) : Move := { group := 0, src := 0, dst := dst, request := 0, late := false, cmd := none, saves := [] }

theorem witness_Tenancy :
    (let s := modMgmt (fun m => { m with moves := [move0 (some 1)] })
       (setCtx 1 { ctx0 with groups := [1] } (sets [(F.CTX_STAT.STATE, 1, 0, 1)] bound))
     takeFirst? (moveReady s) s.mgmt.moves = some (move0 (some 1), []) ∧ (groupCores s 0).all (fun c => (auditOf s c).isNone) = true ∧
       ctxOf s 0 = some ctx0 ∧ (ctxOf s 1).isSome = true ∧ ctxState s 1 = 1 ∧ s.mgmt.moves.find? (fun m => !m.late) = some (move0 (some 1))) ∧
    (let t := { task0 0 with saved := some 0 }
     let p : Probe := { left := [], asked := none, reply := some (some t), waiting := false }
     let s := setCore 0 { Core.empty with probe := some p } { bound with saves := [(0, core0)] }
     (coreOf s 0).probe = some p ∧ p.reply = some (some t) ∧ t.saved = some 0 ∧ mapFind s.saves 0 = some core0 ∧
       core0.run = some (run0 0) ∧ ctxState s t.slot = 1) ∧
    (bound.mgmt.unbinding = [] ∧ workless bound 0 = true) ∧
    (let s := modMgmt (fun m => { m with stows := [(0, none)] }) (sets [(F.TEN_STOW_CFG.ENTRIES, 0, 0, 4)] bound)
     s.mgmt.stows.find? (fun w => w.1 == 0) = some (0, none) ∧
       freeEntry (modMgmt (fun m => { m with stows := m.stows.filter (fun v => v.1 != 0) }) s) = some 0 ∧ ctxOf s 0 = some ctx0) ∧
    (let e : Stowed := { slot := 0, entry := 0, waiting := some (1, 5), told := true }
     let s := modMgmt (fun m => { m with unstows := [0] }) { setCtx (stowTag 0) ctx0 up with stowed := [e] }
     s.mgmt.unstows.contains 0 = true ∧ nextUnstow s 0 = some e ∧ ctxOf s (stowTag e.entry) = some ctx0 ∧
       (∀ g ∈ ctx0.granules, g < 1024) ∧ (∀ g ∈ ctx0.groups, g < 128)) ∧
    (let s := sets [(F.CTX_STAT.OWNER_FN, 0, 0, 7)] bound
     s.mgmt.stows = [] ∧ s.stowed = [] ∧ s.mgmt.unbinding = [] ∧ (ctxOf s 0).isSome = true ∧ ownerOf s 0 = 7 ∧
       s.ctxs.all (fun (e : Nat × Ctx) => ownerOf s e.1 != 3) = true) := by decide +kernel

theorem witness_RegisterAccess :
    (regAt (regOff .COL_E2E 0 0) = some (.COL_E2E, 0, 0) ∧ pageRegs.contains Reg.COL_E2E = false ∧
      actingRegs.contains Reg.COL_E2E = false ∧ (rights bound (.host 0) .COL_E2E 0 0) = (true, true) ∧
      lockedFor bound (.host 0) .COL_E2E 0 0 = false ∧ 64 < logFree bound ∧ loggedWrite .COL_E2E 5 = true) ∧
    (let s := sets [(F.LOCK_STAT.PLATFORM, 0, 0, 1)] bound
     lockedFor s (.host 0) .COL_E2E 0 0 = true ∧ (rights s (.host 0) .COL_E2E 0 0).2 = true) ∧
    ((rights bound (.host 5) .COL_E2E 0 0) = (false, false) ∧ regAt 3 = none) := by decide +kernel

/-- A log buffer with no room. -/
theorem witness_RegisterAccess_full (e : LogEntry) : logFree { bound with logBuf := List.replicate 16384 e } ≤ 64 := by
  simp only [logFree, List.length_replicate]; decide

theorem witness_ActingRegisters :
    ([(Reg.STR_CFG, 0, 0), (.RPR_TLY_RING, 0, 0), (.SLOT_ENT_A, 35, 63), (.SLOT_ENT_B, 35, 63), (.LNK_HP, 35, 0), (.CLK_DOM, 0, 0), (.SB_CTRL, 0, 0)] : List (Reg × Nat × Nat)).all
      (fun x => (rights bound (.host 0) x.1 x.2.1 x.2.2).2 && !lockedFor bound (.host 0) x.1 x.2.1 x.2.2) = true ∧ 64 < logFree bound ∧
    (slotWrite 35 63 true 0x81000000 (sets [(F.MT_FRAME.PERIOD, 0, 0, 100)] slotted)).isSome = true ∧ (slotWrite 35 63 false 0xFFFFFFFF slotted).isNone = true ∧
    (let s := sets [(F.LNK_HP.SVC_MARK, 35, 0, 1), (F.LNK_STAT.STATE, 35, 0, 5)] bound
     fbit s F.LNK_HP.SVC_MARK 35 = true ∧ portState s 35 = 5) ∧
    (let s := sets [(F.LOCK_STAT.DEBUG_OPEN, 0, 0, 1)] bound
     (rights s (.host 0) .FI_CTRL 35 0).2 = true ∧ lockedFor s (.host 0) .FI_CTRL 35 0 = false) ∧
    (let s := sets [(F.CLK_SRC_STAT.READY_A, 0, 0, 1), (F.CLK_DSTAT.LOCK, 0, 0, 1), (F.CLK_DSTAT.CUR, 0, 0, 1)] bound
     clkJudge s 0 100 = stOk ∧ clkJudge s 0 (2 ^ 30 + 100) = stNotReady ∧ clkJudge s 0 7 = stBadParam ∧
       fbit s F.CLK_DSTAT.LOCK 0 = true ∧ (mapFind s.plat.relock 0).getD (fget s F.CLK_DSTAT.CUR 0) ≠ bitsOf 100 31 30) := by decide +kernel

theorem witness_FunctionPages :
    (fbit bound F.MB_STAT.FULL 64 = false ∧ fbit (sets [(F.MB_STAT.FULL, 64, 0, 1)] bound) F.MB_STAT.FULL 64 = true) ∧
    (let s := sets [(F.RING_CFG.SIZE_LOG2, 64, 3, 4)] bound
     fbit s F.RING_CFG.KIND 64 3 = false ∧ ringSize s 64 3 = 16) ∧
    (let s := sets [(F.RING_CFG.SIZE_LOG2, 64, 3, 4), (F.RING_CFG.KIND, 64, 3, 1), (F.RING_CFG.CTX, 64, 3, 64), (F.RING_CFG.EN, 64, 3, 1)] bound
     fbit s F.RING_CFG.KIND 64 3 = true ∧ ringSize s 64 3 = 16 ∧ stowedBy s (fget s F.RING_CFG.CTX 64 3) = none ∧
       fbit s F.RING_CFG.EN 64 3 = true ∧ boundSlot s (fget s F.RING_CFG.CTX 64 3) = some 0) ∧
    (fbit bound F.RING_CFG.EN 64 3 = false ∧ 64 < logFree bound ∧ bitAt 0x80400000 31 = true ∧ bitAt 0x80400000 30 = false ∧
      bitsOf 0x80400000 23 20 = 4 ∧ bitsOf 0x80300000 23 20 = 3 ∧ bitsOf 0x80D00000 23 20 = 13) := by decide +kernel

/-- A packet of `op`, with context field `c` and parameters `ps`. -/
def packet (op c : Nat) (ps : List Word) : Packet :=
  { opcode := BitVec.ofNat 16 op, flags := 0, ctx := BitVec.ofNat 16 c, tag := 0x1234, extAddr := 0, extLen := 0, reserved := 0
    ps := ps ++ List.replicate (11 - ps.length) 0 }

/-- A packet with `n` bytes of extension at host address 0x100000. -/
def extPacket (op c n : Nat) (ps : List Word) : Packet := { packet op c ps with extAddr := 0x100000, extLen := BitVec.ofNat 16 n }

theorem witness_CommandService :
    (let s := sets [(F.MB_STAT.FULL, 0, 0, 1)] bound
     mgmtUp s = true ∧ mailReady s 0 = true ∧ mailReady bound 0 = false ∧
       (0 :: (rotate 64 s.mgmt.mbTurn).map (· + 1)).find? (mailReady s) = some 0) ∧
    (let s := sets [(F.RING_CFG.SIZE_LOG2, 7, 3, 4), (F.RING_CFG.EN, 7, 3, 1), (F.RING_SQ_DB.INDEX, 7, 3, 1)] bound
     (∀ f, f < 65 → mailReady s f = false) ∧ mgmtUp s = true ∧
       (rotate 65 s.mgmt.fnTurn).find? (fun f => (nextRing s f).isSome) = some 7 ∧ nextRing s 7 = some 3) ∧
    (let pk := packet 0 0xFFFF []
     let c := { Taken.fresh (.mailbox 0) pk with final := some (stOk, []) }
     let s := fun (c : Taken) => modMgmt (fun m => { m with taken := [c] }) bound
     findTaken (s c) (.mailbox 0) 0x1234 = some c ∧ (s c).mgmt.stalled = [] ∧ (s c).mgmt.unbinding = [] ∧ c.waits = [] ∧
       c.mute = false ∧ replyRoom (s c) (.mailbox 0) = true ∧
       (let d := { c with mute := true }; findTaken (s d) (.mailbox 0) 0x1234 = some d) ∧
       (let d := { c with waits := [3] }; findTaken (s d) (.mailbox 0) 0x1234 = some d) ∧
       (let d := { c with final := none }; findTaken (s d) (.mailbox 0) 0x1234 = some d ∧ d.queued = false ∧ replyRoom (s d) (.mailbox 0) = true)) ∧
    (modPlat (fun p => { p with parkedExit := true }) bound).plat.parkedExit = true := by decide +kernel

/-! ## Commands of R421 -/

/-- `servedNow`, to be evaluated. -/
def served (src : CmdSrc) (pk : Packet) (s : State) : Bool :=
  let s1 := addTaken (Taken.fresh src pk) (naming pk s)
  fget s F.PWR_STAT.STATE != 2 && (match opSpec pk.opcode.toNat with | some sp => screen sp s src pk == stOk | none => false) &&
    (namedStowed s pk).isNone && !namesStowing s pk &&
    (!entersLog pk || (match handler src pk (extOf s pk) s1 with
      | .done _ _ t => decide (1 + (changedRegs s1 t).length + laterEntries (naming pk s) pk + 64 ≤ logFree s)
      | .running _ t => decide (1 + (changedRegs s1 t).length + laterEntries (naming pk s) pk + 64 ≤ logFree s)
      | .own _ _ => decide (66 ≤ logFree s)
      | .after _ => decide (65 ≤ logFree s)
      | _ => true))

theorem servedNow_of (src : CmdSrc) (pk : Packet) (s : State) (h : served src pk s = true) : servedNow src pk s := by
  simp only [served, Bool.and_eq_true, Bool.or_eq_true, Bool.not_eq_true', bne_iff_ne, ne_eq, Option.isNone_iff_eq_none] at h
  obtain ⟨⟨⟨⟨h1, h2⟩, h3⟩, h4⟩, h5⟩ := h
  refine ⟨h1, ?_, h3, h4, ?_⟩
  · split at h2
    · exact ⟨_, by assumption, by simpa using h2⟩
    · cases h2
  · unfold logRoom
    rcases h5 with h5 | h5
    · exact .inl h5
    · refine .inr ?_
      revert h5
      split <;> simp_all

theorem witness_CommandsInfo :
    served (.mailbox 0) (packet 0x0000 0xFFFF []) bound = true ∧ served (.mailbox 5) (packet 0x0001 0xFFFF []) bound = true ∧
    served (.mctp 9) (packet 0x0005 0xFFFF []) bound = true ∧
    (let pk := packet 0x0002 0xFFFF [8191, 1]
     served (.mailbox 0) pk bound = true ∧ served (.mctp 9) pk bound = true ∧ pk.ctx = 0xFFFF ∧ par pk 0 < 8192 ∧ 0 < par pk 1 ∧ par pk 1 ≤ 8192) ∧
    (let pk := packet 0x0003 0xFFFF [2 ^ 20 - 1, 4096, 0x20000]
     let s := sets [(F.LOG_CFG.EN, 0, 0, 1)] bound
     served (.mailbox 0) pk s = true ∧ par pk 0 < 2 ^ 20 ∧ par pk 1 = 4096 ∧ fbit s F.LOG_CFG.EN = true) ∧
    (let r := packet 0x0004 0xFFFF [wd (regOff .COL_WAIT 0 0), 0, 0]
     let w := packet 0x0004 0xFFFF [wd (regOff .COL_E2E 0 0), 5, 1]
     served (.mailbox 0) r bound = true ∧ served (.mailbox 0) w bound = true ∧ regAt (par r 0) = some (.COL_WAIT, 0, 0) ∧
       (rights bound (srcOrigin (.mailbox 0)) .COL_WAIT 0 0).1 = true ∧ regAt (par w 0) = some (.COL_E2E, 0, 0) ∧ par w 2 = 1) := by
  decide +kernel

theorem witness_CommandsSystem :
    (let pk := extPacket 0x0100 0xFFFF 200 [64, 64, 1024]
     served (.mailbox 0) pk bound = true ∧ 0 < par pk 0 ∧ par pk 0 ≤ 64 ∧ (extOf bound pk).length = 200 ∧
       ∀ g ∈ halves (((extOf bound pk).drop 16).take ((extOf bound pk).length - 196)), g < 1024) ∧
    (let pk := packet 0x0700 0xFFFF [1, 0xFFFFFFFF, 15]
     served (.mailbox 0) pk bound = true ∧ par pk 0 ≤ 1 ∧ par pk 2 ≤ 15) ∧
    served (.mailbox 0) (packet 0x0701 0xFFFF []) bound = true ∧ served (.mailbox 0) (packet 0x0703 0xFFFF []) bound = true ∧
    (let s := modMgmt (fun m => { m with nonce := some (List.replicate 32 7) }) bound
     (extOf s (extPacket 0x0702 0xFFFF 96 [])).length = 96 ∧ s.mgmt.nonce = some (List.replicate 32 7)) ∧
    (let pk := packet 0x0502 0xFFFF [0xFFFF, 0]
     served (.mailbox 0) pk bound = true ∧ (par2 pk 0 + 1) * mtSecond < 2 ^ 64 ∧ bound.time.everLocked = false) ∧
    (let s := sets [(F.LNK_HP.PRESENT, 35, 0, 1)] linked
     served (.mailbox 0) (packet 0x0503 0xFFFF [35]) s = true ∧ fbit s F.LNK_HP.PRESENT 35 = true ∧ portState s 35 ≠ 6) ∧
    (served (.mailbox 0) (packet 0x0504 0xFFFF [35]) bound = true ∧ portState bound 35 ∈ ([0, 1, 5, 6] : List Nat)) ∧
    (let pk := packet 0x0704 0xFFFF [0, 7, 271]
     let q := packet 0x0704 0xFFFF [2, 35, 35]
     served (.mailbox 0) pk bound = true ∧ served (.mailbox 0) q bound = true ∧ cstat bound F.CORE_STAT.STATE 2175 ≠ 3 ∧
       (coreOf bound 2175).retireDue = none ∧ looseCore bound 2175 = true ∧ portState bound 35 ≠ 6) ∧
    (let p := fun (n : Nat) => packet 0x0705 0xFFFF [wd n]
     let s := sets [(F.DIE_PWR.STATE, 0, 0, 2)] bound
     parked bound = false ∧ served (.mailbox 0) (p 0) bound = true ∧ parked s = true ∧ served (.mailbox 0) (p 0) s = true ∧
       powerBusy bound = false ∧ served (.mailbox 0) (p 1) bound = true ∧ fget bound F.DIE_PWR.STATE 0 < 3 ∧
       up.ctxs = [] ∧ served (.mailbox 0) (p 2) up = true) ∧
    (let s := sets [(F.LOCK_STAT.DEBUG_OPEN, 0, 0, 1), (F.MGMT_STAT.STANDBY_OK, 0, 0, 1)] bound
     served (.mailbox 0) (packet 0x0706 0xFFFF []) s = true ∧ fbit s F.MGMT_STAT.ACTIVE_SET = false) := by decide +kernel

theorem witness_CommandsSystem_realign :
    (let s := (List.range 24).foldl (fun a n => sets [(F.CLK_DSTAT.LOCK, n, 0, 1), (F.CLK_DSTAT.CUR_RATIO, n, 0, 100), (F.CLK_DOM.RATIO, n, 0, 100)] a)
       ((List.range 8).foldl (fun a d => sets [(F.DIE_PWR.STATE, d, 0, 1)] a) bound)
     served (.mailbox 0) (packet 0x0304 0xFFFF []) s = true ∧ (∀ d, d < 8 → fget s F.DIE_PWR.STATE d = 1) ∧ alignable s = true) := by decide +kernel

/-- A state of `bound` with the extension bytes `bs` in host memory. -/
def hosted (bs : List Byte) (s : State) : State := hostWrite 0x100000 bs (fun _ => false) s

theorem witness_CommandsContext_bind :
    (let pk := extPacket 0x0101 0xFFFF 184 [0, 0, 0, 0, 0]
     let s := hosted (padTo 184 (leBytes 2 8 ++ leBytes 2 7)) (sets [(F.MEM_GMAP.VALID, 7, 0, 1), (F.MEM_GMAP.VALID, 8, 0, 1)] up)
     let ext := extOf s pk
     let gs := halves (ext.take (ext.length - 180))
     served (.mailbox 0) pk s = true ∧ fbit s F.GBL_EDITION.VALID = true ∧ ext.length = 184 ∧ gs = [8, 7] ∧
       fbit s F.FN_STAT.FLR_BUSY 0 = false ∧ (∀ g ∈ gs, filling s g = false) ∧
       (∀ g ∈ gs, granuleFree s g = true) ∧
       withinQuota (naming pk s) 0 [] gs (askedWeights (ext.drop (ext.length - 180))) = true ∧
       (List.range 64).find? (fun k => ctxState s k == 0) = some 0) ∧
    (let pk := extPacket 0x0101 0xFFFF 180 [1, 0, 0, 0, 0]
     served (.mailbox 0) pk up = true ∧ halves ((extOf up pk).take 0) = [] ∧
       withinQuota (naming pk up) 0 [] [] (askedWeights (extOf up pk)) = true) := by decide +kernel

theorem witness_CommandsContext_bound :
    ctxOf bound 0 = some ctx0 ∧ bound.mgmt.unbinding = [] ∧ ctxState bound 0 = 1 ∧ ctx0.steps = [] ∧ ctx0.ckptCmd = none ∧
    ([packet 0x0104 64 [], packet 0x0600 64 [0x10000, 0, 65536], packet 0x0601 64 [0]] : List Packet).all
      (fun pk => served (.mailbox 0) pk bound) = true ∧
    served (.mailbox 0) (packet 0x0102 64 []) (boundTo { ctx0 with groups := [], granules := [] }) = true := by decide +kernel

theorem witness_CommandsContext_resume :
    let s := sets [(F.CTX_STAT.STATE, 0, 0, 2)] (boundTo { ctx0 with stopHalted := true })
    served (.mailbox 0) (packet 0x0303 64 []) s = true ∧ ctxState s 0 = 2 ∧
      ctxOf s 0 = some { ctx0 with stopHalted := true } := by decide +kernel

theorem witness_CommandsContext_hold :
    let s := hosted (leBytes 5 65536 ++ leBytes 5 65536 ++ leBytes 6 0) (mapped bound)
    let ext := extOf s (extPacket 0x0105 64 16 [])
    served (.mailbox 0) (extPacket 0x0105 64 16 []) s = true ∧ ext.length = 16 ∧ (holdEntry s 0 ext).isSome = true := by decide +kernel

theorem witness_CommandsContext_replay :
    let x := { ctx0 with restored := some 4, committed := some 4 }
    served (.mailbox 0) (packet 0x0302 64 [5, 0, 2, 7]) (boundTo x) = true ∧
      served (.mailbox 0) (packet 0x0302 64 [5, 0, 2, 0x1000007]) (boundTo x) = true ∧ x.replaySet = none ∧ x.steps = [] ∧
      ctxOf (boundTo x) 0 = some x := by decide +kernel

theorem witness_CommandsContext_restore :
    (let x := { ctx0 with fsRing := some (0x10000, 65536) }
     let s := boundTo x
     served (.mailbox 0) (packet 0x0602 64 [1]) s = true ∧ x.steps = [] ∧ x.committed = none ∧ x.restoreCmd = none ∧
       slotUpdates s 0 false = false ∧ slotSolves s 0 false = false ∧ storesLeft s 0 = false ∧ ctxOf s 0 = some x) ∧
    (let s := sets [(F.STR_BUDDY_STAT.SLOT1_VALID, 0, 0, 1)] bound
     served (.mailbox 0) (packet 0x0602 64 [0, 0, 1]) s = true ∧ ownNode s = 0 ∧ buddyValid s 1 = true) := by decide +kernel

theorem witness_CommandsContext_more :
    (let pk := packet 0x0103 0xFFFF [0, 0xFFFF]
     served (.mailbox 0) pk bound = true ∧ groupOwner (naming pk bound) 0 = some 0 ∧ bound.mgmt.moves = [] ∧
       (runningIn bound 0).length ≤ savesFree bound) ∧
    (let ext := leBytes 2 0 ++ leBytes 2 1 ++ leBytes 2 9 ++ leBytes 2 1
     let pk := extPacket 0x0500 64 8 [1023, 2]
     let s := hosted ext bound
     served (.mailbox 0) pk s = true ∧ extOf s pk = ext ∧ memberList 0 (halves ext) = some [0, 9] ∧ evenGroups [0, 9] = true ∧
       ownNode s = 0 ∧ portable s 0 = false ∧ s.cctxs = []) ∧
    (let s := grouped bound
     served (.mailbox 0) (packet 0x0501 64 [1]) s = true ∧ (mapFind s.cctxs 1).map (·.slot) = some 0 ∧ s.colls = []) := by decide +kernel

theorem witness_CommandsMemory_map :
    (let pk := packet 0x0200 0xFFFF [1023, 0, 0]
     let del := packet 0x0200 0xFFFF [1023, 1, 0]
     let s := sets [(F.STR_CFG.LOCK, 0, 0, 1)] bound
     served (.mailbox 0) pk bound = true ∧ badEntry bound 1023 (wd (2 ^ 31)) = false ∧ filling bound 1023 = false ∧
       storeLocked bound 0 (wd (2 ^ 31)) = false ∧ bitAt (rget bound .MEM_GMAP 1023).toNat 26 = false ∧
       served (.mailbox 0) del bound = true ∧ (let e := packet 0x0200 0xFFFF [1023, 0, 0x10000000]
         served (.mailbox 0) e s = true ∧ 0x10000000 &&& mapMask = 0x10000000 ∧
           storeLocked s (rget s .MEM_GMAP 1023) (wd (2 ^ 31 + 0x10000000)) = true)) ∧
    (let s := sets [(F.MEM_GMAP.VALID, 9, 0, 1)] (boundTo { ctx0 with granules := [0] })
     served (.mailbox 0) (packet 0x0200 64 [9, 2, 0]) s = true ∧ granuleFree s 9 = true ∧ filling s 9 = false ∧
       served (.mailbox 0) (packet 0x0200 64 [0, 3, 0]) s = true) := by decide +kernel

/-- `bs` at address 0 of granule 0, which slot 0 owns. -/
def stored (bs : List Byte) (s : State) : State := devWriteP 0 bs (fun _ => false) (mapped s)

/-- An image of one empty bundle for one core. -/
def imageBytes : List Byte :=
  line64 (leBytes 4 0x5338494D ++ leBytes 2 1 ++ leBytes 1 0x21 ++ leBytes 1 0 ++ leBytes 2 1 ++ leBytes 2 0 ++ leBytes 2 1 ++ leBytes 2 1 ++
    leBytes 8 0 ++ leBytes 4 64) ++ List.replicate 16 0

theorem witness_CommandsMemory_copy :
    (let s := mapped bound
     served (.mailbox 0) (packet 0x0201 64 [0, 0, 64, 0x100000, 0]) s = true ∧ accessCause s 0 .hostCmd 0 64 = none ∧
       served (.mailbox 0) (packet 0x0202 64 [0, 0, 64, 0x100000, 0]) s = true ∧ hitsHighHalf s [(0, 64)] = false ∧
       fencesOf s 0 0 true [(0, 64)] = []) ∧
    (let s := hosted (leBytes 4 (0x3F * 2 ^ 26)) bound
     let pk := extPacket 0x0305 64 4 [7]
     served (.mailbox 0) pk s = true ∧ progCheck ((chunksOf 4 4 (extOf s pk)).map (fun c => wd (ofLE c))) = 0 ∧
       mapFind s.ucode 7 = none ∧ s.cellars = []) := by decide +kernel

theorem witness_CommandsMemory_image :
    let s := stored imageBytes bound
    let pk := packet 0x0300 64 [0, 0]
    served (.mailbox 0) pk s = true ∧ devBytes s 0 64 = imageBytes.take 64 ∧
      (match imgHead ((rget s .GBL_ID).toNat % 256) (devBytes s 0 64) with
       | some h => ((0, 64) :: h.parts 0).all (fun r => (accessCause s 0 .hostCmd r.1 r.2).isNone && !devPoison s r.1 r.2) &&
           codeCheck (codeOfBytes (devBytes s 64 16)) == 0 && h.tensors == 0 && h.minCores == 1
       | none => false) = true ∧ (bundleOf 0).vec.op ≠ .rngl := by decide +kernel

/-- A launch ring of F0 for slot 0's context. -/
def launching (s : State) : State := sets [(F.RING_CFG.EN, 0, 0, 1), (F.RING_CFG.KIND, 0, 0, 1), (F.RING_CFG.CTX, 0, 0, 64)] s

theorem witness_CommandsWork_post :
    let s := launching (stored (taskDescBytes { (task0 0).desc with params := List.replicate 32 0 }) bound)
    let pk := extPacket 0x0301 64 256 [6, 0, 0, 0, 1]
    served (.ring 0 0) pk s = true ∧ served (.ring 0 0) { pk with flags := 4 } s = true ∧ stepPostable s 0 ctx0 6 = true ∧
      stepSt? ctx0 6 = none ∧ (extOf s pk).length = 256 ∧ accessCause s 0 .hostCmd 0 192 = none ∧
      (taskList s 0 1).all (fun d => taskDescOk 8 d.1 && decide (getLE d.1 16 2 < boundCount ctx0)) = true ∧
      ctxOf s 0 = some ctx0 := by decide +kernel

/-- An update descriptor of program 0x10, fired by the host, of one FP32 element, armed for step 6. -/
def updBytes : List Byte :=
  padTo 192 (leBytes 1 0x10 ++ leBytes 1 0 ++ leBytes 1 1 ++ leBytes 1 2 ++ leBytes 5 1 ++ leBytes 11 0 ++ leBytes 8 6)

/-- Microcode 0 of slot 0: one END. -/
def coded0 (s : State) : State := { mapped s with ucode := [(0, { slot := 0, words := [wd (0x3F * 2 ^ 26)] })] }

theorem witness_CommandsWork_register :
    let s := hosted updBytes (coded0 bound)
    let pk := extPacket 0x0400 64 192 []
    let d : UpdDesc := { slot := 0, bytes := updBytes, armed := 6, program := [wd (0x3F * 2 ^ 26)], fired := false, keptFire := false
                         removing := false, reruns := 0 }
    served (.mailbox 0) pk s = true ∧ extOf s pk = updBytes ∧ namedProgram s 0 updBytes = some [wd (0x3F * 2 ^ 26)] ∧
      updHeadBad updBytes = false ∧ updSlotBad updBytes 0 = false ∧ updProgBad updBytes [wd (0x3F * 2 ^ 26)] = false ∧
      stepReached ctx0 7 = false ∧ updFault s 0 0 d = none ∧ alreadyFired s ctx0 d = false ∧ (stackOf s 0).descs = [] := by
  decide +kernel

theorem witness_CommandsWork :
    (let d : UpdDesc := { slot := 0, bytes := updBytes, armed := 6, program := [wd (0x3F * 2 ^ 26)], fired := false, keptFire := false
                          removing := false, reruns := 0 }
     let s := fun (d : UpdDesc) => modStack 0 (fun k => { k with descs := [(0, d)] }) (coded0 bound)
     served (.mailbox 0) (packet 0x0401 64 [0, 0]) (s d) = true ∧ served (.mailbox 0) (packet 0x0402 64 [0, 0, 6, 0]) (s d) = true ∧
       served (.mailbox 0) (packet 0x0402 64 [0, 0, 7, 0]) (s { d with fired := true, bytes := updBytes.set 1 1 }) = true ∧
       byteAt updBytes 3 = 2 ∧ mapFind (stackOf (s d) 0).descs 0 = some d) ∧
    (let s := solving 0 1 none
     served (.mailbox 0) (packet 0x0404 64 [0, 0]) s = true ∧ mapFind (solverOf s 0).descs 0 = some (solvDesc0 0 1)) := by decide +kernel

/-- A solver descriptor that a registration takes: one 1 by 1 matrix a step from step 6 in two slots. -/
def solvGood : List Byte :=
  padTo 128 (leBytes 4 0 ++ leBytes 2 1 ++ leBytes 2 1 ++ leBytes 4 1 ++ leBytes 2 0 ++ leBytes 1 1 ++ leBytes 1 2 ++ leBytes 8 6 ++ leBytes 34 0 ++
    leBytes 2 1)

theorem witness_CommandsWork_solver :
    let s := hosted solvGood (mapped bound)
    let pk := extPacket 0x0403 64 128 [7]
    served (.mailbox 0) pk s = true ∧ extOf s pk = solvGood ∧ solvBad solvGood = false ∧ (solvOf solvGood).step = 6 ∧
      solvFault s 0 (solvOf solvGood) = none ∧ (solverOf s 7).descs = [] := by decide +kernel

/-! ## Management, test port, clocks, power, start-up -/

theorem witness_Management :
    firmwareRuns bound = true ∧ fbit bound F.MGMT_STAT.ACTIVE_SET = false ∧ fbit bound F.MGMT_STAT.STANDBY_OK = false ∧
    (let s := sets [(F.MGMT_STAT.STANDBY_OK, 0, 0, 1)] bound
     firmwareRuns s = true ∧ fbit s F.MGMT_STAT.ACTIVE_SET = false ∧ fbit s F.MGMT_STAT.STANDBY_OK = true) ∧
    (let s := sets [(F.MGMT_STAT.ACTIVE_SET, 0, 0, 1)] bound
     firmwareRuns s = true ∧ fbit s F.MGMT_STAT.ACTIVE_SET = true) ∧
    (let s := modMgmt (fun m => { m with shedLow := 9 }) bound
     firmwareRuns s = true ∧ 9 ≤ s.mgmt.shedLow ∧ bound.mgmt.shedLow < 9) ∧
    (let s := sets [(F.LOG_CFG.EN, 0, 0, 1)] bound
     fbit s F.LOG_CFG.EN = true ∧
       s.logBuf.length ≤ (fget s F.LOG_TAIL.INDEX + 2 ^ 20 - fget s F.LOG_HEAD.INDEX + 2 ^ 20 - 1) % 2 ^ 20) ∧
    (fbit bound F.SB_STAT.SMB_OFF = false ∧ fget bound F.PWR_STAT.STATE ≠ 2 ∧ bound.mgmt.mctpBusy = false ∧ mgmtUp bound = true ∧
      (modMgmt (fun m => { m with mctpBusy := true }) bound).mgmt.mctpBusy = true) ∧
    (let d : List Byte := [1, 8]
     d.length = 2 ∧ byteAt d 0 % 4 < 2 ∧ 8 ≤ byteAt d 1 ∧ byteAt d 1 < 0xFF) := by decide +kernel

theorem witness_TestPort :
    (let dr : BitVec 66 := BitVec.ofNat 66 (regOff .COL_E2E 0 0 * 2 ^ 32 + 5)
     regAt (bitsOf dr.toNat 63 32) = some (.COL_E2E, 0, 0) ∧ bitAt dr.toNat 64 = false ∧ (rights bound .testPort .COL_E2E 0 0) = (true, true)) ∧
    (let dr : BitVec 66 := BitVec.ofNat 66 (2 ^ 64 + regOff .COL_E2E 0 0 * 2 ^ 32 + 5)
     let s := sets [(F.LOCK_STAT.DEBUG_OPEN, 0, 0, 1)] bound
     regAt (bitsOf dr.toNat 63 32) = some (.COL_E2E, 0, 0) ∧ bitAt dr.toNat 64 = true ∧ loggedWrite .COL_E2E 5 = true ∧
       fbit bound F.LOCK_STAT.DEBUG_OPEN = false ∧ lockedFor s .testPort .COL_E2E 0 0 = false ∧ 64 < logFree s) := by decide +kernel

/-- The monitor of SOSC or a reference with `passes` windows passed under `judge`. -/
def monitored (x judge passes : Nat) (s : State) : State := modMon x (fun m => { m with judge := judge, passes := passes }) s

theorem witness_Clocks :
    (let s := monitored 0 (judgeOf up 0) 63 up
     (monOf s 0).judge = judgeOf s 0 ∧ s.plat.dispute = none ∧ srcReady s 0 = false ∧ windowPasses s 0 (monOf s 0).judge 64000 = true ∧
       windowPasses s 0 (monOf s 0).judge 0 = false) ∧
    (let u := sets [(F.CLK_SRC_STAT.READY_S, 0, 0, 1), (F.CLK_SRC_STAT.READY_A, 0, 0, 1)] up
     let s := monitored 0 2 64 u
     (monOf s 0).judge = judgeOf s 0 ∧ srcReady s 0 = true ∧ (monOf s 0).judge ≠ 3) ∧
    (let u := sets [(F.CLK_SRC_STAT.READY_A, 0, 0, 1)] up
     let s := monitored 0 3 64 u
     (monOf s 0).judge = judgeOf s 0 ∧ srcReady s 0 = true ∧ windowPasses s 0 3 0 = false ∧ (monOf s 0).voided = false) ∧
    holding (sets [(F.CLK_DSTAT.HOLD, 78, 0, 1)] up) 78 = true ∧
    (let s := modPlat (fun p => { p with relock := [(7, 0)] }) (sets [(F.CLK_SRC_STAT.READY_A, 0, 0, 1)] up)
     mapFind s.plat.relock 7 = some 0 ∧ srcReady s 0 = true) ∧
    fbit up F.ATTIC_STAT.SINGLE = false ∧
    (let s := modPlat (fun p => { p with miscompare := true }) up
     s.plat.miscompare = true ∧ fget s F.ATTIC_STAT.COPY = b2n false) ∧
    (let s := sets [(F.BOOT_STAT.PHASE, 0, 0, 1)] up
     fget s F.BOOT_STAT.PHASE = 1 ∧ srcReady s 2 = false) := by decide +kernel

theorem witness_PowerAndHeat :
    breachOf [] [] 0 7 = 0 ∧ breachOf [2000] [] 0 0 ≠ 0 ∧ mapFind bound.plat.throttleStart 7 = none ∧
    ((1839 : BitVec 12).toNat < 1840 ∧ 1840 ≤ (1840 : BitVec 12).toNat ∧ atticOnly bound = false) ∧
    (let s := modPlat (fun p => { p with resetCause := [(7, 1)] })
       (sets [(F.CLK_SRC_STAT.READY_A, 0, 0, 1), (F.DIE_PWR.STATE, 7, 0, 3), (F.BOOT_STAT.PHASE, 0, 0, 5)] up)
     fget s F.DIE_PWR.STATE 7 = 3 ∧ 5 ≤ fget s F.BOOT_STAT.PHASE ∧ dieMayLeave s 7 = true) ∧
    (let s := modPlat (fun p => { p with rails := allRails }) bound
     Rail.core 7 ∈ s.plat.rails ∧ atticOnly s = false) ∧
    (fget bound F.DIE_PWR.STATE 0 = 0 ∧ dieQuiet bound 0 = true ∧ dieReady bound 0 = false) := by decide +kernel

theorem witness_StartUp :
    fget up F.PWR_STAT.STATE ≠ 2 ∧
    (let s := fun (n : Nat) => modPlat (fun p => { p with rails := allRails })
       ((List.range 36).foldl (fun a p => sets [(F.LNK_STAT.STATE, p, 0, 3)] a)
         (sets [(F.BOOT_STAT.PHASE, 0, 0, n), (F.CLK_SRC_STAT.READY_A, 0, 0, 1), (F.CLK_SRC_STAT.READY_S, 0, 0, 1), (F.CLK_SOSC.TRIMMED, 0, 0, 1)] up))
     fget (s 9) F.BOOT_STAT.PHASE = 9 ∧ srcReady (s 1) 2 = true ∧ allRails.all (fun r => (s 2).plat.rails.contains r) = true ∧
       ((srcReady (s 3) 0 || srcReady (s 3) 1) && fbit (s 3) F.CLK_SOSC.TRIMMED) = true ∧
       (!(s 4).plat.perst && (srcReady (s 4) 0 || srcReady (s 4) 1)) = (!(s 4).plat.perst) ∧ fbit (s 5) F.GBL_EDITION.VALID = true ∧
       (List.range 36).all (fun p => portState (s 9) p != 2 || (portOf (s 9) p).attempts != 0) = true) ∧
    (let s := sets [(F.BOOT_STAT.PHASE, 0, 0, 10)] up
     4 ≤ fget s F.BOOT_STAT.PHASE ∧ (modPlat (fun p => { p with perst := false }) s).plat.perst = false) ∧
    (let s := sets [(F.BOOT_STAT.PHASE, 0, 0, 5)] up
     fget s F.BOOT_STAT.PHASE = 5 ∧ s.plat.auth = none) ∧
    driverOn up = false ∧ fbit up F.SB_STAT.ALERT_IGNORED = false ∧ fbit up F.SB_STAT.SMB_OFF = false := by decide +kernel

/-! ## The whole machine -/

theorem witness_StepTakesFront : ({ bound with pending := [.heartbeatTick] } : State).pending ≠ [] := by decide +kernel

theorem witness_IdleStep :
    bound.pending = [] ∧ bound.time.slew = 0 ∧ bound.time.tickPhase + 1 ≠ 10000 ∧ fget bound F.PWR_STAT.STATE ≠ 2 ∧
    fget bound F.MT_STAT.STATE ≠ 3 ∧ bound.time.tenLost = false ∧
    (match step bound with | .next t => t.time.now == bound.time.now + 1 | _ => false) = true ∧
    (let s := modTime (fun t => { t with slew := -1, tickPhase := 9999 }) bound
     match step s with | .next t => t.time.now == s.time.now | _ => false) = true := by decide +kernel

theorem witness_MemoryKept : memoryOk State.reset = true ∧ memoryOk bound = true ∧
    after (step { bound with pending := [.heartbeatTick] }) (fun t => memoryOk t) = true := by decide +kernel

theorem witness_CommandsGoOn : (Instr.fence 0 0).wellFormed = true ∧ reservable (.fence 0 3) = true ∧ (Instr.fence 0 3).wellFormed = false ∧
    reservable .heartbeatTick = false := by decide +kernel

theorem witness_Frames : mayStore .heartbeatTick = false ∧ after (exec .heartbeatTick bound) (fun _ => true) = true ∧
    keepsHost .heartbeatTick = true ∧ keepsCores .heartbeatTick = true ∧ keepsCtxs .heartbeatTick = true ∧ keepsRegs .jtagIdcode = true ∧
    after (exec .jtagIdcode bound) (fun t => t.regs == bound.regs) = true := by decide +kernel

theorem witness_StoredBytes :
    (let s := mapped bound
     stackOk s (locate s 63).1 = true ∧ cowBlock s (locate s 63).1 (locate s 63).2 [7] = none ∧
       (stackOf s (locate s 63).1).waitCow.all (fun w => w.1 / 64 != (locate s 63).2 / 64) = true ∧
       memKey (locate s 63).1 (locate s 63).2 ≠ memKey (locate s 64).1 (locate s 64).2 ∧
       mapGet 0 (devWriteP 63 [7] (fun _ => false) s).mem (memKey (locate s 63).1 (locate s 63).2) = 7) := by decide +kernel

theorem witness_PacketRoundTrip : (packet 0x0201 64 [1, 2]).ps.length = 11 ∧ (line64 [1]).length = 64 ∧
    parsePacket (packetBytes (packet 0x0201 64 [1, 2])) = packet 0x0201 64 [1, 2] := by decide +kernel

theorem witness_PairRule : ((0x7FC00000 : Word), 3).2 ≠ ((0x3F800000 : Word), 2).2 ∧
    maxPair true (0x3F800000, 2) (0x3F800000, 3) = (0x3F800000, 2) := by decide +kernel

theorem witness_MailboxReply :
    let t := writeReply (.mailbox 64) (packet 0 0xFFFF []) stOk true false [1, 2, 3, 4, 5, 6] bound
    fget t F.MB_OSTAT.LEN 64 = 16 ∧ fget t F.MB_OSTAT.FULL 64 = 1 := by decide +kernel

/-- A ring of 16 entries whose last entry is next: the phase turns and the tail is 0. -/
theorem witness_CompletionRing :
    let s := sets [(F.RING_CFG.SIZE_LOG2, 64, 3, 4), (F.RING_STAT.CQ_TAIL, 64, 3, 15)] bound
    fget s F.RING_CFG.SIZE_LOG2 64 3 ≤ 12 ∧ fget s F.RING_STAT.CQ_TAIL 64 3 < ringSize s 64 3 ∧
      (let t := writeReply (.ring 64 3) (packet 0 0xFFFF []) stOk true false [] s
       fget t F.RING_STAT.CQ_TAIL 64 3 = 0 ∧ fget t F.RING_STAT.PHASE 64 3 = 1 - fget s F.RING_STAT.PHASE 64 3) := by decide +kernel

/-! ## Well-formedness: a term that each check refuses -/

/-- Slot forms at an operand that the spec reserves (R70, R131, R171, R175, R217). -/
theorem test_illFormed_slots : ([.loopOp 0 1 0, .fence 0 3, .spawn 0 3 7, .rdobs 0 1 0x20, .vlidx 0 ⟨0, 0⟩ 31, .fcmp 0 ⟨0, 0⟩ 1 1 2 7,
    .cvtin 0 ⟨0, 0⟩ 1 2 7, .cvtout 0 ⟨0, 0⟩ 1 2 7, .rsuma 0 ⟨0, 0⟩ 0 1 2 3 3, .rmaxi 0 ⟨0, 0⟩ 30 1 2 3 false,
    .rmini 0 ⟨0, 0⟩ 30 1 2 3 true, .rngi 0 ⟨0, 0⟩ 31 1 2 3 5, .rngl 0 ⟨0, 0⟩ 31 1 5, .ldv 0 0 1 7 3 0, .stv 0 0 1 7 3 0,
    .mdl 0 16 3 0] : List Instr).all (fun i => !i.wellFormed) = true := by decide +kernel

/-- A parameter list that is not 11 words (R416). -/
theorem test_illFormed_packets : (let p : Packet := { packet 0 0 [] with ps := [] }
    ([.nopCmd (.mailbox 0) p, .getInfo (.mailbox 0) p, .readEvents (.mailbox 0) p, .readLog (.mailbox 0) p, .regAccess (.mailbox 0) p, .telemetry (.mailbox 0) p, .fnQuota (.mailbox 0) p, .bind (.mailbox 0) p,
      .unbind (.mailbox 0) p, .moveGroup (.mailbox 0) p, .halt (.mailbox 0) p, .holdRegister (.mailbox 0) p, .memMap (.mailbox 0) p, .memRead (.mailbox 0) p, .memWrite (.mailbox 0) p, .loadImage (.mailbox 0) p,
      .postStep (.mailbox 0) p, .replay (.mailbox 0) p, .resume (.mailbox 0) p, .realign (.mailbox 0) p, .ucodeLoad (.mailbox 0) p, .updRegister (.mailbox 0) p, .updDeregister (.mailbox 0) p, .updFire (.mailbox 0) p,
      .solvRegister (.mailbox 0) p, .solvDeregister (.mailbox 0) p, .cctxCreate (.mailbox 0) p, .cctxDestroy (.mailbox 0) p, .timeSet (.mailbox 0) p, .portRetrain (.mailbox 0) p, .portUnlock (.mailbox 0) p, .fsRing (.mailbox 0) p,
      .checkpoint (.mailbox 0) p, .restore (.mailbox 0) p, .lockSet (.mailbox 0) p, .debugChallenge (.mailbox 0) p, .debugUnlock (.mailbox 0) p, .debugLock (.mailbox 0) p, .retireUnit (.mailbox 0) p, .setPower (.mailbox 0) p,
      .failover (.mailbox 0) p, .mctpRequest 0 p] : List Instr).all (fun i => !i.wellFormed)) = true := by decide +kernel

/-- Bodies, frames, lines, units and lists of the wrong size. -/
theorem test_illFormed_rest :
    (Instr.cellarRead 0 (BitVec.ofNat _ stackLines) 0).wellFormed = false ∧ (Instr.cellarWrite 0 0 63 [1, 2] false).wellFormed = false ∧
    (Instr.cellarWrite 0 0 0 [] false).wellFormed = false ∧ (Instr.scrubLine 0 (BitVec.ofNat _ stackLines) 0).wellFormed = false ∧
    ([(0, 8, 0), (0, 0, 272), (1, 0, 9), (2, 1, 2), (3, 16, 0), (4, 0, 33), (5, 0, 68), (6, 0, 264), (6, 1, 0), (7, 0, 2)] :
      List (Fin 9 × Fin 36 × Nat)).all (fun x => !(Instr.marginRunStart { kind := x.1, place := x.2.1, unit := x.2.2 } 0).wellFormed) = true ∧
    (Instr.marginRunDone { kind := 0, place := 0, unit := 0 } (List.replicate 12 true)).wellFormed = false ∧
    (Instr.e2eAckReceive []).wellFormed = false ∧ (Instr.e2eNakReceive []).wellFormed = false ∧
    (Instr.collAbortReceive []).wellFormed = false ∧ (Instr.exchangeRequestReceive 0 [] false).wellFormed = false ∧
    (Instr.exchangeReplyReceive 0 [] false).wellFormed = false ∧ (Instr.slotFrameReceive 0 0 0 0 []).wellFormed = false ∧
    (Instr.frameReceive 0 []).wellFormed = false ∧ (Instr.buddyStreamReceive 0 0 [1] [] false).wellFormed = false ∧
    (Instr.throttleTick [] (List.replicate 8 0) 0).wellFormed = false ∧ (Instr.throttleTick (List.replicate 8 0) [] 0).wellFormed = false := by
  decide +kernel

/-- What the firmware finds at start-up: nothing wrong. -/
def boot0 : BootInfo :=
  { disabled := [], engines := List.replicate 16 64, pcSpared := [], stacksLost := 0, banks := 264, standbyBad := false, atticSingle := false
    nodeId := 0, storeGranules := [], logBase := 0 }

theorem test_illFormed_boot : (Instr.startupPhaseComplete boot0).wellFormed = true ∧
    ([{ boot0 with disabled := [2176] }, { boot0 with engines := [] }, { boot0 with pcSpared := [(16, 0)] }, { boot0 with pcSpared := [(0, 32)] },
      { boot0 with banks := 265 }, { boot0 with storeGranules := [(1024, 0)] }] : List BootInfo).all
        (fun b => !(Instr.startupPhaseComplete b).wellFormed) = true := by decide +kernel

/-! ## Clauses at the ends of their ranges -/

/-- A reduction issues with no lane enabled, into the last three registers, and continued. -/
theorem witness_VectorReductions : allIssue running
    ([{ Vec.none with op := .rsuma, mask := 1 }, { Vec.none with op := .rsuma, vd := 29, va := 29, vb := 29, vc := 29, md := 1 },
      { Vec.none with op := .rsuma, vd := 31, vc := 29, md := 2 }, { Vec.none with op := .rsumt, vd := 31 },
      { Vec.none with op := .rmaxi, vd := 29, vc := 31, md := 1 }, { Vec.none with op := .rmini, vd := 29, vc := 31, md := 0 }].map vecB) = true ∧
    lanesOn (issuing 0 running) (run0 0) 0 1 = [] ∧ lanesOn (issuing 0 running) (run0 0) 0 0 = List.range 64 ∧
    vecBad { vec3 .rsuma ⟨0, 0⟩ 30 0 0 with vc := 0, md := 1 } ≠ 0 ∧ vecBad { vec3 .rsuma ⟨0, 0⟩ 30 0 0 with vc := 0, md := 2 } = 0 ∧
    vecBad { vec3 .rsuma ⟨0, 0⟩ 0 0 0 with vc := 30, md := 2 } ≠ 0 := by decide +kernel

/-- The tree adds pairs of neighbours: four ones and one lane alone. -/
theorem test_sumTree : sumTree (fun j => if j < 4 then some 0x3F800000 else none) 6 0 = some 0x40800000 ∧
    sumTree (fun j => if j = 63 then some 5 else none) 6 0 = some 5 ∧ sumTree (fun _ => none) 6 0 = none := by decide +kernel

/-- Each phase of start-up with its condition met, the last phase, and a device in Attic-only. -/
theorem witness_StartUp_phases :
    (let s := fun (n : Nat) => modPlat (fun p => { p with perst := false }) (sets [(F.BOOT_STAT.PHASE, 0, 0, n), (F.CLK_SRC_STAT.READY_B, 0, 0, 1),
       (F.LNK_HP.PRESENT, 0, 0, 1)] up)
     (!(s 4).plat.perst && (srcReady (s 4) 0 || srcReady (s 4) 1)) = true ∧ srcReady (s 4) 0 = false ∧
       (!State.reset.plat.perst) = false ∧ dieMayLeave (s 4) 0 = false ∧
       dieMayLeave (modPlat (fun p => { p with rails := allRails }) (s 4)) 7 = true ∧
       mapDisables (s 6) 0 = false ∧ mapDisables (sets [(F.DUM_CORE.DISABLED, 7, 8, 0x8000)] (s 6)) 2175 = true ∧
       alignable (s 7) = false ∧
       alignable ((List.range 24).foldl (fun a n => sets [(F.CLK_DSTAT.LOCK, n, 0, 1), (F.CLK_DSTAT.CUR, n, 0, 1),
         (F.CLK_DSTAT.HOLD, n, 0, 0), (F.CLK_DSTAT.CUR_RATIO, n, 0, fget (s 7) F.CLK_DOM.RATIO n)] a) (s 7)) = true ∧
       fbit (s 8) F.LNK_HP.PRESENT 0 = true ∧ fbit (s 8) F.LNK_HP.PRESENT 35 = false ∧ fget (s 10) F.BOOT_STAT.PHASE = 10) ∧
    fget (sets [(F.PWR_STAT.STATE, 0, 0, 2)] up) F.PWR_STAT.STATE = 2 ∧ State.reset.plat.perst = true ∧
    fget (sets [(F.BOOT_STAT.PHASE, 0, 0, 5)] up) F.BOOT_STAT.PHASE = 5 := by decide +kernel

/-- A device in Attic-only that is started again keeps its clock and its stand-by registers; one that is reset from the bus too. -/
theorem test_restart :
    (let s := sets [(F.PWR_STAT.STATE, 0, 0, 2), (F.CLK_SOSC.TRIMMED, 0, 0, 1), (F.BOOT_STAT.PHASE, 0, 0, 10)] bound
     after (exec .perstRelease s) (fun t => fget t F.BOOT_STAT.PHASE == 2 && fbit t F.CLK_SOSC.TRIMMED && t.ctxs == [] && !t.time.everLocked) = true) ∧
    (let s := modPlat (fun p => { p with perst := false }) (sets [(F.BOOT_STAT.PHASE, 0, 0, 10), (F.PWR_STAT.STATE, 0, 0, 0)] bound)
     after (exec .perstAssert s) (fun t => fget t F.BOOT_STAT.PHASE == 4 && t.plat.perst && t.ctxs == []) = true) := by decide +kernel

/-- The alert driver on, a stuck alert ignored, and the bus given up. -/
theorem witness_StartUp_sideband :
    (let s := sets [(F.SB_STAT.ALERT_IGNORED, 0, 0, 1), (F.SB_STAT.SMB_OFF, 0, 0, 1)] up
     fbit s F.SB_STAT.ALERT_IGNORED = true ∧ fbit s F.SB_STAT.SMB_OFF = true) ∧
    driverOn (sets [(F.ATTIC_STAT.ALERT, 0, 0, 1)] up) = true ∧ fget (sets [(F.SB_STAT.SMB_TRIES, 0, 0, 2)] up) F.SB_STAT.SMB_TRIES = 2 := by
  decide +kernel

/-- The light of port 35 with state code `n` at millisecond `ms` (R468). -/
def lit (n ms : Nat) : Bool :=
  attnLight (modTime (fun t => { t with now := BitVec.ofNat 64 (16000000 * ms) }) (sets [(F.LNK_HP.ATTN, 35, 0, n)] up)) 35

/-- The patterns of R468 at the ends of their parts; in Attic-only every light is off. -/
theorem test_attnLight : [lit 0 0, lit 1 499, lit 1 500, lit 2 124, lit 2 125, lit 2 250, lit 3 999, lit 4 99, lit 4 100, lit 4 200, lit 4 300,
      lit 5 99, lit 5 100, lit 6 999, lit 6 1000] =
      [false, true, false, true, false, true, true, true, false, true, false, true, false, true, false] ∧
    attnLight (sets [(F.LNK_HP.ATTN, 35, 0, 3), (F.PWR_STAT.STATE, 0, 0, 2)] up) 35 = false := by decide +kernel

/-- A quiet attempt that failed, and a lane that passes its errors for the sixteenth time. -/
theorem witness_Ports_quiet :
    (portOf (modPort 35 (fun p => { p with quiet := true }) (sets [(F.LNK_STAT.STATE, 35, 0, 2)] bound)) 35).quiet = true ∧
    (let s := modPort 35 (fun p => { p with laneCorr := [(8, 1025)], laneRuns := [(8, 15)] }) linked
     1024 < mapGet 0 (portOf s 35).laneCorr 8 ∧ mapGet 0 (portOf s 35).laneRuns 8 = 15 ∧ mapGet 0 (portOf s 35).laneCorr 7 ≤ 1024 ∧
       laneLive s 35 8 = true ∧ portMoves s 35 = true ∧
       after (exec (.markerReceive 35 true (BitVec.ofNat 4 (fget s F.LNK_LANES.RX_SUBST 35))) s)
         (fun t => fget t F.LNK_LANE_EVT.COUNT 35 == fget s F.LNK_LANE_EVT.COUNT 35 + 1) = true) ∧
    portState (sets [(F.LNK_STAT.STATE, 35, 0, 5)] linked) 35 = 5 := by decide +kernel

/-- A refill behind a shut gate and behind an open one; a core whose own queue holds a ready task while it probes. -/
theorem witness_TaskFabric_gates :
    (let shut := { task0 0 with desc := { (task0 0).desc with gate := 1, gateN := 1 } }
     gateOpen ctx0 (task0 0) = true ∧ gateOpen ctx0 shut = false) ∧
    ownReady (boundTo queued) 0 = true ∧ ownReady bound 0 = false := by decide +kernel

/-- A message for a logical core that the context has not. -/
theorem witness_MessagesAndAnchors_refused : boundCount ctx0 ≤ ({ msg0 with lcore := 1 } : Msg).lcore ∧
    (let m : MsgOut := { id := 9, core := 0, saved := none, slot := 4, dst := 0, refused := true }
     ({ running with msgOut := [m] } : State).msgOut.find? (fun e => e.id == 9) = some m) := by decide +kernel

/-- A line with three wrong bytes is corrected; with 74 its pseudo-channel migrates to the spare. -/
theorem test_cellarRead :
    after (exec (.cellarRead 3 0 3) bound) (fun t => !physPoison t 3 0 && fget t F.CEL_CORR.COUNT 3 == 1) = true ∧
    after (exec (.cellarRead 3 0 74) bound) (fun t => fget t F.CEL_STAT.MIGRATING 3 == 1) = true ∧
    after (exec (.cellarRead 3 0 74) (sets [(F.CEL_STAT.SPARE_PC_USED, 3, 0, 1)] bound)) (fun t => !stackOk t 3) = true ∧
    (stackOf bound 3).migrating = none := by decide +kernel

/-- A die held in reset and the quiet state of a solver's work. -/
theorem witness_SolverWorkDone_held :
    (let s := solving 4 1 none
     dieHeld s 0 = false ∧ s.held = [] ∧ s.cellars.all (fun (e : Nat × Stack) => e.2.waitCow.isEmpty) = true) ∧
    dieHeld (sets [(F.DIE_PWR.STATE, 0, 0, 3)] (solving 4 1 none)) 0 = true := by decide +kernel

/-- Places of a flow far ahead, an entry that may be taken back, and a flit for another node. -/
theorem witness_PacketDelivery_ends :
    seqAhead (pkt1 4096).e2e (rxOf bound (pkt1 4096).key).next = 4096 ∧ seqAhead (pkt1 1).e2e (rxOf bound (pkt1 1).key).next = 1 ∧
    (let r : FlowRx := { next := 5, window := [], sinceAck := 0, gap := false, closedAt := 0 }
     let key := { key1 with src := 9, dst := 0 }
     let s := modTime (fun t => { t with now := 16000000 }) { bound with flowsRx := [(key, r)] }
     key.dst.toNat = ownNode s ∧ flowRx? s key = some r ∧ flowTx? s key = none ∧ 16000000 ≤ (s.time.now - r.closedAt).toNat) ∧
    (let s := modPort 35 (fun p => { p with arrived := pktFlits (pkt1 0) }) linked
     (nextArrived s 35).map (fun x => (x.1.map (·.vc), x.2.length)) = some ([1], 0)) := by decide +kernel

/-- Bit 30 of FI_CTRL names a reserved action. -/
theorem witness_ActingRegisters_fi : bitAt (0x40000000 : Word).toNat 30 = true ∧ bitAt (0x80000000 : Word).toNat 30 = false := by decide +kernel

end Sys2Proof.Tests
end

section
/-! PROOFS. The mixing function mix64 (R120, R121): it is a chain of steps that can each be undone, three xor-shifts and two
products with an odd constant. -/

namespace Sys2Proof.Mixing

open Machine

/-- The xor-shift of R120: a word with itself, moved `k` places to the right, added without carry. -/
def xorShift {w : Nat} (k : Nat) (x : BitVec w) : BitVec w := x ^^^ (x >>> k)

/-- mix64 is the chain of its five steps. -/
theorem mix64_eq_comp : mix64 =
    xorShift 32 ∘ (· * 0x8B71E6C25D09A4F3#64) ∘ xorShift 29 ∘ (· * 0xC3A59D1B7E462F8D#64) ∘ xorShift 32 := rfl

theorem toNat_xorShift {w : Nat} (k : Nat) (x : BitVec w) : (xorShift k x).toNat = x.toNat ^^^ (x.toNat / 2 ^ k) := by
  rw [xorShift, BitVec.toNat_xor, BitVec.toNat_ushiftRight, Nat.shiftRight_eq_div_pow]

theorem toNat_mul_const {w c : Nat} (x : BitVec w) (hc : c < 2 ^ w) : (x * BitVec.ofNat w c).toNat = x.toNat * c % 2 ^ w := by
  rw [BitVec.toNat_mul, BitVec.toNat_ofNat, Nat.mod_eq_of_lt hc]

/-- The xor-shift is linear over xor. -/
theorem xorShift_xor {w : Nat} (k : Nat) (x y : BitVec w) : xorShift k (x ^^^ y) = xorShift k x ^^^ xorShift k y := by
  simp only [xorShift, BitVec.ushiftRight_xor_distrib]
  ac_rfl

/-- Only zero is its own shift by one place or more: a shift makes every other number smaller. -/
theorem eq_zero_of_xorShift_eq_zero {w k : Nat} (hk : 0 < k) {x : BitVec w} (h : xorShift k x = 0#w) : x = 0#w := by
  have hfix : x.toNat = x.toNat / 2 ^ k := by
    rw [← Nat.shiftRight_eq_div_pow, ← BitVec.toNat_ushiftRight, ← BitVec.xor_eq_zero_iff.mp h]
  by_contra hx
  have hpos : 0 < x.toNat := Nat.pos_of_ne_zero fun h0 => hx (BitVec.eq_of_toNat_eq h0)
  have hlt : x.toNat / 2 ^ k < x.toNat := Nat.div_lt_self hpos (Nat.one_lt_two_pow hk.ne')
  omega

theorem xorShift_injective {w k : Nat} (hk : 0 < k) : Function.Injective (xorShift (w := w) k) := by
  intro x y h
  have hzero : xorShift k (x ^^^ y) = 0#w := by rw [xorShift_xor, h, BitVec.xor_self]
  exact BitVec.xor_eq_zero_iff.mp (eq_zero_of_xorShift_eq_zero hk hzero)

theorem xorShift_bijective {w k : Nat} (hk : 0 < k) : Function.Bijective (xorShift (w := w) k) :=
  Finite.injective_iff_bijective.mp (xorShift_injective hk)

/-- A product with a constant that has an inverse modulo 2^w is a bijection. -/
theorem mul_const_bijective {w : Nat} {c d : BitVec w} (h : c * d = 1#w) : Function.Bijective (· * c) :=
  IsUnit.isUnit_iff_mulRight_bijective.mp (IsUnit.of_mul_eq_one d h)

/-- Every step is a bijection; the multipliers' inverses modulo 2^64 are given as constants. -/
theorem mix64_bijective : Function.Bijective mix64 := by
  have h32 : Function.Bijective (xorShift (w := 64) 32) := xorShift_bijective (by decide)
  have h29 : Function.Bijective (xorShift (w := 64) 29) := xorShift_bijective (by decide)
  have hmul₁ : Function.Bijective (· * 0xC3A59D1B7E462F8D#64) :=
    mul_const_bijective (d := 0x5E8E3F4D851AAB45#64) (by decide)
  have hmul₂ : Function.Bijective (· * 0x8B71E6C25D09A4F3#64) :=
    mul_const_bijective (d := 0x9223530A438C143B#64) (by decide)
  rw [mix64_eq_comp]
  exact h32.comp (hmul₂.comp (h29.comp (hmul₁.comp h32)))

/-- Settles O56: mix64 is the chain of bijections above, and each step of the chain reads as R120's on numbers. -/
theorem mix64 : Obligations.Mix64 := by
  refine ⟨fun _ _ h => mix64_bijective.injective h, mix64_bijective.surjective, fun x => ?_⟩
  rw [mix64_eq_comp]
  simp only [Function.comp_apply]
  rw [toNat_xorShift, toNat_mul_const _ (by decide), toNat_xorShift, toNat_mul_const _ (by decide), toNat_xorShift]

end Sys2Proof.Mixing
end

section
/-! PROOFS. The counter generator (R213): its output is the plain mix64 of the draw number just where its inner value is
zero, and the key of R214's vector 4 does not make it zero. -/

namespace Sys2Proof.Drawing

open Machine

theorem mix64_zero : mix64 0 = 0 := by decide

/-- The output that the table gives wherever the draw is 1 (R214). -/
theorem mix64_one : mix64 (dw 1) = 0xF6F992EDF0EDDC4F#64 := by decide

/-- Zero is the only word that mix64 leaves zero. -/
theorem mix64_eq_zero_iff {x : DWord} : mix64 x = 0 ↔ x = 0 :=
  Mixing.mix64_bijective.injective.eq_iff' mix64_zero

/-- The output is mix64 of the draw number just where key, stream and index cancel (R213): both calls of mix64 can be
undone. -/
theorem gen_eq_mix64_draw_iff {key : DWord} {stream index draw : Nat} :
    gen key stream index draw = mix64 (dw draw) ↔ key ^^^ dw (stream * 2 ^ 40) ^^^ dw index = 0 := by
  rw [gen, Mixing.mix64_bijective.injective.eq_iff, add_eq_right, mix64_eq_zero_iff]

/-- Refutes O57: vector 4 claims mix64(1). Its stream 0x001234 stands in the inner value as 0x0012340000000000, which the key
0x0123400000000000 does not cancel: 0x0131740000000000 is left, and the output is another. -/
theorem not_drawVectors : ¬ Obligations.DrawVectors := by
  unfold Obligations.DrawVectors
  rintro ⟨-, -, -, hvector4, -⟩
  have hcancel := gen_eq_mix64_draw_iff.mp (hvector4.trans mix64_one.symm)
  have hinner : 0x0123400000000000#64 ^^^ dw (0x001234 * 2 ^ 40) ^^^ dw 0 = 0x0131740000000000#64 := by decide
  exact absurd (hinner.symm.trans hcancel) (by decide)

end Sys2Proof.Drawing
end

section
/-! PROOFS. A reply in an outbound mailbox (R411, R418): the 16 words of `MB_OUT` lie at 16 offsets and `MB_OSTAT` behind
them, so each word reads what the reply put there and the status fields read what was set last. -/

namespace Sys2Proof.Mailboxes

open Machine

/-! ## The elements of one register -/

/-- `s` with the elements of `l` of a register set, in order. -/
def rsetEach (r : Reg) (i : Nat) (v : Nat → Word) (l : List Nat) (s : State) : State :=
  l.foldl (fun a j => rset r i j (v j) a) s

/-- Where the elements lie at offsets of their own, one that was set reads its value and every other reads as before. -/
theorem rget_rsetEach {r : Reg} {i : Nat} (hoff : Function.Injective (regOff r i)) (v : Nat → Word) (k : Nat) (l : List Nat)
    (s : State) : rget (rsetEach r i v l s) r i k = if k ∈ l then v k else rget s r i k := by
  induction l generalizing s with
  | nil => rfl
  | cons j l ih =>
    have hstep : rget (rsetEach r i v (j :: l) s) r i k = if k ∈ l then v k else rget (rset r i j (v j) s) r i k := ih _
    by_cases hkj : k = j
    · subst hkj
      simp [hstep]
    · simp [hstep, hkj, rget_rset_ne (hoff.ne hkj)]

/-! ## Where the mailbox registers lie (R437) -/

theorem regOff_mbOut (f i : Nat) : regOff .MB_OUT f i = 0x09000080 + f * 0x1000 + i * 4 := rfl

theorem regOff_mbOstat (f : Nat) : regOff .MB_OSTAT f 0 = 0x090000C0 + f * 0x1000 := rfl

theorem regOff_mbOut_injective (f : Nat) : Function.Injective (regOff .MB_OUT f) := by
  intro i j h
  simp only [regOff_mbOut] at h
  omega

/-- The status word lies behind the 16 reply words. -/
theorem regOff_mbOut_ne_mbOstat (f : Nat) {i : Nat} (hi : i < 16) : regOff .MB_OUT f i ≠ regOff .MB_OSTAT f 0 := by
  rw [regOff_mbOut, regOff_mbOstat]
  omega

/-! ## What a reply leaves to be read -/

/-- The words of a reply in a mailbox (R418). -/
def replyLen (ys : List Word) : Nat := if ∀ y ∈ ys.drop 5, y = 0 then 8 else 16

/-- Word `i` of `MB_OUT` after a reply (R418). -/
def replyWord (bs : List Byte) (ys : List Word) (i : Nat) : Word := wd (if i < replyLen ys then getLE bs (4 * i) 4 else 0)

theorem replyLen_lt (ys : List Word) : replyLen ys < 2 ^ 5 := by
  unfold replyLen
  split <;> decide

theorem replyLen_le (ys : List Word) : replyLen ys ≤ 16 := by
  unfold replyLen
  split <;> decide

/-- The model's length is `replyLen`. -/
theorem ite_all_beq_zero (ys : List Word) : (if (ys.drop 5).all (· == 0) then 8 else 16) = replyLen ys := by
  simp only [replyLen, List.all_eq_true, beq_iff_eq]

/-- A reply fills `MB_OUT`, then sets `LEN`, then `FULL`, then raises vector 1 (R411). -/
theorem writeMb_eq (f : Nat) (bs : List Byte) (ys : List Word) (s : State) : writeMb f bs ys s =
    raiseMsix f 1 (fset F.MB_OSTAT.FULL f 0 1 (fset F.MB_OSTAT.LEN f 0 (replyLen ys)
      (rsetEach .MB_OUT f (replyWord bs ys) (List.range 16) s))) := by
  unfold writeMb
  rw [ite_all_beq_zero]
  rfl

@[simp] theorem rget_raiseMsix (f v : Nat) (s : State) (r : Reg) (i j : Nat) :
    rget (raiseMsix f v s) r i j = rget s r i j := rfl

@[simp] theorem fget_raiseMsix (f v : Nat) (s : State) (g : Fld) (i j : Nat) :
    fget (raiseMsix f v s) g i j = fget s g i j := rfl

/-- Setting a field leaves a register at another offset. -/
theorem rget_fset_ne {g : Fld} {r : Reg} {i j i' j' : Nat} (h : regOff r i' j' ≠ regOff g.reg i j) (v : Nat) (s : State) :
    rget (fset g i j v s) r i' j' = rget s r i' j' := rget_rset_ne h _ s

theorem fget_writeMb_full (f : Nat) (bs : List Byte) (ys : List Word) (s : State) :
    fget (writeMb f bs ys s) F.MB_OSTAT.FULL f = 1 := by
  rw [writeMb_eq, fget_raiseMsix]
  exact fget_fset_self _ _ _ _ _ (by decide) (by decide)

/-- `FULL` is set after `LEN` and lies above it. -/
theorem fget_writeMb_len (f : Nat) (bs : List Byte) (ys : List Word) (s : State) :
    fget (writeMb f bs ys s) F.MB_OSTAT.LEN f = replyLen ys := by
  rw [writeMb_eq, fget_raiseMsix,
    fget_fset_other _ _ _ _ _ _ _ _ _ (by decide) (by decide) (.inr (by decide)),
    fget_fset_self _ _ _ _ _ (by decide) (by decide)]
  exact Nat.mod_eq_of_lt (replyLen_lt ys)

theorem rget_writeMb_mbOut (f : Nat) (bs : List Byte) (ys : List Word) (s : State) {i : Nat} (hi : i < 16) :
    rget (writeMb f bs ys s) .MB_OUT f i = replyWord bs ys i := by
  have hne := regOff_mbOut_ne_mbOstat f hi
  rw [writeMb_eq, rget_raiseMsix, rget_fset_ne hne, rget_fset_ne hne, rget_rsetEach (regOff_mbOut_injective f),
    if_pos (List.mem_range.mpr hi)]

/-- Settles O59: the status fields read `replyLen` and 1, and each word of `MB_OUT` reads its `replyWord`, which is the
reply's within the length and 0 beyond. -/
theorem mailboxReply : Obligations.MailboxReply := by
  intro f pk st final fo ys s _
  refine ⟨fget_writeMb_len _ _ _ _, fget_writeMb_full _ _ _ _, fun i hi => ?_, fun i hlen hi => ?_⟩
  · exact (rget_writeMb_mbOut _ _ _ _ (Nat.lt_of_lt_of_le hi (replyLen_le ys))).trans (congrArg wd (if_pos hi))
  · exact (rget_writeMb_mbOut _ _ _ _ hi).trans (congrArg wd (if_neg (Nat.not_lt.mpr hlen)))

end Sys2Proof.Mailboxes
end
